-- ==== Sys2Proof/Word.lean ====
section
/-! DEFINITION. The words of the GK-2480 and the sparse tables every indexed piece of state is kept in. -/

namespace Sys2Proof

/-- One byte (R2: multi-byte values are little-endian). -/
abbrev Byte := BitVec 8

/-- A 64-bit word: a symbol (R9), an instruction (R108) or an `s` register (R94). -/
abbrev Word := BitVec 64

/-- A sparse table: pairs of a key and a value, keys strictly rising, no value equal to the table's default. -/
abbrev Tbl (α : Type) := List (Nat × α)

end Sys2Proof
end

