-- ==== Sys2Proof/Machine/Table.lean ====
section
/-! DEFINITION. Reading and writing sparse tables, and the canonical form they keep: keys strictly rising, no value
equal to the default. -/

namespace Sys2Proof.Machine

open Sys2Proof

/-- The value at key `k`; `d` where nothing is listed. -/
def tget {α : Type} (d : α) : Tbl α → Nat → α
  | [], _ => d
  | (k', v') :: t, k => if k = k' then v' else if k < k' then d else tget d t k

/-- Writes `v` at key `k`; writing the default removes the entry. -/
def tset {α : Type} [DecidableEq α] (d : α) : Tbl α → Nat → α → Tbl α
  | [], k, v => if v = d then [] else [(k, v)]
  | (k', v') :: t, k, v =>
    if k < k' then (if v = d then (k', v') :: t else (k, v) :: (k', v') :: t)
    else if k = k' then (if v = d then t.dropWhile (fun e => decide (e.1 ≤ k)) else (k, v) :: t)
    else (k', v') :: tset d t k v

/-- Changes the value at key `k` by `f`. -/
def tmod {α : Type} [DecidableEq α] (d : α) (t : Tbl α) (k : Nat) (f : α → α) : Tbl α :=
  tset d t k (f (tget d t k))

/-- Writes a run of values from key `k` on. -/
def tsetRun {α : Type} [DecidableEq α] (d : α) : Tbl α → Nat → List α → Tbl α
  | t, _, [] => t
  | t, k, v :: vs => tsetRun d (tset d t k v) (k + 1) vs

/-- The values at keys `k` to `k + n - 1`. -/
def tgetRun {α : Type} (d : α) (t : Tbl α) (k : Nat) : Nat → List α
  | 0 => []
  | n + 1 => tget d t k :: tgetRun d t (k + 1) n

/-- The canonical form: keys strictly rising and above `lo`, no value equal to the default. -/
def tcanonFrom {α : Type} [DecidableEq α] (d : α) : Nat → Tbl α → Bool
  | _, [] => true
  | lo, (k, v) :: t => decide (lo ≤ k) && decide (v ≠ d) && tcanonFrom d (k + 1) t

/-- The canonical form of a whole table. -/
def tcanon {α : Type} [DecidableEq α] (d : α) (t : Tbl α) : Bool := tcanonFrom d 0 t

/-! ### Bytes, little-endian (R2) -/

/-- The number that a little-endian run of bytes writes. -/
def leNat : List Byte → Nat
  | [] => 0
  | b :: bs => b.toNat + 256 * leNat bs

/-- The `n` little-endian bytes of a number. -/
def leBytes : Nat → Nat → List Byte
  | 0, _ => []
  | n + 1, x => BitVec.ofNat 8 x :: leBytes n (x / 256)

/-- A number read as an n-bit two's complement value. -/
def signed (n x : Nat) : Int :=
  let y := x % 2 ^ n
  if 2 * y < 2 ^ n then (y : Int) else (y : Int) - (2 ^ n : Nat)

/-- An integer wrapped to n bits. -/
def wrapNat (n : Nat) (x : Int) : Nat := (x % ((2 ^ n : Nat) : Int)).toNat

/-- Bits [h:l] of a number. -/
def bits (x h l : Nat) : Nat := (x / 2 ^ l) % 2 ^ (h + 1 - l)

/-- Rounds `x` up to a multiple of `m`. -/
def alignUp (x m : Nat) : Nat := (x + m - 1) / m * m

/-- The first `n` numbers from `k` on. -/
def upto (k : Nat) : Nat → List Nat
  | 0 => []
  | n + 1 => k :: upto (k + 1) n

end Sys2Proof.Machine
end

