-- ==== Sys2Proof/Syntax.lean ====
section
/-! DEFINITION. The instructions of the GK-2480: one constructor for each row of the opcode table. A row is a cell
instruction (its common header and its format's fields, R108 to R114), a chunk instruction of a reel (R315), or a
host access or hardware event, whose arguments, or the unit the step names, say which queue, cell, area or message it
concerns (assumption 1). -/

namespace Sys2Proof

/-- Bits [55:44] of a cell instruction word (R108): guard register, inverted guard, wait mask. -/
structure Hdr where
  g  : BitVec 3
  gn : BitVec 1
  wm : BitVec 8
  deriving DecidableEq, Repr

/-- Control format K (R110), fields from the highest bit down. -/
structure FmtK where
  cnd : BitVec 4
  sa : BitVec 6
  sb : BitVec 6
  off : BitVec 28
  deriving DecidableEq, Repr

/-- Scalar, vector and mask format T (R110), fields from the highest bit down. -/
structure FmtT where
  d : BitVec 6
  a : BitVec 6
  b : BitVec 6
  c : BitVec 6
  ty : BitVec 4
  rm : BitVec 3
  sat : BitVec 1
  fn : BitVec 12
  deriving DecidableEq, Repr

/-- Immediate format I (R110), fields from the highest bit down. -/
structure FmtI where
  d : BitVec 6
  a : BitVec 6
  imm : BitVec 32
  deriving DecidableEq, Repr

/-- Memory format M (R110), fields from the highest bit down. -/
structure FmtM where
  d : BitVec 6
  as : BitVec 3
  ix : BitVec 6
  ty : BitVec 4
  tok : BitVec 3
  tv : BitVec 1
  scp : BitVec 3
  pol : BitVec 2
  off : BitVec 16
  deriving DecidableEq, Repr

/-- Matrix format X (R110), fields from the highest bit down. -/
structure FmtX where
  acc : BitVec 2
  bk : BitVec 1
  src : BitVec 6
  tya : BitVec 4
  tyb : BitVec 4
  tok : BitVec 3
  tv : BitVec 1
  nrow : BitVec 5
  zc : BitVec 1
  deriving DecidableEq, Repr

/-- Fabric format G (R110), fields from the highest bit down. -/
structure FmtG where
  sl : BitVec 8
  pl : BitVec 2
  sa : BitVec 6
  va : BitVec 6
  tok : BitVec 3
  tv : BitVec 1
  fn : BitVec 6
  cnt : BitVec 12
  deriving DecidableEq, Repr

/-- Area format S (R110), fields from the highest bit down. -/
structure FmtS where
  d : BitVec 6
  a : BitVec 6
  b : BitVec 6
  rop : BitVec 4
  ty : BitVec 4
  ch : BitVec 3
  tok : BitVec 3
  tv : BitVec 1
  sl : BitVec 4
  fn : BitVec 7
  deriving DecidableEq, Repr

/-- Atomic, bridle, flag and privileged format A (R110), fields from the highest bit down. -/
structure FmtA where
  d : BitVec 6
  a : BitVec 6
  b : BitVec 6
  c : BitVec 6
  aop : BitVec 4
  ty : BitVec 4
  scp : BitVec 3
  tok : BitVec 3
  tv : BitVec 1
  deriving DecidableEq, Repr

/-- Fence format F (R110), fields from the highest bit down. -/
structure FmtF where
  pb : BitVec 7
  pa : BitVec 7
  scp : BitVec 3
  str : BitVec 8
  kind : BitVec 3
  deriving DecidableEq, Repr

/-- Reel format E (R110), fields from the highest bit down. -/
structure FmtE where
  a : BitVec 6
  b : BitVec 6
  c : BitVec 6
  rl : BitVec 4
  ch : BitVec 4
  tok : BitVec 3
  tv : BitVec 1
  fn : BitVec 14
  deriving DecidableEq, Repr

/-- Chunk C layout (R315), fields from the highest bit down. -/
structure ChunkC where
  rop : BitVec 3
  ca : BitVec 12
  cb : BitVec 12
  rk : BitVec 8
  rk2 : BitVec 8
  n : BitVec 16
  deriving DecidableEq, Repr

/-- Chunk V layout (R315), fields from the highest bit down. -/
structure ChunkV where
  md : BitVec 3
  k : BitVec 8
  x : BitVec 16
  v : BitVec 32
  deriving DecidableEq, Repr

/-- A PCI Express port (R55). -/
inductive Port where
  | A
  | B
  deriving DecidableEq, Repr

/-- Who makes a host access and through which window (R55): the port, the user window or the control window, and the
PCI Express requester ID (R57); or, with `i3c`, the board's management controller through Maryon (R374). -/
structure HostAcc where
  port : Port
  user : Bool
  rid  : BitVec 16
  i3c  : Bool := false
  deriving DecidableEq, Repr

/-- Where a bridle lives (R255): a slot beside a cell's tile store, or 16 bytes of memory. -/
inductive BridleHome where
  | slot (cell idx : Nat)
  | memory (pa : Nat)
  deriving DecidableEq, Repr

/-- Which share of a queue head is performed: all that one step performs, or the element reads or writes of a transfer under the
numbers from `first` on (R239, R302). -/
inductive OpPart where
  | whole
  | reads (first n : Nat)
  | writes (first n : Nat)
  deriving DecidableEq, Repr

/-- A place of a cell's list of outstanding operations, and the share of that operation performed there. -/
structure QueuePick where
  place : Nat
  part  : OpPart
  deriving DecidableEq, Repr

/-- The elements a burst of a copy moves, those under the numbers from `first` on (R161, R185). -/
structure CopyPick where
  first : Nat
  n     : Nat
  deriving DecidableEq, Repr

/-- What a multicast row passes (R233, R266): from the sender to the root and into the links the root serves, or into
the link whose lower end is node `node` of level `level`, out of the buffer above it. -/
inductive McLink where
  | fromSender
  | fromBuffer (level node : Nat)
  deriving DecidableEq, Repr

/-- The kinds of message between reel channels (R317); a chunk crosses as its header, with its byte count, its granules and its
tail. A credit is the flow control of a link (R326): the peer has written so many more granules of the chunk in progress. -/
inductive MsgKind where
  | cts (seq : BitVec 32)
  | chunk (seq : BitVec 32) (bytes : Nat)
  | gran (data : List Byte)
  | tail
  | ack (seq : BitVec 32)
  | signal (count : BitVec 32)
  | abort
  | credit (n : Nat)
  deriving DecidableEq, Repr

/-- A message between two reel channels: (module, reel, channel) of the sender and of the receiver (R309, R317). -/
structure Msg where
  fromMod  : Nat
  fromReel : Nat
  fromChan : Nat
  toMod    : Nat
  toReel   : Nat
  toChan   : Nat
  kind     : MsgKind
  deriving DecidableEq, Repr

/-- Which message arrives: the k-th one in flight inside this module, or one from a peer module. -/
inductive MsgSrc where
  | inflight (k : Nat)
  | peer (m : Msg)
  deriving DecidableEq, Repr

/-- The unit that reports an ECC error (R381). -/
inductive ErrUnit where
  | register
  | slot
  | tileStore
  | stageCache
  | programCache
  | hbm
  | outSlot
  | directory
  deriving DecidableEq, Repr

/-- Where an uncorrectable error is found (R379, R380): `stageByte` in the line of a physical address that a bay's slice holds;
`program` and `hubProgram` in word `word` of the `n`th microprogram of a cell's or the hub's microprogram cache. -/
inductive ErrPlace where
  | slot (cell : Nat)
  | outSlot (cell : Nat)
  | directory (ar : Nat)
  | register (cell : Nat)
  | tileByte (cell off : Nat)
  | memByte (pa : Nat)
  | stageByte (bay pa : Nat)
  | program (cell n word : Nat)
  | hubProgram (n word : Nat)
  | broadcast (ar : Nat)
  deriving DecidableEq, Repr

/-- A UALink request of a peer module on this module's exported window (R147, R329). -/
inductive PeerReq where
  | read (off bytes : Nat)
  | write (off : Nat) (data : List Byte)
  | atomic (aop : BitVec 4) (wide : Bool) (off : Nat) (b c : Word)
  deriving DecidableEq, Repr

/-- One constructor for each row of the opcode table. -/
inductive Instr where
  -- host accesses and hardware events
  | queueSlotWrite (a : HostAcc) (q : Nat) (slot : Nat) (off : Nat) (data : List Byte)
  | launchCommit (a : HostAcc) (q : Nat) (slot : Nat) (off : Nat) (data : List Byte)
  | qstatErrvClear (a : HostAcc) (q : Nat)
  | queueFlush (a : HostAcc) (q : Nat)
  | semaphoreClaim (a : HostAcc) (n : Nat)
  | semaphoreRelease (a : HostAcc) (n : Nat)
  | semaphoreForceRelease (a : HostAcc) (n : Nat)
  | asidBind (a : HostAcc) (v : Word)
  | ctxkill (a : HostAcc) (v : Word)
  | errlogClear (a : HostAcc)
  | pcapWrite (a : HostAcc) (v : Word)
  | attestationRequest (a : HostAcc)
  | msixUnmask (a : HostAcc) (vec : Option Nat)
  | registerWrite (a : HostAcc) (off : Nat) (v : Option Word)
  | microprogramBroadcast (ar : Nat) (crcFail : List Nat)
  | bridleEvaluation (home : BridleHome)
  | asyncCompletion (cell : Nat) (k : Nat)
  | copyBurstLand (cell : Nat) (k : Nat) (runs : CopyPick)
  | copyComplete (cell : Nat) (k : Nat)
  | multicastRowMove (ar : Nat) (grp : Nat) (link : McLink)
  | multicastRowLand (ar : Nat) (grp : Nat) (cell : Nat)
  | channelMessageDelivery (ar : Nat) (cell : Nat)
  | clearToSendArrival (m : MsgSrc)
  | chunkMessageArrival (m : MsgSrc)
  | acknowledgementArrival (m : MsgSrc)
  | signalArrival (m : MsgSrc)
  | abortArrival (m : MsgSrc)
  | linkRetrain (link : Nat) (ok : Bool)
  | correctedError (u : ErrUnit) (idx : Nat) (addr : Nat)
  | uncorrectableError (p : ErrPlace)
  | pciExpressPortReset (p : Port)
  | inboundPortWrite (p : Port) (pa : Nat) (data : List Byte)
  | peerInboundRequest (r : PeerReq)
  | performQueueHead (cell : Nat) (k : QueuePick)
  | dynamicAddressAssignment (addr : BitVec 7)
  -- cell instructions
  | nop (h : Hdr) (f : FmtK)
  | endApp (h : Hdr) (f : FmtK)
  | cmt (h : Hdr) (f : FmtK)
  | br (h : Hdr) (f : FmtK)
  | call (h : Hdr) (f : FmtK)
  | ret (h : Hdr) (f : FmtK)
  | loop (h : Hdr) (f : FmtK)
  | sleep (h : Hdr) (f : FmtK)
  | trap (h : Hdr) (f : FmtK)
  | brk (h : Hdr) (f : FmtK)
  | xrd (h : Hdr) (f : FmtI)
  | xwr (h : Hdr) (f : FmtI)
  | add (h : Hdr) (f : FmtT)
  | sub (h : Hdr) (f : FmtT)
  | mul (h : Hdr) (f : FmtT)
  | mulh (h : Hdr) (f : FmtT)
  | div (h : Hdr) (f : FmtT)
  | rem (h : Hdr) (f : FmtT)
  | andS (h : Hdr) (f : FmtT)
  | orS (h : Hdr) (f : FmtT)
  | xorS (h : Hdr) (f : FmtT)
  | shl (h : Hdr) (f : FmtT)
  | shr (h : Hdr) (f : FmtT)
  | sra (h : Hdr) (f : FmtT)
  | min (h : Hdr) (f : FmtT)
  | max (h : Hdr) (f : FmtT)
  | cmp (h : Hdr) (f : FmtT)
  | sel (h : Hdr) (f : FmtT)
  | clz (h : Hdr) (f : FmtT)
  | popc (h : Hdr) (f : FmtT)
  | addi (h : Hdr) (f : FmtI)
  | andi (h : Hdr) (f : FmtI)
  | ori (h : Hdr) (f : FmtI)
  | xori (h : Hdr) (f : FmtI)
  | li (h : Hdr) (f : FmtI)
  | shli (h : Hdr) (f : FmtI)
  | shri (h : Hdr) (f : FmtI)
  | srai (h : Hdr) (f : FmtI)
  | cmpi (h : Hdr) (f : FmtI)
  | lih (h : Hdr) (f : FmtI)
  | mov (h : Hdr) (f : FmtT)
  | fadd (h : Hdr) (f : FmtT)
  | fsub (h : Hdr) (f : FmtT)
  | fmul (h : Hdr) (f : FmtT)
  | fma (h : Hdr) (f : FmtT)
  | fmin (h : Hdr) (f : FmtT)
  | fmax (h : Hdr) (f : FmtT)
  | fcmp (h : Hdr) (f : FmtT)
  | fcvt (h : Hdr) (f : FmtT)
  | fcls (h : Hdr) (f : FmtT)
  | vadd (h : Hdr) (f : FmtT)
  | vsub (h : Hdr) (f : FmtT)
  | vmul (h : Hdr) (f : FmtT)
  | vmulh (h : Hdr) (f : FmtT)
  | vand (h : Hdr) (f : FmtT)
  | vor (h : Hdr) (f : FmtT)
  | vxor (h : Hdr) (f : FmtT)
  | vshl (h : Hdr) (f : FmtT)
  | vshr (h : Hdr) (f : FmtT)
  | vsra (h : Hdr) (f : FmtT)
  | vmin (h : Hdr) (f : FmtT)
  | vmax (h : Hdr) (f : FmtT)
  | vabs (h : Hdr) (f : FmtT)
  | vcmp (h : Hdr) (f : FmtT)
  | vsel (h : Hdr) (f : FmtT)
  | vmac (h : Hdr) (f : FmtT)
  | vfadd (h : Hdr) (f : FmtT)
  | vfsub (h : Hdr) (f : FmtT)
  | vfmul (h : Hdr) (f : FmtT)
  | vfma (h : Hdr) (f : FmtT)
  | vfmin (h : Hdr) (f : FmtT)
  | vfmax (h : Hdr) (f : FmtT)
  | vfneg (h : Hdr) (f : FmtT)
  | vfcmp (h : Hdr) (f : FmtT)
  | vexp2 (h : Hdr) (f : FmtT)
  | vlog2 (h : Hdr) (f : FmtT)
  | vrcp (h : Hdr) (f : FmtT)
  | vrsq (h : Hdr) (f : FmtT)
  | vredsum (h : Hdr) (f : FmtT)
  | vredmax (h : Hdr) (f : FmtT)
  | vscale (h : Hdr) (f : FmtT)
  | vcvt (h : Hdr) (f : FmtT)
  | vqbx (h : Hdr) (f : FmtT)
  | vdqbx (h : Hdr) (f : FmtT)
  | vperm (h : Hdr) (f : FmtT)
  | vbcast (h : Hdr) (f : FmtT)
  | vext (h : Hdr) (f : FmtT)
  | vins (h : Hdr) (f : FmtT)
  | vzip (h : Hdr) (f : FmtT)
  | vunzip (h : Hdr) (f : FmtT)
  | vtr4 (h : Hdr) (f : FmtT)
  | vshf (h : Hdr) (f : FmtT)
  | vpack (h : Hdr) (f : FmtT)
  | vunpack (h : Hdr) (f : FmtT)
  | kand (h : Hdr) (f : FmtT)
  | kor (h : Hdr) (f : FmtT)
  | kxor (h : Hdr) (f : FmtT)
  | knot (h : Hdr) (f : FmtT)
  | kmov (h : Hdr) (f : FmtT)
  | kpop (h : Hdr) (f : FmtT)
  | kfirst (h : Hdr) (f : FmtT)
  | kset (h : Hdr) (f : FmtT)
  | ld (h : Hdr) (f : FmtM)
  | st (h : Hdr) (f : FmtM)
  | lds (h : Hdr) (f : FmtM)
  | sts (h : Hdr) (f : FmtM)
  | ldg (h : Hdr) (f : FmtM)
  | stg (h : Hdr) (f : FmtM)
  | ldx (h : Hdr) (f : FmtM)
  | stx (h : Hdr) (f : FmtM)
  | shpSym (h : Hdr) (f : FmtM)
  | shpVec (h : Hdr) (f : FmtM)
  | shpExt (h : Hdr) (f : FmtM)
  | sadv (h : Hdr) (f : FmtM)
  | pfg (h : Hdr) (f : FmtM)
  | cpy (h : Hdr) (f : FmtM)
  | cpq (h : Hdr) (f : FmtM)
  | talloc (h : Hdr) (f : FmtM)
  | tfree (h : Hdr) (f : FmtM)
  | tshr (h : Hdr) (f : FmtM)
  | bld (h : Hdr) (f : FmtX)
  | bldm (h : Hdr) (f : FmtX)
  | mma (h : Hdr) (f : FmtX)
  | mmt (h : Hdr) (f : FmtX)
  | mzero (h : Hdr) (f : FmtX)
  | mst (h : Hdr) (f : FmtX)
  | mrd (h : Hdr) (f : FmtX)
  | mscl (h : Hdr) (f : FmtX)
  | gld (h : Hdr) (f : FmtG)
  | grel (h : Hdr) (f : FmtG)
  | gbind (h : Hdr) (f : FmtG)
  | gstr (h : Hdr) (f : FmtG)
  | gcol (h : Hdr) (f : FmtG)
  | gctx (h : Hdr) (f : FmtG)
  | gfrz (h : Hdr) (f : FmtG)
  | gthaw (h : Hdr) (f : FmtG)
  | gqry (h : Hdr) (f : FmtG)
  | fence (h : Hdr) (f : FmtF)
  | sbar (h : Hdr) (f : FmtF)
  | atom (h : Hdr) (f : FmtA)
  | brinit (h : Hdr) (f : FmtA)
  | brarr (h : Hdr) (f : FmtA)
  | brdrop (h : Hdr) (f : FmtA)
  | brexp (h : Hdr) (f : FmtA)
  | brwait (h : Hdr) (f : FmtA)
  | brtest (h : Hdr) (f : FmtA)
  | flwait (h : Hdr) (f : FmtA)
  | flset (h : Hdr) (f : FmtA)
  | syrd (h : Hdr) (f : FmtS)
  | emit (h : Hdr) (f : FmtS)
  | emitt (h : Hdr) (f : FmtS)
  | abc (h : Hdr) (f : FmtS)
  | ard (h : Hdr) (f : FmtS)
  | ascn (h : Hdr) (f : FmtS)
  | asnd (h : Hdr) (f : FmtS)
  | arcv (h : Hdr) (f : FmtS)
  | nbr (h : Hdr) (f : FmtS)
  | tok (h : Hdr) (f : FmtS)
  | opnd (h : Hdr) (f : FmtS)
  | rlload (h : Hdr) (f : FmtE)
  | rlgo (h : Hdr) (f : FmtE)
  | rlpost (h : Hdr) (f : FmtE)
  | rlstat (h : Hdr) (f : FmtE)
  | xwrp (h : Hdr) (f : FmtI)
  | tlbiPage (h : Hdr) (f : FmtA)
  | tlbiRange (h : Hdr) (f : FmtA)
  | tlbiAsid (h : Hdr) (f : FmtA)
  | ptst (h : Hdr) (f : FmtA)
  | fltdoneOk (h : Hdr) (f : FmtA)
  | fltdoneFail (h : Hdr) (f : FmtA)
  | fltdoneIrq (h : Hdr) (f : FmtA)
  | asret (h : Hdr) (f : FmtA)
  | ctxsvSave (h : Hdr) (f : FmtA)
  | ctxsvForce (h : Hdr) (f : FmtA)
  | ctxsvResume (h : Hdr) (f : FmtA)
  | ctxsvKill (h : Hdr) (f : FmtA)
  -- chunk instructions
  | reelNop (w : ChunkC)
  | reelEnd (w : ChunkC)
  | send (w : ChunkC)
  | recv (w : ChunkC)
  | rrc (w : ChunkC)
  | red (w : ChunkC)
  | redany (w : ChunkC)
  | ccpy (w : ChunkC)
  | xf (w : ChunkC)
  | lflag (w : ChunkV)
  | sig (w : ChunkV)
  | cwait (w : ChunkV)
  | setc (w : ChunkV)
  | decb (w : ChunkV)
  | seqb (w : ChunkV)
  | mark (w : ChunkV)
  -- host accesses and hardware events that name their unit in the state (assumption 1)
  | attestationReportReady
  | headChecks
  | holdRelease
  | imageFetch
  | strandGrant
  | sweepP
  | joinedSweepStart
  | hubCacheFetch
  | lClose
  | areaStart
  | abortContextStop
  | storagePhase
  | shiftComplete
  | compaction
  | compactionMoveDone
  | allocatorPreemptionTimeout
  | commit
  | trapAtRoot
  | areaStall
  | tableWalk
  | confirmingWalk
  | sampleReport
  | watchFire
  | sleepExpiry
  | graphStep
  | quantumExpiry
  | planeIdleTimeout
  | planeSwitchDone
  | linkRefusal
  | portReset
  | portUpResend
  | flitCrcRetry
  | cellRetirement
  | powerStepRise
  | powerStepFall
  | thermalStepRise
  | thermalStepFall
  | thermalTrip
  | coldStart
  | gracePeriodExpiry
  | preemptionCut
  | preemptionSaveWrite
  | terminationFirstSample
  | terminationSecondSample
  | propagateWrite
  | asidBindDone
  deriving DecidableEq, Repr

end Sys2Proof
end

