-- ==== Sys2Proof/WellFormed.lean ====
section
/-! DEFINITION. The decode checks 3 and 4 of R113 on the fields of every cell instruction: what an instruction leaves
unused must be zero (R111), and no used field holds a reserved value (R104, R109 to R112 and each entry). Also the
limits of every chunk instruction (R315). -/

namespace Sys2Proof

/-- A field naming an `s` or `v` register (R111). -/
def isS (x : BitVec 6) : Bool := decide (x.toNat < 32)

/-- A field naming a `k` or `a` register (R111). -/
def isK (x : BitVec 6) : Bool := decide (x.toNat < 8)

/-- Token class S (R104). -/
def classS (tv : BitVec 1) (tok : BitVec 3) : Bool := tv == 0 && tok == 0

/-- Token class E: `tok` has a meaning only with `tv` = 1 (R104). -/
def classE (tv : BitVec 1) (tok : BitVec 3) : Bool := tv == 1 || tok == 0

/-- The guard encoding of the header: `g` = 0 with `gn` = 1 is reserved (R109). -/
def guardOk (h : Hdr) : Bool := h.g != 0 || h.gn == 0

/-- The form that takes no guard (R213, R215). -/
def noGuard (h : Hdr) : Bool := h.g == 0 && h.gn == 0

/-- A floating-point type code (R112). -/
def isFloatTy (t : Nat) : Bool := [4, 5, 6, 7, 8].contains t

/-- An integer type code (R112), INT64 among them. -/
def isIntTy (t : Nat) : Bool := [0, 1, 2, 3, 12, 13, 14].contains t

/-- Element width in bits of a type code (R112, R126, R198); 8 for the reserved codes, which no check lets through. -/
def tyWidth (t : Nat) : Nat :=
  if t = 9 then 4
  else if [1, 6, 7, 13].contains t then 16
  else if [2, 8, 14].contains t then 32
  else if t = 3 then 64
  else 8

/-- The lane count L of a type (R126). -/
def lanes (t : Nat) : Nat := 1024 / tyWidth t

/-- The two types of `fcvt` (R125): codes 0 to 8 or 12 to 14, at least one of them floating-point. -/
def fcvtPair (d s : Nat) : Bool :=
  (isFloatTy d || isIntTy d) && (isFloatTy s || isIntTy s) && (isFloatTy d || isFloatTy s)

/-- The types `vcvt` takes (R212). -/
def vcvtTy (t : Nat) : Bool := [0, 1, 2, 4, 5, 6, 7, 8, 12, 13, 14].contains t

/-- An integer-to-integer pair of `vcvt` (R212). -/
def vcvtIntInt (d s : Nat) : Bool := isIntTy d && isIntTy s

/-- The number of parts of a conversion between two types (R211). -/
def partCount (d s : Nat) : Nat := max (lanes d) (lanes s) / min (lanes d) (lanes s)

/-- The codes of `vcvt` (R212): types that differ, a part below their ratio, `sat` only where it is accepted. -/
def vcvtOk (d s p : Nat) (sat : BitVec 1) : Bool :=
  vcvtTy d && vcvtTy s && d != s && decide (p < partCount d s) &&
    (sat == 0 || vcvtIntInt d s || d == 4 || d == 5)

/-- The codes of `kmov` with the register classes each form gives its operands (R126). -/
def kmovOk (fn : Nat) (d a : BitVec 6) : Bool :=
  if fn = 0 then isK d && isK a
  else if fn ≤ 4 then isK d && isS a
  else decide (fn ≤ 8) && isS d && isK a

/-- The operand pairs of the matrix unit (R217). -/
def matPair (a b : Nat) : Bool :=
  ([6, 7].contains a && [6, 7].contains b) || ([4, 5, 11].contains a && [4, 5, 11].contains b) ||
    (a == 9 && b == 9) || ([0, 12].contains a && [0, 12].contains b)

/-- The operations and types of `atom`, and the register pairs of `cas128` (R251). -/
def atomOk (f : FmtA) : Bool :=
  let p := f.aop.toNat
  if p ≤ 9 || p = 11 then f.ty == 2 || f.ty == 3
  else if p = 10 then f.ty == 8 || f.ty == 6
  else if p = 12 then
    f.ty == 3 && f.d != 0 && f.d.toNat % 2 == 0 && f.b.toNat % 2 == 0 && f.c.toNat % 2 == 0 &&
      decide (f.d.toNat < 31) && decide (f.b.toNat < 31) && decide (f.c.toNat < 31)
  else false

/-- The operations and types of `ard` and `ascn` (R135): INT64 only in the scalar form, the bitwise codes only with
integers. -/
def collTy (rop ty fn : Nat) : Bool :=
  decide (rop ≤ 5) &&
    (([6, 7, 8].contains ty && decide (rop ≤ 2)) || [0, 1, 2, 12, 13, 14].contains ty || (ty == 3 && fn % 2 == 1))

/-- Check 3 of R113: every field, or part of a field, that the entry leaves unused is zero. -/
def Instr.unusedZero (i : Instr) : Bool :=
  match i with
  | .queueSlotWrite _ _ _ _ _ => true
  | .launchCommit _ _ _ _ _ => true
  | .qstatErrvClear _ _ => true
  | .queueFlush _ _ => true
  | .semaphoreClaim _ _ => true
  | .semaphoreRelease _ _ => true
  | .semaphoreForceRelease _ _ => true
  | .asidBind _ _ => true
  | .ctxkill _ _ => true
  | .errlogClear _ => true
  | .pcapWrite _ _ => true
  | .attestationRequest _ => true
  | .msixUnmask _ _ => true
  | .registerWrite _ _ _ => true
  | .microprogramBroadcast _ _ => true
  | .bridleEvaluation _ => true
  | .asyncCompletion _ _ => true
  | .copyBurstLand _ _ _ => true
  | .copyComplete _ _ => true
  | .multicastRowMove _ _ _ => true
  | .multicastRowLand _ _ _ => true
  | .channelMessageDelivery _ _ => true
  | .clearToSendArrival _ => true
  | .chunkMessageArrival _ => true
  | .acknowledgementArrival _ => true
  | .signalArrival _ => true
  | .abortArrival _ => true
  | .linkRetrain _ _ => true
  | .correctedError _ _ _ => true
  | .uncorrectableError _ => true
  | .pciExpressPortReset _ => true
  | .inboundPortWrite _ _ _ => true
  | .peerInboundRequest _ => true
  | .performQueueHead _ _ => true
  | .dynamicAddressAssignment _ => true
  | .attestationReportReady => true
  | .headChecks => true
  | .holdRelease => true
  | .imageFetch => true
  | .strandGrant => true
  | .sweepP => true
  | .joinedSweepStart => true
  | .hubCacheFetch => true
  | .lClose => true
  | .areaStart => true
  | .abortContextStop => true
  | .storagePhase => true
  | .shiftComplete => true
  | .compaction => true
  | .compactionMoveDone => true
  | .allocatorPreemptionTimeout => true
  | .commit => true
  | .trapAtRoot => true
  | .areaStall => true
  | .tableWalk => true
  | .confirmingWalk => true
  | .sampleReport => true
  | .watchFire => true
  | .sleepExpiry => true
  | .graphStep => true
  | .quantumExpiry => true
  | .planeIdleTimeout => true
  | .planeSwitchDone => true
  | .linkRefusal => true
  | .portReset => true
  | .portUpResend => true
  | .flitCrcRetry => true
  | .cellRetirement => true
  | .powerStepRise => true
  | .powerStepFall => true
  | .thermalStepRise => true
  | .thermalStepFall => true
  | .thermalTrip => true
  | .coldStart => true
  | .gracePeriodExpiry => true
  | .preemptionCut => true
  | .preemptionSaveWrite => true
  | .terminationFirstSample => true
  | .terminationSecondSample => true
  | .propagateWrite => true
  | .asidBindDone => true
  | .nop _ f => (f.cnd == 0) && (f.sa == 0) && (f.sb == 0) && (f.off == 0)
  | .endApp _ f => (f.cnd == 0) && (f.sa == 0) && (f.sb == 0) && (f.off == 0)
  | .cmt _ f => (f.cnd == 0) && (f.sa == 0) && (f.sb == 0) && (f.off == 0)
  | .br _ f => (f.cnd != 0 || f.sa == 0) && (f.cnd != 0 || f.sb == 0)
  | .call _ f => (f.cnd == 0) && (f.sa == 0) && (f.sb == 0)
  | .ret _ f => (f.cnd == 0) && (f.sa == 0) && (f.sb == 0) && (f.off == 0)
  | .loop _ f => (f.cnd == 0) && (f.sb == 0)
  | .sleep _ f => (f.off.extractLsb 27 27 == 0) && (f.cnd == 0) && (f.sb == 0)
  | .trap _ f => (f.off.extractLsb 27 16 == 0) && (f.cnd == 0) && (f.sa == 0) && (f.sb == 0)
  | .brk _ f => (f.off.extractLsb 27 16 == 0) && (f.cnd == 0) && (f.sa == 0) && (f.sb == 0)
  | .xrd _ f => (f.imm.extractLsb 31 12 == 0) && (f.a == 0)
  | .xwr _ f => (f.imm.extractLsb 31 12 == 0) && (f.d == 0)
  | .add _ f => (f.c == 0) && (f.rm == 0) && (f.fn == 0)
  | .sub _ f => (f.c == 0) && (f.rm == 0) && (f.fn == 0)
  | .mul _ f => (f.c == 0) && (f.rm == 0) && (f.fn == 0)
  | .mulh _ f => (f.c == 0) && (f.rm == 0) && (f.fn == 0)
  | .div _ f => (f.c == 0) && (f.rm == 0) && (f.fn == 0)
  | .rem _ f => (f.c == 0) && (f.rm == 0) && (f.fn == 0)
  | .andS _ f => (f.c == 0) && (f.rm == 0) && (f.fn == 0)
  | .orS _ f => (f.c == 0) && (f.rm == 0)
  | .xorS _ f => (f.c == 0) && (f.rm == 0)
  | .shl _ f => (f.c == 0) && (f.rm == 0) && (f.fn == 0)
  | .shr _ f => (f.c == 0) && (f.rm == 0) && (f.fn == 0)
  | .sra _ f => (f.c == 0) && (f.rm == 0) && (f.fn == 0)
  | .min _ f => (f.c == 0) && (f.rm == 0) && (f.fn == 0)
  | .max _ f => (f.c == 0) && (f.rm == 0) && (f.fn == 0)
  | .cmp _ f => (f.c == 0) && (f.rm == 0) && (f.fn == 0)
  | .sel _ f => (f.rm == 0) && (f.fn == 0)
  | .clz _ f => (f.b == 0) && (f.c == 0) && (f.rm == 0)
  | .popc _ f => (f.b == 0) && (f.c == 0) && (f.rm == 0)
  | .addi _ _ => true
  | .andi _ _ => true
  | .ori _ _ => true
  | .xori _ _ => true
  | .li _ f => (f.a == 0)
  | .shli _ _ => true
  | .shri _ _ => true
  | .srai _ _ => true
  | .cmpi _ _ => true
  | .lih _ _ => true
  | .mov _ f => (f.b == 0) && (f.c == 0) && (f.ty == 0) && (f.rm == 0) && (f.sat == 0) && (f.fn == 0)
  | .fadd _ f => (f.c == 0) && (f.sat == 0) && (f.fn == 0)
  | .fsub _ f => (f.c == 0) && (f.sat == 0) && (f.fn == 0)
  | .fmul _ f => (f.c == 0) && (f.sat == 0) && (f.fn == 0)
  | .fma _ f => (f.sat == 0) && (f.fn == 0)
  | .fmin _ f => (f.c == 0) && (f.rm == 0) && (f.sat == 0) && (f.fn == 0)
  | .fmax _ f => (f.c == 0) && (f.rm == 0) && (f.sat == 0) && (f.fn == 0)
  | .fcmp _ f => (f.c == 0) && (f.rm == 0) && (f.sat == 0)
  | .fcvt _ f => (f.fn.extractLsb 11 4 == 0) && (f.b == 0) && (f.c == 0)
  | .fcls _ f => (f.b == 0) && (f.c == 0) && (f.rm == 0) && (f.sat == 0) && (f.fn == 0)
  | .vadd _ f => (f.c == 0) && (f.rm == 0) && (f.fn == 0)
  | .vsub _ f => (f.c == 0) && (f.rm == 0) && (f.fn == 0)
  | .vmul _ f => (f.c == 0) && (f.rm == 0) && (f.fn == 0)
  | .vmulh _ f => (f.c == 0) && (f.rm == 0) && (f.fn == 0)
  | .vand _ f => (f.c == 0) && (f.rm == 0) && (f.fn == 0)
  | .vor _ f => (f.c == 0) && (f.rm == 0) && (f.fn == 0)
  | .vxor _ f => (f.c == 0) && (f.rm == 0) && (f.fn == 0)
  | .vshl _ f => (f.c == 0) && (f.rm == 0)
  | .vshr _ f => (f.c == 0) && (f.rm == 0)
  | .vsra _ f => (f.c == 0) && (f.rm == 0) && (f.fn == 0)
  | .vmin _ f => (f.c == 0) && (f.rm == 0) && (f.fn == 0)
  | .vmax _ f => (f.c == 0) && (f.rm == 0) && (f.fn == 0)
  | .vabs _ f => (f.b == 0) && (f.c == 0) && (f.rm == 0) && (f.fn == 0)
  | .vcmp _ f => (f.c == 0) && (f.rm == 0)
  | .vsel _ f => (f.rm == 0) && (f.fn == 0)
  | .vmac _ f => (f.c == 0) && (f.rm == 0) && (f.fn == 0)
  | .vfadd _ f => (f.c == 0) && (f.sat == 0) && (f.fn == 0)
  | .vfsub _ f => (f.c == 0) && (f.sat == 0) && (f.fn == 0)
  | .vfmul _ f => (f.c == 0) && (f.sat == 0) && (f.fn == 0)
  | .vfma _ f => (f.sat == 0) && (f.fn == 0)
  | .vfmin _ f => (f.c == 0) && (f.rm == 0) && (f.sat == 0) && (f.fn == 0)
  | .vfmax _ f => (f.c == 0) && (f.rm == 0) && (f.sat == 0) && (f.fn == 0)
  | .vfneg _ f => (f.b == 0) && (f.c == 0) && (f.rm == 0) && (f.sat == 0) && (f.fn == 0)
  | .vfcmp _ f => (f.c == 0) && (f.rm == 0) && (f.sat == 0)
  | .vexp2 _ f => (f.b == 0) && (f.c == 0) && (f.sat == 0) && (f.fn == 0)
  | .vlog2 _ f => (f.b == 0) && (f.c == 0) && (f.sat == 0) && (f.fn == 0)
  | .vrcp _ f => (f.b == 0) && (f.c == 0) && (f.sat == 0) && (f.fn == 0)
  | .vrsq _ f => (f.b == 0) && (f.c == 0) && (f.sat == 0) && (f.fn == 0)
  | .vredsum _ f => (f.b == 0) && (f.c == 0) && (f.sat == 0) && (f.fn == 0)
  | .vredmax _ f => (f.b == 0) && (f.c == 0) && (f.rm == 0) && (f.sat == 0) && (f.fn == 0)
  | .vscale _ f => (f.c == 0) && (f.sat == 0) && (f.fn == 0)
  | .vcvt _ f => (!(vcvtIntInt f.ty.toNat (f.fn.toNat % 16)) || f.rm == 0) && (f.fn.extractLsb 11 7 == 0) && (f.b == 0) && (f.c == 0)
  | .vqbx _ f => (f.fn.extractLsb 11 11 == 0) && (f.b == 0) && (f.c == 0) && (f.sat == 0)
  | .vdqbx _ f => (f.fn.extractLsb 11 7 == 0) && (f.b == 0) && (f.c == 0) && (f.sat == 0)
  | .vperm _ f => (f.c == 0) && (f.rm == 0) && (f.sat == 0) && (f.fn == 0)
  | .vbcast _ f => (f.b == 0) && (f.c == 0) && (f.rm == 0) && (f.sat == 0) && (f.fn == 0)
  | .vext _ f => (f.c == 0) && (f.rm == 0) && (f.sat == 0) && (f.fn == 0)
  | .vins _ f => (f.c == 0) && (f.rm == 0) && (f.sat == 0) && (f.fn == 0)
  | .vzip _ f => (f.c == 0) && (f.rm == 0) && (f.sat == 0)
  | .vunzip _ f => (f.c == 0) && (f.rm == 0) && (f.sat == 0)
  | .vtr4 _ f => (f.b == 0) && (f.c == 0) && (f.rm == 0) && (f.sat == 0) && (f.fn == 0)
  | .vshf _ f => (f.rm == 0) && (f.sat == 0) && (f.fn == 0)
  | .vpack _ f => (f.c == 0) && (f.rm == 0) && (f.fn == 0)
  | .vunpack _ f => (f.b == 0) && (f.c == 0) && (f.rm == 0) && (f.sat == 0)
  | .kand _ f => (f.c == 0) && (f.ty == 0) && (f.rm == 0) && (f.sat == 0) && (f.fn == 0)
  | .kor _ f => (f.c == 0) && (f.ty == 0) && (f.rm == 0) && (f.sat == 0) && (f.fn == 0)
  | .kxor _ f => (f.c == 0) && (f.ty == 0) && (f.rm == 0) && (f.sat == 0) && (f.fn == 0)
  | .knot _ f => (f.b == 0) && (f.c == 0) && (f.ty == 0) && (f.rm == 0) && (f.sat == 0) && (f.fn == 0)
  | .kmov _ f => (f.b == 0) && (f.c == 0) && (f.ty == 0) && (f.rm == 0) && (f.sat == 0)
  | .kpop _ f => (f.b == 0) && (f.c == 0) && (f.rm == 0) && (f.sat == 0) && (f.fn == 0)
  | .kfirst _ f => (f.b == 0) && (f.c == 0) && (f.rm == 0) && (f.sat == 0) && (f.fn == 0)
  | .kset _ f => (f.b == 0) && (f.c == 0) && (f.rm == 0) && (f.sat == 0) && (f.fn == 0)
  | .ld _ f => (f.scp == 0) && (f.pol == 0)
  | .st _ f => (f.scp == 0) && (f.pol == 0)
  | .lds _ f => (f.scp == 0) && (f.pol == 0)
  | .sts _ f => (f.scp == 0) && (f.pol == 0)
  | .ldg _ f => (f.scp == 0)
  | .stg _ f => (f.scp == 0)
  | .ldx _ f => (f.scp == 0)
  | .stx _ f => (f.scp == 0)
  | .shpSym _ f => (f.ix == 0) && (f.ty == 0) && (f.scp == 0) && (f.off == 0)
  | .shpVec _ f => (f.ix == 0) && (f.ty == 0) && (f.scp == 0) && (f.off == 0)
  | .shpExt _ f => (f.ty == 0) && (f.scp == 0) && (f.off == 0)
  | .sadv _ f => (f.ty == 0) && (f.scp == 0) && (f.pol == 0)
  | .pfg _ f => (f.d == 0) && (f.scp == 0)
  | .cpy _ f => (f.as == 0) && (f.ix == 0) && (f.ty == 0) && (f.off == 0)
  | .cpq _ f => (f.as == 0) && (f.ty == 0) && (f.scp == 0) && (f.pol == 0) && (f.off == 0)
  | .talloc _ f => (f.as == 0) && (f.scp == 0) && (f.pol == 0) && (f.off == 0)
  | .tfree _ f => (f.as == 0) && (f.ix == 0) && (f.ty == 0) && (f.scp == 0) && (f.pol == 0) && (f.off == 0)
  | .tshr _ f => (f.as == 0) && (f.ty == 0) && (f.scp == 0) && (f.pol == 0) && (f.off == 0)
  | .bld _ f => (f.acc == 0) && (f.tyb == 0) && (f.zc == 0)
  | .bldm _ f => (f.zc == 0 || f.src == 0) && (f.tyb == 0)
  | .mma _ _ => true
  | .mmt _ _ => true
  | .mzero _ f => (f.bk == 0) && (f.src == 0) && (f.tyb == 0) && (f.nrow == 0) && (f.zc == 0)
  | .mst _ f => (f.bk == 0) && (f.tyb == 0) && (f.zc == 0)
  | .mrd _ f => (f.bk == 0) && (f.tyb == 0) && (f.zc == 0)
  | .mscl _ f => (f.bk == 0) && (f.tyb == 0) && (f.nrow == 0) && (f.zc == 0)
  | .gld _ f => (f.cnt == 0)
  | .grel _ f => (f.pl == 0) && (f.sa == 0) && (f.va == 0) && (f.cnt == 0)
  | .gbind _ f => (f.pl == 0) && (f.va == 0) && (f.cnt == 0)
  | .gstr _ f => (f.pl == 0) && (f.sa == 0)
  | .gcol _ f => (f.pl == 0)
  | .gctx _ f => (f.pl == 0) && (f.sa == 0) && (f.va == 0)
  | .gfrz _ f => (f.pl == 0) && (f.cnt == 0)
  | .gthaw _ f => (f.pl == 0) && (f.cnt == 0)
  | .gqry _ f => (f.pl == 0) && (f.sa == 0) && (f.cnt == 0)
  | .fence _ f => (f.str == 0)
  | .sbar _ f => (f.pb == 0) && (f.pa == 0)
  | .atom _ f => (f.aop == 9 || f.aop == 12 || f.c == 0)
  | .brinit _ f => (f.d == 0) && (f.c == 0) && (f.aop == 0) && (f.ty == 0)
  | .brarr _ f => (f.b == 0) && (f.c == 0) && (f.aop == 0) && (f.ty == 0)
  | .brdrop _ f => (f.b == 0) && (f.c == 0) && (f.aop == 0) && (f.ty == 0)
  | .brexp _ f => (f.d == 0) && (f.c == 0) && (f.aop == 0) && (f.ty == 0)
  | .brwait _ f => (f.c == 0) && (f.aop == 0) && (f.ty == 0)
  | .brtest _ f => (f.b == 0) && (f.c == 0) && (f.aop == 0) && (f.ty == 0)
  | .flwait _ f => (f.c == 0) && (f.aop == 0) && (f.ty == 0)
  | .flset _ f => (f.d == 0) && (f.c == 0) && (f.ty == 0)
  | .syrd _ f => (f.b == 0) && (f.rop == 0) && (f.ty == 0) && (f.ch == 0)
  | .emit _ f => (f.d == 0) && (f.b == 0) && (f.rop == 0) && (f.ty == 0) && (f.ch == 0) && (f.sl == 0) && (f.fn == 0)
  | .emitt _ f => (f.d == 0) && (f.b == 0) && (f.rop == 0) && (f.ty == 0) && (f.ch == 0) && (f.sl == 0) && (f.fn == 0)
  | .abc _ f => (f.rop == 0) && (f.ty == 0) && (f.ch == 0) && (f.sl == 0)
  | .ard _ f => (f.b == 0) && (f.ch == 0) && (f.sl == 0)
  | .ascn _ f => (f.b == 0) && (f.ch == 0) && (f.sl == 0)
  | .asnd _ f => (f.d == 0) && (f.rop == 0) && (f.ty == 0) && (f.sl == 0) && (f.fn == 0)
  | .arcv _ f => (f.b == 0) && (f.rop == 0) && (f.ty == 0) && (f.sl == 0) && (f.fn == 0)
  | .nbr _ f => (f.b == 0) && (f.rop == 0) && (f.ty == 0) && (f.ch == 0) && (f.sl == 0)
  | .tok _ f => (f.a == 0) && (f.b == 0) && (f.rop == 0) && (f.ty == 0) && (f.sl == 0) && (f.fn == 0)
  | .opnd _ f => (f.b == 0) && (f.rop == 0) && (f.ty == 0) && (f.ch == 0) && (f.sl == 0) && (f.fn == 0)
  | .rlload _ _ => true
  | .rlgo _ f => (f.a == 0)
  | .rlpost _ _ => true
  | .rlstat _ _ => true
  | .xwrp _ f => (f.imm.extractLsb 31 12 == 0) && (f.d == 0)
  | .tlbiPage _ f => (f.d == 0) && (f.b == 0) && (f.c == 0) && (f.ty == 0)
  | .tlbiRange _ f => (f.d == 0) && (f.c == 0) && (f.ty == 0)
  | .tlbiAsid _ f => (f.d == 0) && (f.b == 0) && (f.c == 0) && (f.ty == 0)
  | .ptst _ f => (f.d == 0) && (f.c == 0) && (f.aop == 0) && (f.ty == 0)
  | .fltdoneOk _ f => (f.d == 0) && (f.b == 0) && (f.c == 0) && (f.ty == 0) && (f.scp == 0)
  | .fltdoneFail _ f => (f.d == 0) && (f.b == 0) && (f.c == 0) && (f.ty == 0) && (f.scp == 0)
  | .fltdoneIrq _ f => (f.d == 0) && (f.c == 0) && (f.ty == 0) && (f.scp == 0)
  | .asret _ f => (f.d == 0) && (f.a == 0) && (f.b == 0) && (f.c == 0) && (f.aop == 0) && (f.ty == 0) && (f.scp == 0)
  | .ctxsvSave _ f => (f.d == 0) && (f.a == 0) && (f.b == 0) && (f.c == 0) && (f.ty == 0) && (f.scp == 0)
  | .ctxsvForce _ f => (f.d == 0) && (f.a == 0) && (f.b == 0) && (f.c == 0) && (f.ty == 0) && (f.scp == 0)
  | .ctxsvResume _ f => (f.d == 0) && (f.a == 0) && (f.b == 0) && (f.c == 0) && (f.ty == 0) && (f.scp == 0)
  | .ctxsvKill _ f => (f.d == 0) && (f.a == 0) && (f.b == 0) && (f.c == 0) && (f.ty == 0) && (f.scp == 0)
  | .reelNop w => (w.rop == 0) && (w.ca == 0) && (w.cb == 0) && (w.rk == 0) && (w.rk2 == 0) && (w.n == 0)
  | .reelEnd w => (w.rop == 0) && (w.ca == 0) && (w.cb == 0) && (w.rk == 0) && (w.rk2 == 0) && (w.n == 0)
  | .send w => (w.rop == 0) && (w.cb == 0) && (w.rk2 == 0) && (w.n == 0)
  | .recv w => (w.rop == 0) && (w.cb == 0) && (w.rk2 == 0) && (w.n == 0)
  | .rrc w => (w.cb == 0) && (w.n == 0)
  | .red w => (w.cb == 0) && (w.rk2 == 0) && (w.n == 0)
  | .redany w => (w.cb == 0) && (w.rk2 == 0)
  | .ccpy w => (w.rop == 0) && (w.rk == 0) && (w.rk2 == 0) && (w.n == 0)
  | .xf w => (w.rop == 0) && (w.rk == 0) && (w.rk2 == 0)
  | .lflag w => (w.k == 0)
  | .sig w => (w.md == 0) && (w.x == 0)
  | .cwait w => (w.md == 0) && (w.k == 0) && (w.x == 0)
  | .setc w => (w.md == 0) && (w.x == 0)
  | .decb w => (w.md == 0) && (w.x == 0)
  | .seqb w => (w.md == 0) && (w.x == 0)
  | .mark w => (w.md == 0) && (w.k == 0) && (w.x == 0)

/-- Check 4 of R113: no reserved value in a field that the entry uses. -/
def Instr.valuesOk (i : Instr) : Bool :=
  match i with
  | .queueSlotWrite _ _ _ _ _ => true
  | .launchCommit _ _ _ _ _ => true
  | .qstatErrvClear _ _ => true
  | .queueFlush _ _ => true
  | .semaphoreClaim _ _ => true
  | .semaphoreRelease _ _ => true
  | .semaphoreForceRelease _ _ => true
  | .asidBind _ _ => true
  | .ctxkill _ _ => true
  | .errlogClear _ => true
  | .pcapWrite _ _ => true
  | .attestationRequest _ => true
  | .msixUnmask _ _ => true
  | .registerWrite _ _ _ => true
  | .microprogramBroadcast _ _ => true
  | .bridleEvaluation _ => true
  | .asyncCompletion _ _ => true
  | .copyBurstLand _ _ _ => true
  | .copyComplete _ _ => true
  | .multicastRowMove _ _ _ => true
  | .multicastRowLand _ _ _ => true
  | .channelMessageDelivery _ _ => true
  | .clearToSendArrival _ => true
  | .chunkMessageArrival _ => true
  | .acknowledgementArrival _ => true
  | .signalArrival _ => true
  | .abortArrival _ => true
  | .linkRetrain _ _ => true
  | .correctedError _ _ _ => true
  | .uncorrectableError _ => true
  | .pciExpressPortReset _ => true
  | .inboundPortWrite _ _ _ => true
  | .peerInboundRequest _ => true
  | .performQueueHead _ _ => true
  | .dynamicAddressAssignment _ => true
  | .attestationReportReady => true
  | .headChecks => true
  | .holdRelease => true
  | .imageFetch => true
  | .strandGrant => true
  | .sweepP => true
  | .joinedSweepStart => true
  | .hubCacheFetch => true
  | .lClose => true
  | .areaStart => true
  | .abortContextStop => true
  | .storagePhase => true
  | .shiftComplete => true
  | .compaction => true
  | .compactionMoveDone => true
  | .allocatorPreemptionTimeout => true
  | .commit => true
  | .trapAtRoot => true
  | .areaStall => true
  | .tableWalk => true
  | .confirmingWalk => true
  | .sampleReport => true
  | .watchFire => true
  | .sleepExpiry => true
  | .graphStep => true
  | .quantumExpiry => true
  | .planeIdleTimeout => true
  | .planeSwitchDone => true
  | .linkRefusal => true
  | .portReset => true
  | .portUpResend => true
  | .flitCrcRetry => true
  | .cellRetirement => true
  | .powerStepRise => true
  | .powerStepFall => true
  | .thermalStepRise => true
  | .thermalStepFall => true
  | .thermalTrip => true
  | .coldStart => true
  | .gracePeriodExpiry => true
  | .preemptionCut => true
  | .preemptionSaveWrite => true
  | .terminationFirstSample => true
  | .terminationSecondSample => true
  | .propagateWrite => true
  | .asidBindDone => true
  | .nop h _ => guardOk h
  | .endApp h _ => guardOk h
  | .cmt h _ => guardOk h
  | .br h f => guardOk h && decide (f.cnd.toNat ≤ 6) && (isS f.sa && isS f.sb)
  | .call h _ => guardOk h
  | .ret h _ => guardOk h
  | .loop h f => guardOk h && (isS f.sa && f.sa != 0)
  | .sleep h f => guardOk h && isS f.sa
  | .trap h _ => guardOk h
  | .brk h _ => guardOk h
  | .xrd h f => guardOk h && isS f.d
  | .xwr h f => guardOk h && isS f.a
  | .add h f => guardOk h && isS f.d && isS f.a && isS f.b && [0, 1, 2, 3, 12, 13, 14].contains f.ty.toNat
  | .sub h f => guardOk h && isS f.d && isS f.a && isS f.b && [0, 1, 2, 3, 12, 13, 14].contains f.ty.toNat
  | .mul h f => guardOk h && isS f.d && isS f.a && isS f.b && [0, 1, 2, 3, 12, 13, 14].contains f.ty.toNat
  | .mulh h f => guardOk h && isS f.d && isS f.a && isS f.b && [0, 1, 2, 3, 12, 13, 14].contains f.ty.toNat && (f.sat == 0)
  | .div h f => guardOk h && isS f.d && isS f.a && isS f.b && [0, 1, 2, 3, 12, 13, 14].contains f.ty.toNat
  | .rem h f => guardOk h && isS f.d && isS f.a && isS f.b && [0, 1, 2, 3, 12, 13, 14].contains f.ty.toNat && (f.sat == 0)
  | .andS h f => guardOk h && isS f.d && isS f.a && isS f.b && [0, 1, 2, 3, 12, 13, 14].contains f.ty.toNat && (f.sat == 0)
  | .orS h f => guardOk h && isS f.d && isS f.a && isS f.b && [0, 1, 2, 3, 12, 13, 14].contains f.ty.toNat && (f.sat == 0)
  | .xorS h f => guardOk h && isS f.d && isS f.a && isS f.b && [0, 1, 2, 3, 12, 13, 14].contains f.ty.toNat && (f.sat == 0)
  | .shl h f => guardOk h && isS f.d && isS f.a && isS f.b && [0, 1, 2, 3, 12, 13, 14].contains f.ty.toNat
  | .shr h f => guardOk h && isS f.d && isS f.a && isS f.b && [0, 1, 2, 3, 12, 13, 14].contains f.ty.toNat && (f.sat == 0)
  | .sra h f => guardOk h && isS f.d && isS f.a && isS f.b && [0, 1, 2, 3, 12, 13, 14].contains f.ty.toNat && (f.sat == 0)
  | .min h f => guardOk h && isS f.d && isS f.a && isS f.b && [0, 1, 2, 3, 12, 13, 14].contains f.ty.toNat && (f.sat == 0)
  | .max h f => guardOk h && isS f.d && isS f.a && isS f.b && [0, 1, 2, 3, 12, 13, 14].contains f.ty.toNat && (f.sat == 0)
  | .cmp h f => guardOk h && isS f.d && isS f.a && isS f.b && [0, 1, 2, 3, 12, 13, 14].contains f.ty.toNat && (f.sat == 0)
  | .sel h f => guardOk h && isS f.d && isS f.a && isS f.b && isS f.c && (f.ty == 3) && (f.sat == 0)
  | .clz h f => guardOk h && isS f.d && isS f.a && [0, 1, 2, 3, 12, 13, 14].contains f.ty.toNat && (f.sat == 0)
  | .popc h f => guardOk h && isS f.d && isS f.a && [0, 1, 2, 3, 12, 13, 14].contains f.ty.toNat && (f.sat == 0)
  | .addi h f => guardOk h && isS f.d && isS f.a
  | .andi h f => guardOk h && isS f.d && isS f.a
  | .ori h f => guardOk h && isS f.d && isS f.a
  | .xori h f => guardOk h && isS f.d && isS f.a
  | .li h f => guardOk h && isS f.d
  | .shli h f => guardOk h && isS f.d && isS f.a && decide (f.imm.toNat ≤ 63)
  | .shri h f => guardOk h && isS f.d && isS f.a && decide (f.imm.toNat ≤ 63)
  | .srai h f => guardOk h && isS f.d && isS f.a && decide (f.imm.toNat ≤ 63)
  | .cmpi h f => guardOk h && isS f.d && isS f.a
  | .lih h f => guardOk h && isS f.d && isS f.a
  | .mov h f => guardOk h && isS f.d && isS f.a
  | .fadd h f => guardOk h && isS f.d && isS f.a && isS f.b && [4, 5, 6, 7, 8].contains f.ty.toNat && decide (f.rm.toNat ≤ 5)
  | .fsub h f => guardOk h && isS f.d && isS f.a && isS f.b && [4, 5, 6, 7, 8].contains f.ty.toNat && decide (f.rm.toNat ≤ 5)
  | .fmul h f => guardOk h && isS f.d && isS f.a && isS f.b && [4, 5, 6, 7, 8].contains f.ty.toNat && decide (f.rm.toNat ≤ 5)
  | .fma h f => guardOk h && isS f.d && isS f.a && isS f.b && isS f.c && [4, 5, 6, 7, 8].contains f.ty.toNat && decide (f.rm.toNat ≤ 5)
  | .fmin h f => guardOk h && isS f.d && isS f.a && isS f.b && [4, 5, 6, 7, 8].contains f.ty.toNat
  | .fmax h f => guardOk h && isS f.d && isS f.a && isS f.b && [4, 5, 6, 7, 8].contains f.ty.toNat
  | .fcmp h f => guardOk h && isS f.d && isS f.a && isS f.b && [4, 5, 6, 7, 8].contains f.ty.toNat && decide (f.fn.toNat ≤ 3)
  | .fcvt h f => guardOk h && isS f.d && isS f.a && decide (f.rm.toNat ≤ 5) && (fcvtPair f.ty.toNat (f.fn.toNat % 16))
  | .fcls h f => guardOk h && isS f.d && isS f.a && [4, 5, 6, 7, 8].contains f.ty.toNat
  | .vadd h f => guardOk h && isS f.d && isS f.a && isS f.b && [0, 1, 2, 12, 13, 14].contains f.ty.toNat
  | .vsub h f => guardOk h && isS f.d && isS f.a && isS f.b && [0, 1, 2, 12, 13, 14].contains f.ty.toNat
  | .vmul h f => guardOk h && isS f.d && isS f.a && isS f.b && [0, 1, 2, 12, 13, 14].contains f.ty.toNat
  | .vmulh h f => guardOk h && isS f.d && isS f.a && isS f.b && [0, 1, 2, 12, 13, 14].contains f.ty.toNat && (f.sat == 0)
  | .vand h f => guardOk h && isS f.d && isS f.a && isS f.b && [0, 1, 2, 12, 13, 14].contains f.ty.toNat && (f.sat == 0)
  | .vor h f => guardOk h && isS f.d && isS f.a && isS f.b && [0, 1, 2, 12, 13, 14].contains f.ty.toNat && (f.sat == 0)
  | .vxor h f => guardOk h && isS f.d && isS f.a && isS f.b && [0, 1, 2, 12, 13, 14].contains f.ty.toNat && (f.sat == 0)
  | .vshl h f => guardOk h && isS f.d && isS f.a && isS f.b && [0, 1, 2, 12, 13, 14].contains f.ty.toNat
  | .vshr h f => guardOk h && isS f.d && isS f.a && isS f.b && [0, 1, 2, 12, 13, 14].contains f.ty.toNat && (f.sat == 0)
  | .vsra h f => guardOk h && isS f.d && isS f.a && isS f.b && [0, 1, 2, 12, 13, 14].contains f.ty.toNat && (f.sat == 0)
  | .vmin h f => guardOk h && isS f.d && isS f.a && isS f.b && [0, 1, 2, 12, 13, 14].contains f.ty.toNat && (f.sat == 0)
  | .vmax h f => guardOk h && isS f.d && isS f.a && isS f.b && [0, 1, 2, 12, 13, 14].contains f.ty.toNat && (f.sat == 0)
  | .vabs h f => guardOk h && isS f.d && isS f.a && [0, 1, 2].contains f.ty.toNat
  | .vcmp h f => guardOk h && isK f.d && isS f.a && isS f.b && [0, 1, 2, 12, 13, 14].contains f.ty.toNat && (f.sat == 0) && decide (f.fn.toNat ≤ 5)
  | .vsel h f => guardOk h && isS f.d && isS f.a && isS f.b && isK f.c && [0, 1, 2, 12, 13, 14].contains f.ty.toNat && (f.sat == 0)
  | .vmac h f => guardOk h && isS f.d && isS f.a && isS f.b && [0, 1, 12, 13].contains f.ty.toNat
  | .vfadd h f => guardOk h && isS f.d && isS f.a && isS f.b && [6, 7, 8].contains f.ty.toNat && decide (f.rm.toNat ≤ 5)
  | .vfsub h f => guardOk h && isS f.d && isS f.a && isS f.b && [6, 7, 8].contains f.ty.toNat && decide (f.rm.toNat ≤ 5)
  | .vfmul h f => guardOk h && isS f.d && isS f.a && isS f.b && [6, 7, 8].contains f.ty.toNat && decide (f.rm.toNat ≤ 5)
  | .vfma h f => guardOk h && isS f.d && isS f.a && isS f.b && isS f.c && [6, 7, 8].contains f.ty.toNat && decide (f.rm.toNat ≤ 5)
  | .vfmin h f => guardOk h && isS f.d && isS f.a && isS f.b && [6, 7, 8].contains f.ty.toNat
  | .vfmax h f => guardOk h && isS f.d && isS f.a && isS f.b && [6, 7, 8].contains f.ty.toNat
  | .vfneg h f => guardOk h && isS f.d && isS f.a && [6, 7, 8].contains f.ty.toNat
  | .vfcmp h f => guardOk h && isK f.d && isS f.a && isS f.b && [6, 7, 8].contains f.ty.toNat && decide (f.fn.toNat ≤ 3)
  | .vexp2 h f => guardOk h && isS f.d && isS f.a && [6, 7, 8].contains f.ty.toNat && decide (f.rm.toNat ≤ 5)
  | .vlog2 h f => guardOk h && isS f.d && isS f.a && [6, 7, 8].contains f.ty.toNat && decide (f.rm.toNat ≤ 5)
  | .vrcp h f => guardOk h && isS f.d && isS f.a && [6, 7, 8].contains f.ty.toNat && decide (f.rm.toNat ≤ 5)
  | .vrsq h f => guardOk h && isS f.d && isS f.a && [6, 7, 8].contains f.ty.toNat && decide (f.rm.toNat ≤ 5)
  | .vredsum h f => guardOk h && isS f.d && isS f.a && [6, 7, 8].contains f.ty.toNat && decide (f.rm.toNat ≤ 4)
  | .vredmax h f => guardOk h && isS f.d && isS f.a && [6, 7, 8].contains f.ty.toNat
  | .vscale h f => guardOk h && isS f.d && isS f.a && isS f.b && [6, 7, 8].contains f.ty.toNat && decide (f.rm.toNat ≤ 5)
  | .vcvt h f => guardOk h && isS f.d && isS f.a && decide (f.rm.toNat ≤ 5) && (vcvtOk f.ty.toNat (f.fn.toNat % 16) (f.fn.toNat / 16 % 8) f.sat)
  | .vqbx h f => guardOk h && isS f.d && isS f.a && [9, 11].contains f.ty.toNat && decide (f.rm.toNat ≤ 5) && (noGuard h && [6, 7, 8].contains (f.fn.toNat % 16) && decide (f.fn.toNat / 16 % 8 < partCount f.ty.toNat (f.fn.toNat % 16)))
  | .vdqbx h f => guardOk h && isS f.d && isS f.a && [6, 7, 8].contains f.ty.toNat && decide (f.rm.toNat ≤ 5) && (noGuard h && [9, 11].contains (f.fn.toNat % 16) && decide (f.fn.toNat / 16 % 8 < partCount f.ty.toNat (f.fn.toNat % 16)))
  | .vperm h f => guardOk h && isS f.d && isS f.a && isS f.b && [0, 1, 2, 4, 5, 6, 7, 8, 12, 13, 14].contains f.ty.toNat
  | .vbcast h f => guardOk h && isS f.d && isS f.a && [0, 1, 2, 4, 5, 6, 7, 8, 12, 13, 14].contains f.ty.toNat
  | .vext h f => guardOk h && isS f.d && isS f.a && isS f.b && [0, 1, 2, 4, 5, 6, 7, 8, 12, 13, 14].contains f.ty.toNat
  | .vins h f => guardOk h && isS f.d && isS f.a && isS f.b && [0, 1, 2, 4, 5, 6, 7, 8, 12, 13, 14].contains f.ty.toNat
  | .vzip h f => guardOk h && isS f.d && isS f.a && isS f.b && [0, 1, 2, 4, 5, 6, 7, 8, 12, 13, 14].contains f.ty.toNat && decide (f.fn.toNat ≤ 1)
  | .vunzip h f => guardOk h && isS f.d && isS f.a && isS f.b && [0, 1, 2, 4, 5, 6, 7, 8, 12, 13, 14].contains f.ty.toNat && decide (f.fn.toNat ≤ 1)
  | .vtr4 h f => guardOk h && (isS f.d && f.d.toNat % 4 == 0) && (isS f.a && f.a.toNat % 4 == 0) && [0, 1, 2, 4, 5, 6, 7, 8, 12, 13, 14].contains f.ty.toNat && (noGuard h)
  | .vshf h f => guardOk h && isS f.d && isS f.a && isS f.b && isS f.c && [0, 1, 2, 4, 5, 6, 7, 8, 12, 13, 14].contains f.ty.toNat
  | .vpack h f => guardOk h && isS f.d && isS f.a && isS f.b && [0, 1, 12, 13].contains f.ty.toNat
  | .vunpack h f => guardOk h && isS f.d && isS f.a && [0, 1, 12, 13].contains f.ty.toNat && decide (f.fn.toNat ≤ 1)
  | .kand h f => guardOk h && isK f.d && isK f.a && isK f.b
  | .kor h f => guardOk h && isK f.d && isK f.a && isK f.b
  | .kxor h f => guardOk h && isK f.d && isK f.a && isK f.b
  | .knot h f => guardOk h && isK f.d && isK f.a
  | .kmov h f => guardOk h && (kmovOk f.fn.toNat f.d f.a)
  | .kpop h f => guardOk h && isS f.d && isK f.a && [0, 1, 2, 4, 5, 6, 7, 8, 9, 11, 12, 13, 14].contains f.ty.toNat
  | .kfirst h f => guardOk h && isS f.d && isK f.a && [0, 1, 2, 4, 5, 6, 7, 8, 9, 11, 12, 13, 14].contains f.ty.toNat
  | .kset h f => guardOk h && isK f.d && isS f.a && [0, 1, 2, 4, 5, 6, 7, 8, 9, 11, 12, 13, 14].contains f.ty.toNat
  | .ld h f => guardOk h && isS f.d && isS f.ix && [0, 1, 2, 4, 5, 6, 7, 8, 9, 11, 12, 13, 14].contains f.ty.toNat && classS f.tv f.tok
  | .st h f => guardOk h && isS f.d && isS f.ix && [0, 1, 2, 4, 5, 6, 7, 8, 9, 11, 12, 13, 14].contains f.ty.toNat && classS f.tv f.tok
  | .lds h f => guardOk h && isS f.d && isS f.ix && [0, 1, 2, 3, 4, 5, 6, 7, 8, 12, 13, 14].contains f.ty.toNat && classS f.tv f.tok
  | .sts h f => guardOk h && isS f.d && isS f.ix && [0, 1, 2, 3, 4, 5, 6, 7, 8, 12, 13, 14].contains f.ty.toNat && classS f.tv f.tok
  | .ldg h f => guardOk h && isS f.d && isS f.ix && [0, 1, 2, 4, 5, 6, 7, 8, 9, 11, 12, 13, 14].contains f.ty.toNat && (f.tv == 1)
  | .stg h f => guardOk h && isS f.d && isS f.ix && [0, 1, 2, 4, 5, 6, 7, 8, 9, 11, 12, 13, 14].contains f.ty.toNat && classE f.tv f.tok
  | .ldx h f => guardOk h && isS f.d && isS f.ix && [0, 1, 2, 4, 5, 6, 7, 8, 12, 13, 14].contains f.ty.toNat && (f.tv == 1)
  | .stx h f => guardOk h && isS f.d && isS f.ix && [0, 1, 2, 4, 5, 6, 7, 8, 12, 13, 14].contains f.ty.toNat && classE f.tv f.tok
  | .shpSym h f => guardOk h && isS f.d && classS f.tv f.tok
  | .shpVec h f => guardOk h && isS f.d && classS f.tv f.tok
  | .shpExt h f => guardOk h && decide (f.d.toNat ≤ 4) && isS f.ix && classS f.tv f.tok
  | .sadv h f => guardOk h && decide (f.d.toNat ≤ 4) && isS f.ix && classS f.tv f.tok
  | .pfg h f => guardOk h && isS f.ix && [0, 1, 2, 4, 5, 6, 7, 8, 9, 11, 12, 13, 14].contains f.ty.toNat && classE f.tv f.tok
  | .cpy h f => guardOk h && isS f.d && decide (f.scp.toNat ≤ 4) && classE f.tv f.tok
  | .cpq h f => guardOk h && isS f.d && decide (f.ix.toNat ≤ 7) && classS f.tv f.tok
  | .talloc h f => guardOk h && isS f.d && isS f.ix && [0, 1, 2, 4, 5, 6, 7, 8, 9, 11, 12, 13, 14].contains f.ty.toNat && classS f.tv f.tok
  | .tfree h f => guardOk h && isS f.d && classS f.tv f.tok
  | .tshr h f => guardOk h && isS f.d && isS f.ix && classS f.tv f.tok
  | .bld h f => guardOk h && isK f.src && [0, 4, 5, 6, 7, 9, 11, 12].contains f.tya.toNat && decide (f.nrow.toNat ≤ 15) && (f.tv == 1)
  | .bldm h f => guardOk h && (isK f.src) && [0, 4, 5, 6, 7, 9, 11, 12].contains f.tya.toNat && decide (f.nrow.toNat ≤ 15) && (f.tv == 1)
  | .mma h f => guardOk h && isS f.src && decide (f.nrow.toNat ≤ 15) && (matPair f.tya.toNat f.tyb.toNat) && classS f.tv f.tok
  | .mmt h f => guardOk h && isK f.src && decide (f.nrow.toNat ≤ 15) && (matPair f.tya.toNat f.tyb.toNat) && (f.tv == 1)
  | .mzero h f => guardOk h && [2, 8].contains f.tya.toNat && classS f.tv f.tok
  | .mst h f => guardOk h && isK f.src && [0, 1, 2, 4, 5, 6, 7, 8, 12, 13, 14].contains f.tya.toNat && decide (f.nrow.toNat ≤ 15) && classS f.tv f.tok
  | .mrd h f => guardOk h && isS f.src && [0, 1, 2, 4, 5, 6, 7, 8, 12, 13, 14].contains f.tya.toNat && decide (f.nrow.toNat ≤ 15) && classS f.tv f.tok
  | .mscl h f => guardOk h && isS f.src && (f.tya == 8) && classS f.tv f.tok
  | .gld h f => guardOk h && isS f.sa && isS f.va && (f.fn == 0) && (f.tv == 1)
  | .grel h f => guardOk h && (f.fn == 0) && (f.tv == 1)
  | .gbind h f => guardOk h && isK f.sa && decide (f.fn.toNat ≤ 1) && classS f.tv f.tok
  | .gstr h f => guardOk h && isS f.va && (f.fn == 0) && (f.tv == 1)
  | .gcol h f => guardOk h && isS f.sa && isS f.va && (f.fn == 0) && (f.tv == 1)
  | .gctx h f => guardOk h && decide (f.cnt.toNat ≤ 255) && (f.fn == 0) && classS f.tv f.tok
  | .gfrz h f => guardOk h && isS f.sa && isS f.va && (f.fn == 0) && (f.tv == 1)
  | .gthaw h f => guardOk h && isS f.sa && isS f.va && (f.fn == 0) && (f.tv == 1)
  | .gqry h f => guardOk h && isS f.va && decide (f.fn.toNat ≤ 1) && classS f.tv f.tok
  | .fence h f => guardOk h && (f.pb != 0) && (f.pa != 0) && decide (f.scp.toNat ≤ 4) && decide (f.kind.toNat ≤ 2)
  | .sbar h f => guardOk h && (f.str != 0) && decide (f.scp.toNat ≤ 4) && decide (f.kind.toNat ≤ 2)
  | .atom h f => guardOk h && isS f.d && isS f.a && isS f.b && (isS f.c && atomOk f) && decide (f.scp.toNat ≤ 4) && (if f.d == 0 then classE f.tv f.tok else f.tv == 1)
  | .brinit h f => guardOk h && isS f.a && isS f.b && decide (f.scp.toNat ≤ 3) && classE f.tv f.tok
  | .brarr h f => guardOk h && isS f.d && isS f.a && decide (f.scp.toNat ≤ 3) && (f.d == 0 || f.tv == 1) && classE f.tv f.tok
  | .brdrop h f => guardOk h && isS f.d && isS f.a && decide (f.scp.toNat ≤ 3) && (f.d == 0 || f.tv == 1) && classE f.tv f.tok
  | .brexp h f => guardOk h && isS f.a && isS f.b && decide (f.scp.toNat ≤ 3) && classE f.tv f.tok
  | .brwait h f => guardOk h && isS f.d && isS f.a && isS f.b && decide (f.scp.toNat ≤ 3) && (f.tv == 1)
  | .brtest h f => guardOk h && isS f.d && isS f.a && decide (f.scp.toNat ≤ 3) && (f.tv == 1)
  | .flwait h f => guardOk h && isS f.d && isS f.a && isS f.b && decide (f.scp.toNat ≤ 4) && (f.tv == 1)
  | .flset h f => guardOk h && isS f.a && isS f.b && decide (f.aop.toNat ≤ 1) && decide (f.scp.toNat ≤ 4) && classE f.tv f.tok
  | .syrd h f => guardOk h && isS f.d && isS f.a && decide (f.sl.toNat ≤ 7) && decide (f.fn.toNat ≤ 1) && classS f.tv f.tok
  | .emit h f => guardOk h && isS f.a && classS f.tv f.tok
  | .emitt h f => guardOk h && isS f.a && classS f.tv f.tok
  | .abc h f => guardOk h && isS f.d && isS f.a && isS f.b && decide (f.fn.toNat ≤ 1) && (f.tv == 1)
  | .ard h f => guardOk h && isS f.d && isS f.a && decide (f.fn.toNat ≤ 1) && (collTy f.rop.toNat f.ty.toNat f.fn.toNat) && (f.tv == 1)
  | .ascn h f => guardOk h && isS f.d && isS f.a && decide (f.fn.toNat ≤ 3) && (collTy f.rop.toNat f.ty.toNat f.fn.toNat) && (f.tv == 1)
  | .asnd h f => guardOk h && isS f.a && isS f.b && classE f.tv f.tok
  | .arcv h f => guardOk h && isS f.d && isS f.a && (f.tv == 1)
  | .nbr h f => guardOk h && isS f.d && isS f.a && decide (f.fn.toNat ≤ 3) && (f.tv == 1)
  | .tok h f => guardOk h && isS f.d && classS f.tv f.tok
  | .opnd h f => guardOk h && isS f.d && isS f.a && (f.tv == 1)
  | .rlload h f => guardOk h && isS f.a && decide (f.rl.toNat ≤ 11) && (f.b == 0) && (f.c == 0) && (f.fn == 0) && classE f.tv f.tok
  | .rlgo h f => guardOk h && decide (f.rl.toNat ≤ 11) && (f.b == 0) && (f.c == 0) && (f.fn == 0) && classE f.tv f.tok
  | .rlpost h f => guardOk h && isS f.a && decide (f.rl.toNat ≤ 11) && (f.b == 0) && (f.c == 0) && (f.fn == 0) && classE f.tv f.tok
  | .rlstat h f => guardOk h && isS f.a && decide (f.rl.toNat ≤ 11) && (f.b == 0) && (f.c == 0) && (f.fn == 0) && (f.tv == 1)
  | .xwrp h f => guardOk h && isS f.a
  | .tlbiPage h f => guardOk h && isS f.a && (f.scp == 3) && classE f.tv f.tok
  | .tlbiRange h f => guardOk h && isS f.a && isS f.b && (f.scp == 3) && classE f.tv f.tok
  | .tlbiAsid h f => guardOk h && isS f.a && (f.scp == 3) && classE f.tv f.tok
  | .ptst h f => guardOk h && isS f.a && isS f.b && (f.scp == 4) && classE f.tv f.tok
  | .fltdoneOk h f => guardOk h && isS f.a && classS f.tv f.tok
  | .fltdoneFail h f => guardOk h && isS f.a && classS f.tv f.tok
  | .fltdoneIrq h f => guardOk h && isS f.a && isS f.b && classS f.tv f.tok
  | .asret h f => guardOk h && classE f.tv f.tok
  | .ctxsvSave h f => guardOk h && classE f.tv f.tok
  | .ctxsvForce h f => guardOk h && classE f.tv f.tok
  | .ctxsvResume h f => guardOk h && classE f.tv f.tok
  | .ctxsvKill h f => guardOk h && classE f.tv f.tok
  | .reelNop _ => true
  | .reelEnd _ => true
  | .send _ => true
  | .recv _ => true
  | .rrc w => decide (w.rop.toNat ≤ 2) && (w.rk != w.rk2)
  | .red w => decide (w.rop.toNat ≤ 2)
  | .redany w => decide (w.rop.toNat ≤ 2) && decide (1 ≤ w.n.toNat) && decide (w.n.toNat ≤ 256)
  | .ccpy _ => true
  | .xf _ => true
  | .lflag w => decide (w.md.toNat ≤ 1)
  | .sig w => decide (1 ≤ w.v.toNat) && decide (w.v.toNat < 2 ^ 31)
  | .cwait w => decide (1 ≤ w.v.toNat) && decide (w.v.toNat < 2 ^ 31)
  | .setc w => decide (w.k.toNat ≤ 3)
  | .decb w => decide (w.k.toNat ≤ 3)
  | .seqb _ => true
  | .mark w => (w.v.extractLsb 31 16 == 0)

/-- A well-formed instruction: nothing in its unused fields and no reserved value. Host accesses and events carry no
encoding and are always well formed. -/
def Instr.wf (i : Instr) : Bool := i.unusedZero && i.valuesOk

end Sys2Proof
end

