-- ==== Sys2Proof/Machine/Flags.lean ====
section
/-! DEFINITION. Number formats, exact values, rounding and every flag computation (08: R193 to R203), the arithmetic
trap (R98), and the integer rules of R121 and R122. -/

namespace Sys2Proof.Machine

open Sys2Proof

/-! ### Flags (R97, R98) -/

/-- `x.FFLAGS` bits. -/
def fNX : BitVec 6 := 1
def fUF : BitVec 6 := 2
def fOF : BitVec 6 := 4
def fDZ : BitVec 6 := 8
def fNV : BitVec 6 := 16
def fPZ : BitVec 6 := 32

/-- `x.MFLAGS` bits. -/
def mISAT : BitVec 3 := 1
def mMNV : BitVec 3 := 2
def mMOF : BitVec 3 := 4

/-- The positions of R98: the flags of `x.FFLAGS` in 0 to 5, `isat` in 6. -/
def trapBits (ff : BitVec 6) (mf : BitVec 3) : BitVec 7 := BitVec.ofBool (mf.getLsbD 0) ++ ff

/-- The lowest enabled position among the flags an instruction would raise; none when no trap is due. -/
def arithSub (ff : BitVec 6) (mf : BitVec 3) (en : BitVec 9) : Option Nat :=
  (upto 0 7).find? (fun n => (trapBits ff mf).getLsbD n && en.getLsbD n)

/-! ### Integers (R121, R193) -/

def isUInt (ty : Nat) : Bool := 12 ≤ ty

/-- The element of width W read as the type directs. -/
def extTy (ty x : Nat) : Int :=
  if isUInt ty then ((x % 2 ^ tyWidth ty : Nat) : Int) else signed (tyWidth ty) x

def minTy (ty : Nat) : Int := if isUInt ty then 0 else -((2 ^ (tyWidth ty - 1) : Nat) : Int)
def maxTy (ty : Nat) : Int :=
  if isUInt ty then ((2 ^ tyWidth ty : Nat) : Int) - 1 else ((2 ^ (tyWidth ty - 1) : Nat) : Int) - 1

def clampTy (ty : Nat) (r : Int) : Int := min (max r (minTy ty)) (maxTy ty)

/-- The W result bits, saturated or wrapped. -/
def narrowTy (ty : Nat) (sat : Bool) (r : Int) : Nat := wrapNat (tyWidth ty) (if sat then clampTy ty r else r)

/-- A W-bit result widened to 64 bits (R121). -/
def widenTy (ty x : Nat) : Word := BitVec.ofInt 64 (extTy ty x)

/-- A shift left by an unreduced amount (R122), exact where it decides: beyond any width only the sign matters. -/
def shlInt (ty : Nat) (a : Int) (n : Nat) (sat : Bool) : Nat :=
  narrowTy ty sat (if n < 2 * tyWidth ty then a * ((2 ^ n : Nat) : Int) else a * ((2 ^ (2 * tyWidth ty) : Nat) : Int))

def shrInt (ty x n : Nat) : Nat := if n < tyWidth ty then (x % 2 ^ tyWidth ty) / 2 ^ n else 0

def sraInt (ty : Nat) (a : Int) (n : Nat) : Nat := wrapNat (tyWidth ty) (a / ((2 ^ min n 64 : Nat) : Int))

/-- `div` (R122): truncated toward zero; by zero all ones; the one overflow wraps or saturates. -/
def divInt (ty : Nat) (a b : Int) (sat : Bool) : Nat × BitVec 6 :=
  if b = 0 then (2 ^ tyWidth ty - 1, fDZ) else (narrowTy ty sat (a.tdiv b), 0)

def remInt (ty : Nat) (a b : Int) : Nat × BitVec 6 :=
  if b = 0 then (wrapNat (tyWidth ty) a, fDZ) else (wrapNat (tyWidth ty) (a - b * a.tdiv b), 0)

/-- −1, 0 or +1 (R121). -/
def cmpInt (a b : Int) : Int := if a < b then -1 else if a = b then 0 else 1

/-- Leading zeros in W bits, and set bits. -/
def clzBits : Nat → Nat → Nat
  | 0, _ => 0
  | w + 1, x => if x.testBit w then 0 else clzBits w x + 1

def popBits : Nat → Nat → Nat
  | 0, _ => 0
  | w + 1, x => (if x.testBit w then 1 else 0) + popBits w x

/-! ### Floating-point formats (R194) -/

/-- A format: width, exponent bits, fraction bits, bias, the largest finite code, and whether it has infinities. -/
structure FFmt where
  w    : Nat
  eb   : Nat
  fb   : Nat
  bias : Nat
  top  : Nat
  inf  : Bool
  deriving DecidableEq, Repr

/-- The format of a type code; FP32 for a code that names none. -/
def ffmt (ty : Nat) : FFmt :=
  if ty = 4 then ⟨8, 4, 3, 7, 0x7E, false⟩
  else if ty = 5 then ⟨8, 5, 2, 15, 0x7B, true⟩
  else if ty = 6 then ⟨16, 8, 7, 127, 0x7F7F, true⟩
  else if ty = 7 then ⟨16, 5, 10, 15, 0x7BFF, true⟩
  else ⟨32, 8, 23, 127, 0x7F7FFFFF, true⟩

/-- The canonical NaN (R194), infinity, poison (R168) of a type. -/
def canonNaN (ty : Nat) : Nat :=
  if ty = 4 then 0x7F else if ty = 5 then 0x7E else if ty = 6 then 0x7FC0 else if ty = 7 then 0x7E00 else 0x7FC00000

def infCode (ty : Nat) : Nat :=
  if ty = 5 then 0x7C else if ty = 6 then 0x7F80 else if ty = 7 then 0x7C00 else if ty = 4 then 0x7F else 0x7F800000

/-- The poison element of each type (R168). -/
def poison (ty : Nat) : Nat :=
  if ty = 8 then 0x7FC0007A else if ty = 7 then 0x7E7A else if ty = 6 then 0x7FFA else if ty = 4 then 0x7F
  else if ty = 5 then 0x7F else if ty = 0 then 0x80 else if ty = 1 then 0x8000 else if ty = 2 then 0x80000000
  else 0

/-! ### Exact values -/

/-- An exact value: sign and magnitude `num / den`, `den` positive; a zero keeps its sign. -/
structure Ex where
  neg : Bool
  num : Nat
  den : Nat
  deriving DecidableEq, Repr

/-- What an operand or an exact result is: a NaN (poison or not), an infinity, or a finite value. -/
inductive EV where
  | nan (psn : Bool)
  | inf (neg : Bool)
  | fin (x : Ex)
  deriving DecidableEq, Repr

/-- `m × 2^e`. -/
def Ex.dy (neg : Bool) (m : Nat) (e : Int) : Ex :=
  if 0 ≤ e then ⟨neg, m * 2 ^ e.toNat, 1⟩ else ⟨neg, m, 2 ^ (-e).toNat⟩

/-- An integer as an exact value. -/
def Ex.ofInt (i : Int) : Ex := ⟨decide (i < 0), i.natAbs, 1⟩

/-- The value of a code (R194, R195, R197). -/
def fdec (ty x : Nat) : EV :=
  let f := ffmt ty
  let neg := x.testBit (f.w - 1)
  let mag := x % 2 ^ (f.w - 1)
  let e := mag / 2 ^ f.fb
  let m := mag % 2 ^ f.fb
  if ty = 4 then
    if mag = 0x7F then .nan false
    else if e = 0 then .fin (Ex.dy neg m (1 - (f.bias : Int) - f.fb))
    else .fin (Ex.dy neg (m + 2 ^ f.fb) ((e : Int) - f.bias - f.fb))
  else if e = 2 ^ f.eb - 1 then
    if m = 0 then .inf neg else .nan (mag == poison ty)
  else if e = 0 then .fin (Ex.dy neg m (1 - (f.bias : Int) - f.fb))
  else .fin (Ex.dy neg (m + 2 ^ f.fb) ((e : Int) - f.bias - f.fb))

/-- Comparison of exact values: −1, 0, +1. -/
def Ex.toInt (x : Ex) (d : Nat) : Int :=
  let n : Int := ((x.num * d : Nat) : Int)
  if x.neg then -n else n

def Ex.cmp (a b : Ex) : Int := cmpInt (a.toInt b.den) (b.toInt a.den)

/-- The sum; an exact zero from opposite signs is +0, or −0 under RDN (R201). -/
def Ex.add (rm : Nat) (a b : Ex) : Ex :=
  let n := a.toInt b.den + b.toInt a.den
  if n = 0 then ⟨if a.neg == b.neg then a.neg else rm == 2, 0, 1⟩
  else ⟨decide (n < 0), n.natAbs, a.den * b.den⟩

def Ex.mul (a b : Ex) : Ex := ⟨a.neg != b.neg, a.num * b.num, a.den * b.den⟩

def Ex.neg1 (a : Ex) : Ex := { a with neg := !a.neg }

/-- floor(log2 (num / den)) for a nonzero magnitude. -/
def floorLog2 (num den : Nat) : Int :=
  let g : Int := (num.log2 : Int) - den.log2
  if 0 ≤ g then (if num < den * 2 ^ g.toNat then g - 1 else g)
  else (if num * 2 ^ (-g).toNat < den then g - 1 else g)

/-! ### Rounding (R201 to R203) -/

/-- Whether the candidate of larger magnitude is taken: quotient `q`, remainder `r` over `d`, mode and draw. -/
def roundUp (rm : Nat) (neg : Bool) (q r d draw : Nat) : Bool :=
  if r = 0 then false
  else if rm = 0 then decide (d < 2 * r) || (decide (2 * r = d) && decide (q % 2 = 1))
  else if rm = 1 then false
  else if rm = 2 then neg
  else if rm = 3 then !neg
  else if rm = 4 then decide (d ≤ 2 * r)
  else decide (65536 ≤ r * 65536 / d + draw)

/-- RoundInt: the rounded magnitude and whether it was inexact. -/
def roundMag (rm : Nat) (x : Ex) (draw : Nat) : Nat × Bool :=
  let q := x.num / x.den
  let r := x.num % x.den
  (if roundUp rm x.neg q r x.den draw then q + 1 else q, decide (r ≠ 0))

/-- A rounded result with its flags. -/
structure FR where
  bits : Nat
  fl   : BitVec 6
  deriving DecidableEq, Repr

/-- An overflowing result (R195, R196): by mode, or by `sat` for FP8. -/
def overflowCode (ty rm : Nat) (sat neg : Bool) : Nat :=
  let f := ffmt ty
  let sg := if neg then 2 ^ (f.w - 1) else 0
  if sat then sg + f.top
  else if ty = 4 then sg + 0x7F
  else if rm = 1 || (rm = 2 && !neg) || (rm = 3 && neg) then sg + f.top
  else sg + infCode ty

/-- `Round(x, ty, rm)` of a finite exact value (R201), with the flags of R195. -/
def roundFin (ty rm : Nat) (sat : Bool) (draw : Nat) (x : Ex) : FR :=
  let f := ffmt ty
  let sg := if x.neg then 2 ^ (f.w - 1) else 0
  if x.num = 0 then ⟨sg, 0⟩
  else
    let e := floorLog2 x.num x.den
    let emin : Int := 1 - (f.bias : Int)
    let q : Int := max e emin - f.fb
    let sc : Ex := if 0 ≤ q then ⟨x.neg, x.num, x.den * 2 ^ q.toNat⟩ else ⟨x.neg, x.num * 2 ^ (-q).toNat, x.den⟩
    let (m, inex) := roundMag rm sc draw
    -- the magnitude m × 2^q, and the code it has; under SR an inexact value whose larger candidate is too big overflows (R202)
    let far := if rm = 5 && inex then sc.num / sc.den + 1 else m
    let tooBig : Bool :=
      let topE : Int := (f.top / 2 ^ f.fb : Nat) - (f.bias : Int) - f.fb
      let topM := f.top % 2 ^ f.fb + 2 ^ f.fb
      if topE ≤ q then decide (topM < far * 2 ^ (q - topE).toNat) else false
    if tooBig then ⟨overflowCode ty rm sat x.neg, fOF ||| fNX⟩
    else
      let tiny := decide (e < emin)
      let fl := (if inex then fNX else 0) ||| (if tiny && inex then fUF else 0)
      let biased : Nat := (q - (emin - f.fb)).toNat
      let code := if m < 2 ^ f.fb then m else biased * 2 ^ f.fb + m
      ⟨sg + code, fl⟩

/-- The NaN a result type delivers (R197). -/
def nanCode (ty : Nat) (psn : Bool) : Nat := if psn then poison ty else canonNaN ty

/-- `Round` of any exact result, the FP8 rules of R196 for an infinite input among them. -/
def roundEV (ty rm : Nat) (sat : Bool) (draw : Nat) (v : EV) : FR :=
  match v with
  | .nan p => ⟨nanCode ty p, 0⟩
  | .inf n =>
    let sg := if n then 2 ^ ((ffmt ty).w - 1) else 0
    if sat then ⟨sg + (ffmt ty).top, 0⟩ else ⟨sg + infCode ty, 0⟩
  | .fin x => roundFin ty rm sat draw x

/-- One step of the LFSR of R203, and a draw of 16 steps. -/
def lfsrStep (s : BitVec 32) : BitVec 32 :=
  if s.getLsbD 0 then (s >>> 1) ^^^ 0x80200003 else s >>> 1

def lfsrRun : Nat → BitVec 32 → BitVec 32
  | 0, s => s
  | n + 1, s => lfsrRun n (lfsrStep s)

def draw1 (s : BitVec 32) : Nat × BitVec 32 :=
  let s' := lfsrRun 16 s
  (s'.toNat % 65536, s')

/-- `n` draws in rising order; with a mode other than SR none is taken and each is 0. -/
def draws (rm : Nat) : Nat → BitVec 32 → List Nat × BitVec 32
  | 0, s => ([], s)
  | n + 1, s =>
    if rm = 5 then
      let (r, s') := draw1 s
      let (rs, s'') := draws rm n s'
      (r :: rs, s'')
    else
      let (rs, s'') := draws rm n s
      (0 :: rs, s'')

/-! ### Operations on values with their invalid cases (R195, R197) -/

def EV.isNaN : EV → Bool | .nan _ => true | _ => false
def EV.psn : EV → Bool | .nan p => p | _ => false

/-- An exact result before rounding, with the flags `nv` and `dz` of the operation. -/
structure EVF where
  v  : EV
  fl : BitVec 6
  deriving DecidableEq, Repr

def evAdd (rm : Nat) (a b : EV) : EVF :=
  if a.isNaN || b.isNaN then ⟨.nan (a.psn || b.psn), 0⟩
  else match a, b with
    | .inf x, .inf y => if x == y then ⟨.inf x, 0⟩ else ⟨.nan false, fNV⟩
    | .inf x, _ => ⟨.inf x, 0⟩
    | _, .inf y => ⟨.inf y, 0⟩
    | .fin x, .fin y => ⟨.fin (Ex.add rm x y), 0⟩
    | _, _ => ⟨.nan false, 0⟩

def evNeg : EV → EV
  | .nan p => .nan p
  | .inf n => .inf (!n)
  | .fin x => .fin x.neg1

def evMul (a b : EV) : EVF :=
  if a.isNaN || b.isNaN then ⟨.nan (a.psn || b.psn), 0⟩
  else match a, b with
    | .inf x, .inf y => ⟨.inf (x != y), 0⟩
    | .inf x, .fin y => if y.num = 0 then ⟨.nan false, fNV⟩ else ⟨.inf (x != y.neg), 0⟩
    | .fin x, .inf y => if x.num = 0 then ⟨.nan false, fNV⟩ else ⟨.inf (x.neg != y), 0⟩
    | .fin x, .fin y => ⟨.fin (x.mul y), 0⟩
    | _, _ => ⟨.nan false, 0⟩

/-- A × B + C as one exact value; the NaN rule reads all three operands. -/
def evFma (rm : Nat) (a b c : EV) : EVF :=
  let p := evMul a b
  let r := evAdd rm p.v c
  if a.isNaN || b.isNaN || c.isNaN then ⟨.nan (a.psn || b.psn || c.psn), p.fl⟩ else ⟨r.v, p.fl ||| r.fl⟩

/-- Rounds an exact result, joining its flags. -/
def EVF.round (x : EVF) (ty rm : Nat) (sat : Bool) (draw : Nat) : FR :=
  let r := roundEV ty rm sat draw x.v
  ⟨r.bits, r.fl ||| x.fl⟩

/-- Order of two non-NaN values; −0 below +0 when `signed0`. -/
def evCmp (signed0 : Bool) (a b : EV) : Int :=
  match a, b with
  | .inf x, .inf y => if x == y then 0 else if x then -1 else 1
  | .inf x, _ => if x then -1 else 1
  | _, .inf y => if y then 1 else -1
  | .fin x, .fin y =>
    let c := x.cmp y
    if c = 0 && x.num = 0 && signed0 then (if x.neg == y.neg then 0 else if x.neg then -1 else 1) else c
  | _, _ => 0

/-- `fmin` and `fmax` on codes (R124): a NaN operand yields the other; two NaNs the canonical NaN. -/
def fminmax (ty : Nat) (big : Bool) (a b : Nat) : Nat :=
  let x := fdec ty a
  let y := fdec ty b
  if x.isNaN && y.isNaN then canonNaN ty
  else if x.isNaN then b
  else if y.isNaN then a
  else
    let c := evCmp true x y
    if big then (if c < 0 then b else a) else (if 0 < c then b else a)

/-- `fmax` and `fmin` of a collective (R135): any NaN gives the canonical NaN. -/
def fminmaxN (ty : Nat) (big : Bool) (a b : Nat) : Nat :=
  if (fdec ty a).isNaN || (fdec ty b).isNaN then canonNaN ty else fminmax ty big a b

/-- `fcmp` (R125): relation and flags. -/
def fcmpRel (ty fn a b : Nat) : Bool × BitVec 6 :=
  let x := fdec ty a
  let y := fdec ty b
  let un := x.isNaN || y.isNaN
  if fn = 3 then (un, 0)
  else if un then (false, if fn = 0 then 0 else fNV)
  else
    let c := evCmp false x y
    (if fn = 0 then decide (c = 0) else if fn = 1 then decide (c < 0) else decide (c ≤ 0), 0)

/-- The class mask of `fcls` (R125). -/
def fclass (ty x : Nat) : Nat :=
  let f := ffmt ty
  let sub := decide ((x % 2 ^ (f.w - 1)) / 2 ^ f.fb = 0)
  match fdec ty x with
  | .nan _ => 2 ^ 8
  | .inf n => if n then 2 ^ 0 else 2 ^ 7
  | .fin v =>
    if v.num = 0 then (if v.neg then 2 ^ 3 else 2 ^ 4)
    else if v.neg then (if sub then 2 ^ 2 else 2 ^ 1)
    else (if sub then 2 ^ 5 else 2 ^ 6)

/-- Float to integer (R125, R212): rounded, clamped, `nv` when clamped or NaN, `nx` when the delivered integer is not the exact
value (R195; assumption 15). -/
def toIntTy (ty rm draw : Nat) (v : EV) : FR :=
  match v with
  | .nan _ => ⟨0, fNV⟩
  | .inf n => ⟨wrapNat (tyWidth ty) (if n then minTy ty else maxTy ty), fNV ||| fNX⟩
  | .fin x =>
    let (m, inex) := roundMag rm x draw
    let i : Int := if x.neg then -(m : Int) else m
    let c := clampTy ty i
    ⟨wrapNat (tyWidth ty) c, (if c = i then 0 else fNV) ||| (if inex || c != i then fNX else 0)⟩

/-- One converted element between two types (R125, R212). -/
def convTy (dt st rm : Nat) (sat : Bool) (draw x : Nat) : FR :=
  if isFloatTy st then
    if isFloatTy dt then roundEV dt rm sat draw (fdec st x) else toIntTy dt rm draw (fdec st x)
  else if isFloatTy dt then roundFin dt rm sat draw (Ex.ofInt (extTy st x))
  else ⟨narrowTy dt sat (extTy st x), 0⟩

/-! ### Transcendentals, correctly rounded (R209) -/

/-- The integer square root, by bits from `k` down. -/
def isqrtGo (n : Nat) : Nat → Nat → Nat
  | 0, acc => acc
  | k + 1, acc => if (acc + 2 ^ k) * (acc + 2 ^ k) ≤ n then isqrtGo n k (acc + 2 ^ k) else isqrtGo n k acc

def isqrt (n : Nat) : Nat := isqrtGo n (n.log2 / 2 + 1) 0

/-- Bits of the fixed-point working precision. -/
def fxP : Nat := 384

/-- ln 2 in fixed point: the sum of 1 / (k 2^k). -/
def ln2Go : Nat → Nat → Nat
  | 0, _ => 0
  | n + 1, k => 2 ^ fxP / (k * 2 ^ k) + ln2Go n (k + 1)

def ln2Fx : Nat := ln2Go 384 1

/-- exp of a fixed-point x in [0, 1): the Taylor series. -/
def expGo (x : Nat) : Nat → Nat → Nat → Nat
  | 0, _, _ => 0
  | n + 1, k, t => t + expGo x n (k + 1) (t * x / 2 ^ fxP / k)

def expFx (x : Nat) : Nat := expGo x 96 1 (2 ^ fxP)

/-- artanh series of z in fixed point: the sum of z^(2k+1) / (2k+1). -/
def atanhGo (z2 : Nat) : Nat → Nat → Nat → Nat
  | 0, _, _ => 0
  | n + 1, k, t => t / k + atanhGo z2 n (k + 2) (t * z2 / 2 ^ fxP)

/-- log2 of num / den in [1, 2), in fixed point. -/
def log2Fx (num den : Nat) : Nat :=
  let z := (num - den) * 2 ^ fxP / (num + den)
  2 * atanhGo (z * z / 2 ^ fxP) 128 1 z * 2 ^ fxP / ln2Fx

/-- A truncated irrational, between its neighbours: never exact, never a tie. -/
def sticky (neg : Bool) (t : Nat) (e : Int) : Ex := Ex.dy neg (2 * t + 1) (e - 1)

/-- 2^A. -/
def evExp2 (a : EV) : EVF :=
  match a with
  | .nan p => ⟨.nan p, 0⟩
  | .inf n => ⟨if n then .fin ⟨false, 0, 1⟩ else .inf false, 0⟩
  | .fin x =>
    let fl : Int := if x.neg then -(((x.num + x.den - 1) / x.den : Nat) : Int) else ((x.num / x.den : Nat) : Int)
    let fr : Nat := (x.toInt 1 - fl * x.den).toNat
    let n : Int := min (max fl (-4096)) 4096
    if fr = 0 then ⟨.fin (Ex.dy false 1 n), 0⟩
    else ⟨.fin (sticky false (expFx (fr * ln2Fx / x.den)) (n - fxP)), 0⟩

/-- log2 A. -/
def evLog2 (a : EV) : EVF :=
  match a with
  | .nan p => ⟨.nan p, 0⟩
  | .inf n => if n then ⟨.nan false, fNV⟩ else ⟨.inf false, 0⟩
  | .fin x =>
    if x.num = 0 then ⟨.inf true, fDZ⟩
    else if x.neg then ⟨.nan false, fNV⟩
    else
      let e := floorLog2 x.num x.den
      let n := if 0 ≤ e then x.num else x.num * 2 ^ (-e).toNat
      let d := if 0 ≤ e then x.den * 2 ^ e.toNat else x.den
      if n = d then ⟨.fin (Ex.ofInt e), 0⟩
      else
        let v : Int := e * ((2 ^ fxP : Nat) : Int) + log2Fx n d
        if 0 ≤ v then ⟨.fin (sticky false v.toNat (-(fxP : Int))), 0⟩
        else ⟨.fin (sticky true ((-v).toNat - 1) (-(fxP : Int))), 0⟩

/-- 1 / A. -/
def evRcp (a : EV) : EVF :=
  match a with
  | .nan p => ⟨.nan p, 0⟩
  | .inf n => ⟨.fin ⟨n, 0, 1⟩, 0⟩
  | .fin x => if x.num = 0 then ⟨.inf x.neg, fDZ⟩ else ⟨.fin ⟨x.neg, x.den, x.num⟩, 0⟩

/-- 1 / √A. -/
def evRsq (a : EV) : EVF :=
  match a with
  | .nan p => ⟨.nan p, 0⟩
  | .inf n => if n then ⟨.nan false, fNV⟩ else ⟨.fin ⟨false, 0, 1⟩, 0⟩
  | .fin x =>
    if x.num = 0 then ⟨.inf x.neg, fDZ⟩
    else if x.neg then ⟨.nan false, fNV⟩
    else
      let n := x.den * 2 ^ (2 * fxP)
      let t := isqrt (n / x.num)
      if t * t * x.num = n then ⟨.fin (Ex.dy false t (-(fxP : Int))), 0⟩
      else ⟨.fin (sticky false t (-(fxP : Int))), 0⟩

/-- A × 2^n with n a signed 64-bit value; beyond the range of every format only the direction counts. -/
def evScale (a : EV) (n : Int) : EVF :=
  match a with
  | .nan p => ⟨.nan p, 0⟩
  | .inf s => ⟨.inf s, 0⟩
  | .fin x =>
    let k : Int := min (max n (-2048)) 2048
    ⟨.fin (if 0 ≤ k then ⟨x.neg, x.num * 2 ^ k.toNat, x.den⟩ else ⟨x.neg, x.num, x.den * 2 ^ (-k).toNat⟩), 0⟩

/-! ### Block formats (R198, R200) -/

/-- The value of a BX element under its header (R198). -/
def bxVal (bx8 : Bool) (hdr x : Nat) : EV :=
  let sel := if bx8 then x.testBit 7 else x.testBit 3
  let sg := if bx8 then x.testBit 6 else x.testBit 2
  let m := if bx8 then x % 64 else x % 4
  let e := if sel then hdr / 512 % 512 else hdr % 512
  let b : Int := if bx8 then 261 else 257
  if e = 511 then .nan false
  else if m = 0 then .fin ⟨false, 0, 1⟩
  else .fin (Ex.dy sg m ((e : Int) - b))

/-- x / 2^k. -/
def Ex.unscale (x : Ex) (k : Int) : Ex :=
  if 0 ≤ k then ⟨x.neg, x.num, x.den * 2 ^ k.toNat⟩ else ⟨x.neg, x.num * 2 ^ (-k).toNat, x.den⟩

/-- The larger of two magnitudes. -/
def Ex.maxMag (a b : Ex) : Ex := if a.num * b.den < b.num * a.den then b else a

/-- One element of R200 under exponents E0 and E1: its code and flags. -/
def bxElem (bx8 : Bool) (rm : Nat) (e0 e1 : Nat) (draw : Nat) (v : EV) : FR :=
  let b : Int := if bx8 then 261 else 257
  let maxm : Nat := if bx8 then 63 else 3
  let sb : Nat := if bx8 then 128 else 8
  let gb : Nat := if bx8 then 64 else 4
  let code (sel : Bool) (neg : Bool) (m : Nat) : Nat :=
    (if sel then sb else 0) + (if neg && m != 0 then gb else 0) + m
  match v with
  | .nan _ => ⟨sb, 0⟩
  | .inf n => ⟨code false n maxm, fOF ||| fNX⟩
  | .fin x =>
    let try1 := if e1 = 511 then none
      else
        let (q, ix) := roundMag rm (x.unscale ((e1 : Int) - b)) draw
        if q ≤ maxm then some (q, ix) else none
    match try1 with
    | some (q, ix) =>
      ⟨code true x.neg q, (if ix then fNX else 0) ||| (if x.num != 0 && q = 0 then fUF else 0)⟩
    | none =>
      let (q, ix) := roundMag rm (x.unscale ((e0 : Int) - b)) draw
      let ov := decide (maxm < q)
      let q' := min q maxm
      ⟨code false x.neg q', (if ix || ov then fNX else 0) ||| (if ov then fOF else 0) |||
        (if x.num != 0 && q' = 0 then fUF else 0)⟩

/-- A quantised block: header, element codes, flags. -/
structure BxBlock where
  hdr : Nat
  els : List Nat
  fl  : BitVec 6
  deriving DecidableEq, Repr

/-- Quantising a block (R200) with gap `d`, mode and the block's draws. -/
def bxQuant (bx8 : Bool) (d rm : Nat) (dr : List Nat) (xs : List EV) : BxBlock :=
  let m := xs.foldl (fun a v => match v with | .fin x => a.maxMag x | _ => a) (⟨false, 0, 1⟩ : Ex)
  let e0 : Nat := if m.num = 0 then 0 else (min (max (floorLog2 m.num m.den + 256) 0) 510).toNat
  let e1 : Nat := if xs.any EV.isNaN then 511 else e0 - d
  let rs := (xs.zip dr).map (fun p => bxElem bx8 rm e0 e1 p.2 p.1)
  { hdr := e0 + e1 * 512, els := rs.map (·.bits), fl := rs.foldl (fun f r => f ||| r.fl) 0 }

/-! ### The matrix unit's sums (R219 to R221) -/

/-- One K step of the floating-point kind (R219, R220): products, old value, result code and flags. `psn` tells that
some NaN operand is poison. -/
def kStepF (terms : List EVF) (psn : Bool) (c : EV) : Nat × BitVec 3 :=
  let all := terms.map (·.v) ++ [c]
  let bad := terms.any (fun t => t.v.isNaN) || c.isNaN
  let pinf := all.any (fun v => v == .inf false)
  let ninf := all.any (fun v => v == .inf true)
  if bad || (pinf && ninf) then (nanCode 8 psn, mMNV)
  else if pinf then (0x7F800000, 0)
  else if ninf then (0xFF800000, 0)
  else
    let xs := all.filterMap (fun v => match v with | .fin x => some x | _ => none)
    let nz := xs.filter (fun x => x.num != 0)
    match nz with
    | [] => (if xs.all (·.neg) then 0x80000000 else 0, 0)
    | y :: ys =>
      let e := ys.foldl (fun m x => max m (floorLog2 x.num x.den)) (floorLog2 y.num y.den)
      let u : Int := e - 60
      let sum : Int := nz.foldl (fun a x =>
        let z := x.unscale u
        let k : Int := ((z.num / z.den : Nat) : Int)
        if x.neg then a - k else a + k) 0
      let r := if sum = 0 then (⟨0, 0⟩ : FR) else roundFin 8 0 false 0 (Ex.dy (decide (sum < 0)) sum.natAbs u)
      (r.bits, if r.fl &&& fOF != 0 then mMOF else 0)

/-- One K step of the integer kind (R221). -/
def kStepI (terms : List Int) (c : Int) : Nat × BitVec 3 :=
  let s := c + terms.sum
  let r := clampTy 2 s
  (wrapNat 32 r, if r = s then 0 else mISAT)

end Sys2Proof.Machine
end

