-- ==== Sys2Proof/Machine/Types.lean ====
section
/-! DEFINITION. The types of the pieces of state of a GK-2480 module (INVENTORY.md, '## State'): plain data. -/

namespace Sys2Proof.Machine

open Sys2Proof

/-! ### What moves next -/

/-- What happens next (R239, assumption 1): a clock cycle passes; a cell issues; a reel channel runs its current
instruction; a host access or hardware event takes place, for the unit named; a host or peer agent writes a byte of its
own memory; the sensors read anew: input power, the temperature of each die and of the cold plate. -/
inductive Action where
  | tick
  | cell (c : Nat)
  | reel (r ch : Nat)
  | event (i : Instr) (unit : Nat)
  | farWrite (pa : Nat) (b : Byte)
  | reading (watts : Nat) (dies : List Nat) (plate : Nat)
  deriving DecidableEq, Repr

/-! ### Memory, translation and streams (07, 11) -/

/-- The seven paths of R237. -/
inductive Path where
  | stream
  | copy
  | matrix
  | fabric
  | reel
  | tree
  | portal
  deriving DecidableEq, Repr

/-- A cached leaf translation (R153): tag, page base and size, physical base and the leaf's permissions. -/
structure TlbEnt where
  asid : Nat
  gen  : Nat
  va   : Nat
  size : Nat
  pa   : Nat
  w    : Bool
  pv   : Bool
  mig  : Bool
  sc   : Nat
  deriving DecidableEq, Repr

/-- An edge or channel TLB (R154, R309): its entries, each with its way, and the seven pseudo-LRU bits of each set. -/
structure Tlb where
  ents : List (Nat × TlbEnt)
  plru : Tbl (BitVec 7)
  deriving DecidableEq, Repr

/-- A cached level-1 or level-2 table entry of a die's walk cache (R155). -/
structure WalkEnt where
  asid  : Nat
  gen   : Nat
  level : Nat
  va    : Nat
  entry : Word
  deriving DecidableEq, Repr

/-- Where translations are kept: a bay's edge TLB or a reel's channel TLB (R154, R309). -/
inductive TlbHome where
  | bay (b : Nat)
  | reel (r : Nat)
  deriving DecidableEq, Repr

/-- The sources a fault record names (R343). -/
inductive FaultSrc where
  | stream
  | atomic
  | copy
  | matrix
  | fabric
  | reel
  | hub
  deriving DecidableEq, Repr

/-- The waiters of a fault-table entry (R344); `voiding` stands for an application that the fault voids until its root
has taken the fault and given the token (R337, R341). -/
inductive Waiter where
  | cellOp (cell op : Nat)
  | voided (desc tid cell : Nat)
  | chan (r ch : Nat)
  | hubLaunch (q : Nat)
  | voiding (area cell : Nat)
  | hubCtx (desc : Nat)
  | graph (desc h : Nat)
  deriving DecidableEq, Repr

/-- One requester of a walk: where its translation is to go, on whose behalf, and who waits for it. -/
structure WalkAsk where
  home    : TlbHome
  desc    : Nat
  va      : Nat
  write   : Bool
  priv    : Bool
  src     : FaultSrc
  cell    : Nat
  area    : Nat
  who     : List Waiter
  deriving DecidableEq, Repr

/-- A request in a die's walker (R155): ASID, generation and 64 KiB page, with every requester that has merged into it;
`confirm` once the first walk has faulted for those that are left (R156). -/
structure WalkReq where
  die     : Nat
  asid    : Nat
  gen     : Nat
  page    : Nat
  confirm : Bool
  asks    : List WalkAsk
  deriving DecidableEq, Repr

/-- A write standing in buffer B(P, s, D) of R238: its path and queue, level, domain, the cell and operation that
issued it (for a reel channel, those that started its run), the context and its location. -/
structure BufWrite where
  path  : Path
  que   : Nat
  level : Nat
  dom   : Nat
  cell  : Nat
  op    : Nat
  desc  : Nat
  pa    : Nat
  data  : List Byte
  deriving DecidableEq, Repr

/-- A shape record (R163). -/
structure ShapeRec where
  base  : Word
  ety   : BitVec 4
  ndim  : Nat
  baxis : BitVec 8
  bnd   : BitVec 8
  ts    : Bool
  ext   : Tbl (BitVec 32)
  str   : Tbl (BitVec 32)
  hdr   : Word
  deriving DecidableEq, Repr

/-- A stream register (R94): its record, five cursor indices and one translation entry. -/
structure StreamReg where
  valid : Bool
  rc    : ShapeRec
  cur   : Tbl (BitVec 32)
  ent   : Option TlbEnt
  deriving DecidableEq, Repr

/-! ### Registers of an application in a cell (05) -/

/-- The value of a vector register with its scale side word (R94). -/
structure VecVal where
  bits : BitVec 1024
  side : BitVec 256
  deriving DecidableEq, Repr

/-- An accumulator (R216): the type bit (true: FP32) and element (i, j) under key 16 i + j. -/
structure Acc where
  fp : Bool
  el : Tbl (BitVec 32)
  deriving DecidableEq, Repr

/-- A bank (R216): type code, column j, and header h of column j under key 8 j + h. -/
structure Bank where
  ty  : BitVec 4
  col : Tbl (BitVec 1024)
  hdr : Tbl (BitVec 32)
  deriving DecidableEq, Repr

/-- A register an asynchronous operation writes (R106). -/
inductive Reg where
  | s (n : Nat)
  | v (n : Nat)
  | m (n : Nat)
  | b (n : Nat)
  deriving DecidableEq, Repr

/-- A register write at completion (R105). -/
inductive RegWrite where
  | s (n : Nat) (w : Word)
  | v (n : Nat) (x : VecVal)
  | m (n : Nat) (x : Acc)
  | b (n : Nat) (x : Bank)
  deriving DecidableEq, Repr

/-- A mark of R106: the register, the token it waits on, and the detached token id once `tok` has detached it. -/
structure Mark where
  reg : Reg
  tok : Nat
  det : Option Nat
  deriving DecidableEq, Repr

/-- What a trap hands to the area root (R336 to R338): class, sub-cause, instruction index and word, `tinfo`, and the
fault record's serial number for class 15. -/
structure TrapInfo where
  cls   : Nat
  sub   : Nat
  pc    : Nat
  word  : Word
  info  : Word
  fseq  : Option (BitVec 32)
  deriving DecidableEq, Repr

/-! ### Operations in flight -/

/-- One element read from memory into a result: bit position in the 1,280 bits of register and side word, width in
bits, virtual address and bit shift inside the byte (the BX4 nibble order of R163). -/
structure ElRead where
  pos  : Nat
  bits : Nat
  va   : Nat
  sh   : Nat
  deriving DecidableEq, Repr

/-- One element written to memory. -/
structure ElWrite where
  va   : Nat
  bits : Nat
  sh   : Nat
  val  : Nat
  deriving DecidableEq, Repr

/-- A row of a matrix fetch (R224): the value read so far, the elements still to read, and whether poison was read. -/
structure RowRead where
  base : VecVal
  els  : List ElRead
  pz   : Bool
  deriving DecidableEq, Repr

/-- A copy packet (R182, R183), read at issue. -/
structure CopyPkt where
  sadr : Word
  dadr : Word
  hadr : Word
  run  : Nat
  n1   : Nat
  n2   : Nat
  n3   : Nat
  ss1  : Int
  ss2  : Int
  ss3  : Int
  ds1  : Int
  ds2  : Int
  ds3  : Int
  badr : Word
  ctl  : BitVec 32
  rsvd : Bool
  deriving DecidableEq, Repr

/-- A piece of a copy that its engine has read and not yet written: its number, destination bytes, header bytes. -/
structure CopyPiece where
  idx : Nat
  out : List Byte
  hdr : List Byte
  deriving DecidableEq, Repr

/-- How far a copy has come (R239): the pieces not read yet, as runs of numbers (first, count); the pieces read and not
written; the bytes delivered; the physical address of a bridle in memory, translated at issue, with its page's `sc`; what stood, before the copy itself
wrote there, in the source bytes that its destination overlaps (R185). -/
structure CopyProg where
  left : List (Nat × Nat)
  got  : List CopyPiece
  del  : Nat
  mem  : Option (Nat × Nat)
  old  : List (Nat × Byte)
  deriving DecidableEq, Repr

/-- What a `gstr` has moved of its elements (R302): the values read for tokens that have not entered the input queue yet, and the
elements written of outputs that have not left the output queue, each under its number. -/
structure StrIo where
  got : List (Nat × Nat)
  put : List Nat
  deriving DecidableEq, Repr

/-- A bridle update (R256, R258). -/
inductive BrUpd where
  | init (n : Nat)
  | arr
  | drop
  | exp (bytes : Nat)
  | issue (bytes : Nat)
  | land (bytes : Nat)
  | fail
  deriving DecidableEq, Repr

/-- The operations that leave a cell for a queue or an engine, each with what it read at issue (R106); `gather` marks
the gathers and scatters, which do not use their stream's translation entry (R153); `bn` the bank an `mmt` reads (R226); `on` what
a fence acts on, all of it or, issued before commit, what stands in the list of the effects held as it issued (true) or what does not
(false) (R242). -/
inductive OpKind where
  | gload (d ty : Nat) (base : VecVal) (els : List ElRead) (pz gather : Bool) (pol : Nat)
  | gstore (els : List ElWrite) (pz gather : Bool) (pol : Nat)
  | atom (d : Nat) (pa aop ty scp sc : Nat) (b c : Nat)
  | flset (idx : Nat) (add : Bool) (val : Word) (scp : Nat)
  | flwait (d idx : Nat) (exp : BitVec 32) (scp : Nat) (entered : Bool) (got : Option Word)
  | brUpd (d : Nat) (home : BridleHome) (va : Nat) (u : BrUpd) (scp : Nat)
  | brWait (d : Nat) (home : BridleHome) (va : Nat) (par : Bool) (scp : Nat) (entered : Bool)
  | brTest (d : Nat) (home : BridleHome) (va : Nat) (scp : Nat)
  | brSent (d : Nat)
  | copy (p : CopyPkt) (scp pol : Nat) (g : CopyProg) (status : Nat) (fl : Nat)
  | bld (b : Nat) (ty : BitVec 4) (ncol : Nat) (rows : List RowRead)
  | mmt (acc bn : Nat) (bank : Bank) (tya tyb : BitVec 4) (zc : Bool) (rows : List RowRead)
  | msend (grp k : Nat) (ty : BitVec 4) (rows : List RowRead)
  | mrecv (grp k : Nat) (tile : Bool)
  | coll (k : Nat)
  | opnd (d : Nat) (val : Word)
  | asnd (ch : Nat)
  | arcv (d a ch : Nat)
  | gld (h plane : Nat) (va : Word) (d : Nat) (got : List (Nat × Nat))
  | grel (h : Nat)
  | gstr (h d tokens : Nat) (out : Nat) (io : StrIo) (fl : Nat)
  | gcol (h d tokens : Nat) (inp : VecVal) (out : VecVal) (fl : Nat)
  | gfrz (h : Nat) (va : Word) (d : Nat)
  | gthaw (h : Nat) (va : Word) (d : Nat)
  | rlload (r ch : Nat) (va : Word)
  | rlgo (r ch : Nat)
  | rlpost (r ch : Nat) (rc : List Byte)
  | rlstat (d r ch : Nat)
  | pfg (vas : List Nat) (pol : Nat)
  | tlbi (lo hi : Nat) (asid gen : Nat)
  | ptst (pa : Nat) (val : Word)
  | asret (desc : Nat)
  | ctxsv (fn desc : Nat)
  | fence (pb pa : BitVec 7) (scp kind : Nat) (streams : Option (BitVec 8)) (on : Option (Bool × List Nat))
  deriving DecidableEq, Repr

/-- An operation of a cell, in issue order in the cell's queue list (R237, R242). `que` separates the queues of one
path; `area` and `tok` say which application and token it belongs to; `det` is set once `tok` has detached it; `owed` that its
token completed as it was held (R179) and it still owes its application the flags of its performance (R253); `pc` and `word` the index
and word of the instruction that issued it (R336, R338); `held` that it came out of the ballast buffer at commit (R242); `pages` the
translations it has obtained while others of its pages still miss (R153). -/
structure PendOp where
  id    : Nat
  area  : Nat
  desc  : Nat
  priv  : Bool
  path  : Path
  que   : Nat
  tok   : Option Nat
  det   : Option Nat
  owed  : Bool
  paused : Bool
  pc    : Nat
  word  : Word
  held  : Bool
  pages : List TlbEnt
  kind  : OpKind
  deriving DecidableEq, Repr

/-- An operation that has been performed and whose completion the cell has not seen yet (R105); `hnd` the graph handle it worked on. -/
structure DoneOp where
  id     : Nat
  area   : Nat
  desc   : Nat
  tok    : Option Nat
  det    : Option Nat
  writes : List RegWrite
  fflags : BitVec 6
  mflags : BitVec 3
  failed : Bool
  hnd    : Option Nat
  deriving DecidableEq, Repr

/-- An effect in the ballast buffer with the bytes it counts (R140). -/
structure Held where
  op    : PendOp
  bytes : Nat
  deriving DecidableEq, Repr

/-- The kept status of copies under a token (R189). -/
structure CopyStat where
  code  : BitVec 8
  bytes : Nat
  deriving DecidableEq, Repr

/-- An area-channel message (R138), with its place in its cell's issue order. -/
structure ChanMsg where
  seq    : Nat
  sender : Nat
  dest   : Nat
  ch     : Nat
  val    : VecVal
  op     : Option Nat
  deriving DecidableEq, Repr

/-- A symbol emitted into the out-slot buffer or a replacement: its word and the cell whose tile a TILE names. -/
structure OutSym where
  word : Word
  tcell : Nat
  deriving DecidableEq, Repr

/-- One application in one running cell: the registers of R94, the special registers of R96, and what the cell holds
for the application until it commits or is voided. -/
structure AppCell where
  s       : Tbl Word
  v       : Tbl VecVal
  k       : Tbl (BitVec 256)
  m       : Tbl Acc
  b       : Tbl Bank
  a       : Tbl StreamReg
  t       : Tbl Nat
  rstk    : List Nat
  pc      : Nat
  out     : List OutSym
  fflags  : BitVec 6
  mflags  : BitVec 3
  srseed  : BitVec 32
  trapen  : BitVec 9
  held    : Nat
  ballast : List Held
  cmt     : Bool
  cmtReq  : Bool
  force   : Bool
  ended   : Bool
  sleep   : Option Nat
  trap    : Option TrapInfo
  fault   : Option Nat
  stopped : Bool
  marks   : List Mark
  cstat   : Tbl CopyStat
  tasid   : BitVec 14
  frec    : BitVec 32
  ctxsel  : BitVec 7
  ncoll   : Nat
  nmc     : Tbl Nat
  recvq   : Tbl (List ChanMsg)
  outq    : List ChanMsg
  deriving DecidableEq, Repr

/-! ### Cells, areas, bays (04, 05, 06) -/

/-- A live run of tile-store bytes (R18 to R22): the area that allocated it while its application runs, whether a
symbol names it already, and how many operations pin it (R116). -/
structure TileRun where
  off   : Nat
  len   : Nat
  alloc : Option Nat
  emitted : Bool
  pin   : Nat
  deriving DecidableEq, Repr

/-- A waiter on a bridle (R256). -/
structure BrWaiter where
  cell : Nat
  op   : Nat
  deriving DecidableEq, Repr

/-- A bridle record (R255) with the updates that have reached its home, whether it has been evaluated in this cycle (R256), and its
waiters. `area` owns a slot. -/
structure Bridle where
  phase  : Bool
  fault  : Bool
  apend  : Nat
  areset : Nat
  bpend  : Nat
  upd    : List (BrUpd × Option BrWaiter)
  once   : Bool
  wait   : List (Bool × BrWaiter)
  area   : Option Nat
  deriving DecidableEq, Repr

/-- A tag entry of a microprogram cache with its code (R99). -/
structure Tag where
  sys  : Bool
  desc : Nat
  opid : Nat
  priv : Bool
  code : List Word
  used : Nat
  deriving DecidableEq, Repr

/-- A leaf cell: slots, tile store, live tiles, bridle slots, microprogram cache, the areas it serves in row order,
and the operations it has in its queues, in issue order, and completed; when its corrected errors of the last hour fell, and whether
its retirement is due (R382). -/
structure Cell where
  slots   : List Word
  retired : Bool
  marked  : Bool
  ts      : Tbl Byte
  bad     : List Nat
  tiles   : List TileRun
  bridles : Tbl Bridle
  cache   : List Tag
  serve   : List Nat
  pend    : List PendOp
  done    : List DoneOp
  errs    : List Nat
  due     : Bool
  deriving DecidableEq, Repr

/-- A symbol of an area where it stands: cell, slot index, word. -/
structure SymAt where
  cell : Nat
  slot : Nat
  word : Word
  deriving DecidableEq, Repr

/-- One cell's share of a collective (R134); `on` once nothing holds it back in its queue (R239). -/
structure CollPart where
  cell : Nat
  op   : Nat
  code : Nat
  rop  : Nat
  ty   : Nat
  fn   : Nat
  src  : Nat
  dst  : Reg
  val  : VecVal
  id   : Nat
  tok  : Option Nat
  on   : Bool
  deriving DecidableEq, Repr

/-- One multicast row on its way (R233): the send it belongs to, its index and lanes, and the children links that have taken
it out of the buffer it stands in. -/
structure McRow where
  send  : Nat
  row   : Nat
  val   : VecVal
  taken : List Nat
  deriving DecidableEq, Repr

/-- A downward tree link (R266) with the buffer at its lower end: level and node of that end, group, the rows in the buffer,
the send it serves now and its window count. -/
structure McBuf where
  level  : Nat
  node   : Nat
  grp    : Nat
  rows   : List McRow
  send   : Option Nat
  window : Nat
  deriving DecidableEq, Repr

/-- A `bldm` joined to group g as the k-th (R232). -/
structure McJoin where
  cell  : Nat
  grp   : Nat
  k     : Nat
  role  : Nat
  ty    : BitVec 4
  nrow  : Nat
  op    : Nat
  bank  : Nat
  strm  : StreamReg
  rows  : List VecVal
  sent  : Nat
  pz   : Bool
  deriving DecidableEq, Repr

/-- What S does with an area's symbols (R77, R79, R132, R339, R341). -/
inductive Fate where
  | none
  | one (w : Word)
  | replaced
  | sysRepl (syms : List (Nat × OutSym))
  | restored (syms : List (Word × List Byte))
  | awaitTok (tid : Nat)
  | trapped (tseq : Nat)
  deriving DecidableEq, Repr

/-- Where an area stands in its sweep; `waiting` takes no part in it: deferred (R78) or fenced (R83); `parked` is a committed
application that a pre-emption has stopped (R356). -/
inductive AreaPhase where
  | waiting
  | parked
  | formed
  | loaded
  | running
  | over
  deriving DecidableEq, Repr

/-- An area (R73, R74): its directory fields, its symbols in row order with the operand's place among them, its
applications by cell, its collectives, multicasts, and fate. -/
structure Area where
  live   : Bool
  desc   : Nat
  opid   : Nat
  parm   : BitVec 32
  sys    : Bool
  priv   : Bool
  bays   : List Nat
  cells  : List Nat
  first  : Nat
  last   : Nat
  syms   : List SymAt
  opPos  : Nat
  opLen  : Nat
  dfr    : Nat
  cls    : Nat
  birth  : BitVec 32
  urg    : Bool
  slotb  : Nat
  tileb  : Nat
  ncode  : Nat
  liveMask : BitVec 128
  decls  : List (Nat × Nat)
  missed : List Nat
  phase  : AreaPhase
  cmt    : Bool
  fate   : Fate
  apps   : Tbl AppCell
  colls  : List CollPart
  collN  : Nat
  joins  : List McJoin
  bufs   : List McBuf
  moved  : Nat
  deriving DecidableEq, Repr

/-- A line of a stage-cache slice (R158): its number, and whether it is written and not yet back in HBM. -/
structure Line where
  num   : Nat
  dirty : Bool
  deriving DecidableEq, Repr

/-- A record of a bay's shape cache (R176): the context and index it belongs to, and its 64 bytes as read. -/
structure ShapeHit where
  desc  : Nat
  shx   : Nat
  rc    : ShapeRec
  clean : Bool
  deriving DecidableEq, Repr

/-- The phases a bay stands in (R75). -/
inductive BayPhase where
  | boundary
  | load
  | exec
  | store
  deriving DecidableEq, Repr

/-- A bay: phase, the bays joined with it in this sweep and those it is marked to join (R84), when L opened, whether it
has reason to start P (R75), whether symbols placed in it are not in its last report yet (R84), the fenced cell ranges
(R83), hold for compaction (R86), stage-cache lines, the newest first (R158), page access counts (R346), edge TLB (R154),
shape cache, the newest first (R176). -/
structure Bay where
  phase  : BayPhase
  join   : List Nat
  mark   : List Nat
  lopen  : Nat
  due    : Bool
  fresh  : Bool
  fences : List (Nat × Nat × Nat)
  held   : Bool
  lastP  : Nat
  pcount : Nat
  lines  : List Line
  counts : Tbl Nat
  sampled : Nat
  tlb    : Tlb
  shapes : List ShapeHit
  deriving DecidableEq, Repr

/-! ### Hub (03, 04, 11, 17, 19) -/

/-- A launch record (R60). -/
structure Launch where
  q      : Nat
  seq    : BitVec 32
  ctxd   : Nat
  place  : Bool
  asid   : Nat
  image  : Word
  root   : Nat
  wrap   : Bool
  rparm  : BitVec 32
  prio   : Nat
  nstr   : Nat
  flags  : List (Nat × BitVec 32)
  deps   : List (Nat × BitVec 32)
  lflags : BitVec 32
  crec   : Word
  cfidx  : Nat
  cfval  : BitVec 32
  args   : List Word
  deriving DecidableEq, Repr

/-- A section of an image (R35). -/
structure Sect where
  kind  : Nat
  foff  : Nat
  size  : Nat
  vaddr : Nat
  link  : Nat
  deriving DecidableEq, Repr

/-- An operator record's header (R43, R45): declarations as (kind, scope), the virtual address of its code, whether it
keeps the limits, and the bytes the record takes. -/
structure OpRec where
  id     : Nat
  urgent : Bool
  erracc : Bool
  priv   : Bool
  ncode  : Nat
  slotb  : Nat
  tileb  : Nat
  live   : BitVec 128
  decls  : List (Nat × Nat)
  code   : Nat
  ok     : Bool
  bytes  : Nat
  deriving DecidableEq, Repr

/-- What the hub keeps of an image (R34 to R43): header, section table, the entry expression's words with the arguments in
place (ARGINT), operator headers, the shape fields to write at placement (ARGEXT), and the directory index and address of each tile that the
expression names. -/
structure Image where
  addr   : Nat
  flags  : BitVec 32
  sects  : List Sect
  entry  : Nat
  words  : List Word
  trapid : Nat
  ops    : List OpRec
  patch  : List (Nat × BitVec 32)
  tiles  : List (Nat × Nat)
  deriving DecidableEq, Repr

/-- Where the record at a queue's head stands (R62 to R64, R85); a refused one stays until its record is written. -/
inductive Stage where
  | none
  | checked
  | released
  | strands
  | refused (status : Nat)
  deriving DecidableEq, Repr

/-- A launch queue (R58, R59): registers, slot bytes under key 256 slot + offset, the sequence numbers of every record
committed, the expected one (R61), the head record, its stage and the time it began to wait for strands, its flag entries
that have been entered in the watch table and the flags still awaited there, the commit count up to which a flush ends
its records (R64), and the last retirements (R63). -/
structure Queue where
  en     : Bool
  dlo    : BitVec 7
  dhi    : BitVec 7
  vec    : BitVec 11
  pc     : BitVec 16
  cc     : BitVec 16
  ecause : BitVec 4
  errv   : Bool
  bytes  : Tbl Byte
  seqs   : List (BitVec 32)
  expect : Option (BitVec 32)
  head   : Option Launch
  stage  : Stage
  image  : Option Image
  since  : Nat
  ifail  : Bool
  flushTo : Option (BitVec 16)
  entered : List Nat
  watching : List Nat
  retired : List (BitVec 32 × Nat)
  deriving DecidableEq, Repr

/-- A hardware semaphore (R57). -/
structure Sem where
  rid  : BitVec 16
  port : Port
  held : Bool
  deriving DecidableEq, Repr

/-- A context descriptor (R66). -/
structure Desc where
  ptroot  : Word
  basid   : BitVec 16
  valid   : Bool
  signed  : Bool
  live    : Bool
  pceil   : BitVec 8
  maxstr  : BitVec 8
  spbase  : Word
  spsize  : Word
  envbase : Word
  envsize : Word
  keyid   : BitVec 256
  keyaddr : Word
  deriving DecidableEq, Repr

/-- A spilled run in the ring (R89): its position and size in bytes, the bytes after it that are freed with it, its symbols in
order, each with its tile's bytes where it names one, and the bay that held it. -/
structure SpillRec where
  off   : Nat
  len   : Nat
  skip  : Nat
  kinds : List (Option Nat)
  bay   : Nat
  deriving DecidableEq, Repr

def SpillRec.count (r : SpillRec) : Nat := r.kinds.length

/-- Why a context stops before normal form (R31, R355, R361). -/
inductive Stop where
  | aborted (code : BitVec 32)
  | rowInt (tseq : Nat)
  | rowFull (tseq : Nat)
  | killed
  deriving DecidableEq, Repr

/-- A completion waiting in the matching store (R27): the symbol a token or flag turns into. -/
structure Compl where
  flag : Bool
  id   : Nat
  exp  : BitVec 32
  sym  : Word
  deriving DecidableEq, Repr

/-- A saved running application (R358, section 1): its area with the cell numbers as they were. -/
structure SavedArea where
  id   : Nat
  area : Area
  deriving DecidableEq, Repr

/-- How far a pre-emption of the context has come (R354, R356). -/
inductive Pre where
  | none
  | requested (since : Nat) (force park : Bool) (op : Option (Nat × Nat))
  | cut (park : Bool) (op : Option (Nat × Nat))
  | out (park : Bool)
  | resuming (op : Option (Nat × Nat))
  deriving DecidableEq, Repr

/-- The first sample of the termination test (R364): when it was taken, `esent` = `eland`, of each bay its P count and
whether it stood idle. -/
structure Sample where
  cyc   : Nat
  esent : BitVec 32
  pcs   : List (Nat × Bool)
  deriving DecidableEq, Repr

/-- How far the retirement of a context has come once its termination test has passed (R365 to R368): the result image
to write, then the completion record with its `cflg`, `cnsym`, `cres` and `cresb`. -/
inductive Ending where
  | no
  | result
  | record (flg cnsym cres cresb : Nat)
  deriving DecidableEq, Repr

/-- An entry of the fault table (R343) with its waiters (R344). -/
structure FaultEnt where
  live  : Bool
  fseq  : BitVec 32
  kind  : Nat
  src   : FaultSrc
  write : Bool
  lev   : Nat
  desc  : Nat
  asid  : Nat
  gen   : Nat
  nw    : Nat
  va    : Nat
  ent   : Word
  epa   : Nat
  chan  : Nat
  who   : List Waiter
  formed : Bool
  deriving DecidableEq, Repr

/-- A context, by its descriptor index; `kept` the descriptor as read at placement (R66); `rowf` a row fault whose record is still to
be written (R361); `told` holds the bays that have run P since its last completion
arrived, `normal` those whose last P found its symbols in normal form (R364); `failed` the
paused operations whose faults the pager failed while the context was out, with their fault records (R344); `landing` the operations
that are performed and whose writes still stand in buffers (R364); `written` the sections of the save image as they were written
(R357). -/
structure Ctx where
  live   : Bool
  launch : Option Launch
  image  : Option Image
  gen    : Nat
  prio   : Nat
  start  : Nat
  len    : Nat
  placed : Nat
  cstart : Nat
  tids   : List Nat
  detached : List (Nat × Nat × Bool)
  compl  : List Compl
  told   : List Nat
  normal : List Nat
  rtail  : Nat
  spills : List SpillRec
  restoring : Bool
  etnext : BitVec 32
  stop   : Option Stop
  stopped : Bool
  estate : Nat
  kept   : Option Desc
  pre    : Pre
  saved  : List (Nat × Cell)
  savedA : List SavedArea
  written : List (List Byte)
  waitToks : List Nat
  esent  : BitVec 32
  eland  : BitVec 32
  landing : List Nat
  sample : Option Sample
  ending : Ending
  grow   : Option (Nat × Nat)
  rfault : Bool
  rowf   : Option Nat
  failed : List (Nat × FaultEnt)
  killOp : Option (Nat × Nat)
  deriving DecidableEq, Repr

/-- Who is released when a watch entry fires (R262). -/
inductive WatchWho where
  | guard (desc : Nat)
  | hold (q : Nat)
  | cell (cell op : Nat)
  deriving DecidableEq, Repr

/-- An entry of the watch table (R262); `hit`: the flag word that met its test, in a reported write or the first read. An entry that
has one is free already, and only its waiters are still to be told. -/
structure Watch where
  idx : Nat
  exp : BitVec 32
  hit : Option Word
  who : List WatchWho
  deriving DecidableEq, Repr

/-- The registers of a port (R372): error log, MSI-X enable, table words, pending bits. -/
structure PortRegs where
  eoff  : BitVec 22
  ewin  : Bool
  ewr   : Bool
  ev    : Bool
  eovf  : Bool
  msix  : Bool
  table : Tbl Word
  pend  : List Nat
  deriving DecidableEq, Repr

/-- `HUB.ASBIND` (R67), `HUB.CTXKILL` with the descriptor whose kill is in progress (R355), and the port that lost the last tie (R55). -/
structure HubRegs where
  asid  : BitVec 10
  desc  : BitVec 7
  busy  : Bool
  bst   : BitVec 2
  gen   : BitVec 4
  kdesc : BitVec 7
  kbusy : Bool
  kwho  : BitVec 7
  kst   : BitVec 2
  tie   : Port
  deriving DecidableEq, Repr

/-- Power, temperature and boot (R374 to R378, R381): `tripped` stops every clock until a cold start, `trip` is Maryon's record of it;
`softC` and `softU` count corrected and uncorrectable errors; `lastHot` is the hottest of `dies`. -/
structure Board where
  cap    : BitVec 12
  pen    : Bool
  pstep  : Nat
  tstep  : Nat
  tripped : Bool
  trip   : Bool
  boot   : Nat
  recovery : Bool
  opened : Bool
  maryon : Option (BitVec 7)
  accel  : BitVec 10
  flash  : Tbl Byte
  fkeys  : List (BitVec 256 × Bool)
  fsvn   : BitVec 32
  fseed  : BitVec 256
  retireMap : List Nat
  attest : Tbl Byte
  nrep   : BitVec 32
  mdig   : BitVec 256
  cdigs  : List (BitVec 256)
  mkeys  : List (List Byte)
  portUp : List Nat
  bootDown : List Nat
  retries : Tbl Nat
  elogN  : BitVec 32
  softC  : BitVec 32
  softU  : BitVec 32
  lastW  : Nat
  lastHot : Nat
  dies   : List Nat
  plate  : Nat
  deriving DecidableEq, Repr

/-! ### Fabric (13) -/

/-- The source of a node input (R271, R272): none, or node `n` read `lat` steps after it was computed. -/
structure GIn where
  src : Option Nat
  lat : Nat
  sh  : Nat
  lag : Nat
  deriving DecidableEq, Repr

/-- A node of a loaded graph (R271, R283, R284): kind code, width, inputs, port index, stage. -/
structure GNode where
  kind  : Nat
  width : Nat
  a     : GIn
  b     : GIn
  port  : Nat
  stage : Nat
  keep  : Bool
  deriving DecidableEq, Repr

/-- A token of a graph (R271, R274): which operation and index it belongs to, whether it drains, its elements, its
segment exponent, and whether it is a NaN token. -/
structure GTok where
  op    : Nat
  idx   : Nat
  drain : Bool
  vals  : List Int
  sx    : Int
  nan   : Bool
  deriving DecidableEq, Repr

/-- The outputs of one token, each in 32 bits, with the headers of a BX8 output. -/
structure GOut where
  op   : Nat
  idx  : Nat
  vals : List (BitVec 32)
  hdrs : List (BitVec 32)
  fl   : BitVec 6
  deriving DecidableEq, Repr

/-- An operation accepted by a graph (R279): the cell and operation, tokens to enter and how many have. -/
structure GOp where
  cell   : Nat
  op     : Nat
  tokens : Nat
  entered : Nat
  cancelled : Bool
  deriving DecidableEq, Repr

/-- What the bytes `opst` of a freeze record stand for (R300): the operation in progress, its tokens on their way, the
cursors of the bindings, and how far each operation with a token on its way has come, under its identity. -/
structure GFrz where
  opst : List Byte
  ops  : Option GOp
  pipe : List GTok
  inq  : List GTok
  outq : List GOut
  bin  : Tbl (BitVec 32)
  bout : Tbl (BitVec 32)
  kinds : List (Nat × OpKind)
  deriving DecidableEq, Repr

/-- A graph handle (R288) with its graph, bindings, plane state, queues and operations: `loading` the `gld` that has not completed,
`frozen` by `gfrz` (R299), `parked` by a pre-emption and perhaps `unloaded` (R304), `lost` when its image cannot be read again,
`hold` while a compaction waits (R290); `regs` keeps of each node its register and the values its registered joins still hold,
newest first; `frz` the freeze records written of it. -/
structure Graph where
  loaded : Bool
  loading : Option Nat
  fimg   : Word
  die    : Nat
  plane  : Nat
  sail0  : Nat
  nsail  : Nat
  inFmt  : BitVec 4
  outFmt : BitVec 4
  nin    : Nat
  nout   : Nat
  lat    : Nat
  hist   : Nat
  nodes  : List GNode
  scales : List (BitVec 32)
  regs   : Tbl (List Int)
  pipe   : List GTok
  inq    : List GTok
  outq   : List GOut
  ops    : List GOp
  frozen : Bool
  parked : Bool
  unloaded : Bool
  lost   : Bool
  hold   : Bool
  bin    : StreamReg
  bout   : StreamReg
  frz    : List GFrz
  deriving DecidableEq, Repr

/-- A die's plane sequencer (R278): active plane, switching, steps since active, cycles without a step, the quantum it
became active with (R298). -/
structure Seqr where
  plane  : Nat
  idle   : Bool
  switch : Option Nat
  steps  : Nat
  still  : Nat
  quant  : Nat
  deriving DecidableEq, Repr

/-! ### Reels (16) -/

/-- A chunk record (R313). -/
structure Chunk where
  addr  : Word
  bytes : Nat
  ety   : BitVec 8
  xfi   : BitVec 8
  deriving DecidableEq, Repr

/-- An xf record (R314). -/
structure XfRec where
  ndim : Nat
  xcv  : Nat
  etr  : Nat
  n    : List Nat
  ss   : List Int
  ds   : List Int
  deriving DecidableEq, Repr

/-- The states of a channel's `st` field (R334). -/
inductive ChanSt where
  | noProgram
  | loaded
  | running
  | paused
  | ended
  | stopped
  deriving DecidableEq, Repr

/-- A chunk message that a receiving instruction has accepted: the rank it comes from, its byte count, the granules written,
the bytes received so far, and whether its tail has arrived. -/
structure RxMsg where
  rank  : Nat
  bytes : Nat
  done  : Nat
  data  : List Byte
  tail  : Bool
  deriving DecidableEq, Repr

/-- Progress of the current chunk instruction: clear-to-send sent, header sent, granules done, those that a peer module has reported
written, data gathered so far, the messages it receives, and the ranks already committed. -/
structure Prog where
  cts    : Bool
  head   : Bool
  done   : Nat
  taken  : Nat
  data   : List Byte
  opened : List RxMsg
  fin    : List Nat
  deriving DecidableEq, Repr

/-- A reel channel (R310, R334): the context it is bound to, its status fields, its program stores, its counters and
queues, what it has kept of its peers' messages, its progress, the `rlgo` operations that wait for its end, and the cell and
`rlgo` that started its run, whose writes its own are (R242). -/
structure Chan where
  bound  : Option Nat
  st     : ChanSt
  ecode  : Nat
  pc     : Nat
  pcs    : Nat
  rfl    : BitVec 4
  dup    : BitVec 16
  mark   : BitVec 16
  prog   : List Word
  ranks  : List (BitVec 32)
  chunks : List Chunk
  xfs    : List XfRec
  c      : Tbl (BitVec 32)
  tx     : Tbl (BitVec 32)
  rx     : Tbl (BitVec 32)
  sgc    : BitVec 32
  posted : List (Chunk × Bool × Nat × Nat)
  window : List (Nat × BitVec 32 × List Byte)
  cts    : List (Nat × Nat × Nat × BitVec 32)
  aborts : List (Nat × Nat × Nat)
  prg    : Prog
  gos    : List (Nat × Nat)
  run    : Nat × Nat
  deriving DecidableEq, Repr

end Sys2Proof.Machine
end

