-- ==== Sys2Proof/Config.lean ====
section
/-! DEFINITION. What the spec fixes outside the module's state, and the free values: constants without a body, so
that nothing can be proved of the value one of them has. -/

namespace Sys2Proof

open Sys2Proof.Machine

/-- Which agent moves when the agenda is empty (R237, R239: left open); none is an idle cycle. Assumption 1. -/
opaque Config.nextAction : Nat → Option Action

/-- A free value of `w` bits, drawn by the counter `nfree`. Assumption 2. -/
opaque Config.freeBits (w : Nat) : Nat → BitVec w

/-- SHA3-256, which the spec names and does not define (R54, R375, R377). Assumption 3. -/
opaque Config.sha3 : List Byte → BitVec 256

/-- ML-DSA-44 verification of a digest with an empty context string: key, digest, signature (R54, R375).
Assumption 3. -/
opaque Config.mldsaVerify : List Byte → BitVec 256 → List Byte → Bool

/-- The ML-DSA-44 public key generated from a seed (R377). Assumption 3. -/
opaque Config.mldsaKey : BitVec 256 → List Byte

/-- The certificate of the identity generated from a seed, as words from its start (R377): its bytes are the maker's. Assumption 104. -/
opaque Config.identityCert : BitVec 256 → Nat → BitVec 64

/-- The ML-DSA-44 signature, under the key of a seed, of a message (R377). Assumption 3. -/
opaque Config.mldsaSign : BitVec 256 → List Byte → List Byte

/-- The words of the ROM microprogram of `page` (R30, R100): the pager's own. Assumption 4. -/
opaque Config.pageRom : Nat → Word

/-- The image that firmware makes of the pager component of its manifest, with the entry expression it places (R375,
R376). Assumption 4. -/
opaque Config.pagerImage : List Byte → Option Image

/-- The base of the fault table, which firmware places in HBM (R343, R376). Assumption 6. -/
opaque Config.faultBase : Nat

/-- The base of the soft-error log, which firmware places in HBM (R376, R381). Assumption 6. -/
opaque Config.errorLogBase : Nat

/-- Whether a UALink accelerator id has a peer module (R329): the installation's. Assumption 8. -/
opaque Config.peerAt : Nat → Bool

/-- Granules of one message that a link inside the module holds beyond the first (R326: link flow control). Assumption 102. -/
opaque Config.linkGranules : Nat

/-- Cells of the row (R69), strands (R71), cells of a strand. -/
def Config.cells : Nat := 8192
def Config.strandCells : Nat := 64
def Config.pagerStrand : Nat := 127

/-- Tile-store bytes of a cell (R11, R161). -/
def Config.tileBytes : Nat := 393216

/-- The end of HBM in the local space (R147). -/
def Config.hbmEnd : Nat := 0xC000000000

/-- The landing-flag region (R148). -/
def Config.flagBase : Nat := 0xBFFFF80000

/-- Cycles of the L window (R78), of STALL (R139), of the allocator's wait (R85), of grace (R356), between the two
termination samples (R364), between SAMPLE reports (R346). -/
def Config.lWindow : Nat := 1024
def Config.stallCycles : Nat := 4096
def Config.waitCycles : Nat := 190000
def Config.graceCycles : Nat := 38000
def Config.sampleGap : Nat := 256
def Config.countCycles : Nat := 2097152

/-- Cycles of an hour (R382), at the clock of R378 with no step: 1.9 GHz (assumption 90). -/
def Config.hourCycles : Nat := 6840000000000

/-- Bytes of a ballast buffer (R140). -/
def Config.ballastBytes : Nat := 65536

end Sys2Proof
end

