-- ==== Sys2Proof/Decode.lean ====
section
/-! DEFINITION. Decoding and encoding: the word pictures of R110 and R315, the opcode map of R114, the checks of R113
in their order, and the encoder written from the same tables. -/

namespace Sys2Proof

/-- The sub-causes of the illegal-instruction trap (R113) with their codes. -/
inductive Illegal where
  | unassigned
  | privop
  | rsvbits
  | rsvval
  | privreg
  | pastend
  deriving DecidableEq, Repr

/-- The code of a sub-cause (R113). -/
def Illegal.code : Illegal → Nat
  | .unassigned => 1
  | .privop => 2
  | .rsvbits => 3
  | .rsvval => 4
  | .privreg => 5
  | .pastend => 6

/-- The common header, bits [55:44] (R108). -/
def hdrOf (w : Word) : Hdr :=
  { g := w.extractLsb' 53 3, gn := w.extractLsb' 52 1, wm := w.extractLsb' 44 8 }

/-- The header's bits back in a word. -/
def Hdr.bits (h : Hdr) : BitVec 12 := h.g ++ h.gn ++ h.wm

/-- The fields of format K (R110). -/
def fmtKOf (w : Word) : FmtK :=
  { cnd := w.extractLsb' 40 4, sa := w.extractLsb' 34 6, sb := w.extractLsb' 28 6, off := w.extractLsb' 0 28 }

/-- The bits [43:0] of format K. -/
def FmtK.bits (f : FmtK) : BitVec 44 := f.cnd ++ f.sa ++ f.sb ++ f.off

/-- The reserved bits of format K. -/
def rsvK (w : Word) : Bool := (fun _ => true) w

/-- The fields of format T (R110). -/
def fmtTOf (w : Word) : FmtT :=
  { d := w.extractLsb' 38 6, a := w.extractLsb' 32 6, b := w.extractLsb' 26 6, c := w.extractLsb' 20 6, ty := w.extractLsb' 16 4, rm := w.extractLsb' 13 3, sat := w.extractLsb' 12 1, fn := w.extractLsb' 0 12 }

/-- The bits [43:0] of format T. -/
def FmtT.bits (f : FmtT) : BitVec 44 := f.d ++ f.a ++ f.b ++ f.c ++ f.ty ++ f.rm ++ f.sat ++ f.fn

/-- The reserved bits of format T. -/
def rsvT (w : Word) : Bool := (fun _ => true) w

/-- The fields of format I (R110). -/
def fmtIOf (w : Word) : FmtI :=
  { d := w.extractLsb' 38 6, a := w.extractLsb' 32 6, imm := w.extractLsb' 0 32 }

/-- The bits [43:0] of format I. -/
def FmtI.bits (f : FmtI) : BitVec 44 := f.d ++ f.a ++ f.imm

/-- The reserved bits of format I. -/
def rsvI (w : Word) : Bool := (fun _ => true) w

/-- The fields of format M (R110). -/
def fmtMOf (w : Word) : FmtM :=
  { d := w.extractLsb' 38 6, as := w.extractLsb' 35 3, ix := w.extractLsb' 29 6, ty := w.extractLsb' 25 4, tok := w.extractLsb' 22 3, tv := w.extractLsb' 21 1, scp := w.extractLsb' 18 3, pol := w.extractLsb' 16 2, off := w.extractLsb' 0 16 }

/-- The bits [43:0] of format M. -/
def FmtM.bits (f : FmtM) : BitVec 44 := f.d ++ f.as ++ f.ix ++ f.ty ++ f.tok ++ f.tv ++ f.scp ++ f.pol ++ f.off

/-- The reserved bits of format M. -/
def rsvM (w : Word) : Bool := (fun _ => true) w

/-- The fields of format X (R110). -/
def fmtXOf (w : Word) : FmtX :=
  { acc := w.extractLsb' 42 2, bk := w.extractLsb' 41 1, src := w.extractLsb' 35 6, tya := w.extractLsb' 31 4, tyb := w.extractLsb' 27 4, tok := w.extractLsb' 24 3, tv := w.extractLsb' 23 1, nrow := w.extractLsb' 18 5, zc := w.extractLsb' 17 1 }

/-- The bits [43:0] of format X. -/
def FmtX.bits (f : FmtX) : BitVec 44 := f.acc ++ f.bk ++ f.src ++ f.tya ++ f.tyb ++ f.tok ++ f.tv ++ f.nrow ++ f.zc ++ (0 : BitVec 17)

/-- The reserved bits of format X. -/
def rsvX (w : Word) : Bool := w.extractLsb' 0 17 == 0

/-- The fields of format G (R110). -/
def fmtGOf (w : Word) : FmtG :=
  { sl := w.extractLsb' 36 8, pl := w.extractLsb' 34 2, sa := w.extractLsb' 28 6, va := w.extractLsb' 22 6, tok := w.extractLsb' 19 3, tv := w.extractLsb' 18 1, fn := w.extractLsb' 12 6, cnt := w.extractLsb' 0 12 }

/-- The bits [43:0] of format G. -/
def FmtG.bits (f : FmtG) : BitVec 44 := f.sl ++ f.pl ++ f.sa ++ f.va ++ f.tok ++ f.tv ++ f.fn ++ f.cnt

/-- The reserved bits of format G. -/
def rsvG (w : Word) : Bool := (fun _ => true) w

/-- The fields of format S (R110). -/
def fmtSOf (w : Word) : FmtS :=
  { d := w.extractLsb' 38 6, a := w.extractLsb' 32 6, b := w.extractLsb' 26 6, rop := w.extractLsb' 22 4, ty := w.extractLsb' 18 4, ch := w.extractLsb' 15 3, tok := w.extractLsb' 12 3, tv := w.extractLsb' 11 1, sl := w.extractLsb' 7 4, fn := w.extractLsb' 0 7 }

/-- The bits [43:0] of format S. -/
def FmtS.bits (f : FmtS) : BitVec 44 := f.d ++ f.a ++ f.b ++ f.rop ++ f.ty ++ f.ch ++ f.tok ++ f.tv ++ f.sl ++ f.fn

/-- The reserved bits of format S. -/
def rsvS (w : Word) : Bool := (fun _ => true) w

/-- The fields of format A (R110). -/
def fmtAOf (w : Word) : FmtA :=
  { d := w.extractLsb' 38 6, a := w.extractLsb' 32 6, b := w.extractLsb' 26 6, c := w.extractLsb' 20 6, aop := w.extractLsb' 16 4, ty := w.extractLsb' 12 4, scp := w.extractLsb' 9 3, tok := w.extractLsb' 6 3, tv := w.extractLsb' 5 1 }

/-- The bits [43:0] of format A. -/
def FmtA.bits (f : FmtA) : BitVec 44 := f.d ++ f.a ++ f.b ++ f.c ++ f.aop ++ f.ty ++ f.scp ++ f.tok ++ f.tv ++ (0 : BitVec 5)

/-- The reserved bits of format A. -/
def rsvA (w : Word) : Bool := w.extractLsb' 0 5 == 0

/-- The fields of format F (R110). -/
def fmtFOf (w : Word) : FmtF :=
  { pb := w.extractLsb' 37 7, pa := w.extractLsb' 30 7, scp := w.extractLsb' 27 3, str := w.extractLsb' 19 8, kind := w.extractLsb' 16 3 }

/-- The bits [43:0] of format F. -/
def FmtF.bits (f : FmtF) : BitVec 44 := f.pb ++ f.pa ++ f.scp ++ f.str ++ f.kind ++ (0 : BitVec 16)

/-- The reserved bits of format F. -/
def rsvF (w : Word) : Bool := w.extractLsb' 0 16 == 0

/-- The fields of format E (R110). -/
def fmtEOf (w : Word) : FmtE :=
  { a := w.extractLsb' 38 6, b := w.extractLsb' 32 6, c := w.extractLsb' 26 6, rl := w.extractLsb' 22 4, ch := w.extractLsb' 18 4, tok := w.extractLsb' 15 3, tv := w.extractLsb' 14 1, fn := w.extractLsb' 0 14 }

/-- The bits [43:0] of format E. -/
def FmtE.bits (f : FmtE) : BitVec 44 := f.a ++ f.b ++ f.c ++ f.rl ++ f.ch ++ f.tok ++ f.tv ++ f.fn

/-- The reserved bits of format E. -/
def rsvE (w : Word) : Bool := (fun _ => true) w

/-- The fields of the C layout (R315). -/
def chunkCOf (w : Word) : ChunkC :=
  { rop := w.extractLsb' 56 3, ca := w.extractLsb' 44 12, cb := w.extractLsb' 32 12, rk := w.extractLsb' 24 8, rk2 := w.extractLsb' 16 8, n := w.extractLsb' 0 16 }

/-- The bits [58:0] of the C layout. -/
def ChunkC.bits (w : ChunkC) : BitVec 59 := w.rop ++ w.ca ++ w.cb ++ w.rk ++ w.rk2 ++ w.n

/-- The fields of the V layout (R315). -/
def chunkVOf (w : Word) : ChunkV :=
  { md := w.extractLsb' 56 3, k := w.extractLsb' 48 8, x := w.extractLsb' 32 16, v := w.extractLsb' 0 32 }

/-- The bits [58:0] of the V layout. -/
def ChunkV.bits (w : ChunkV) : BitVec 59 := w.md ++ w.k ++ w.x ++ w.v

/-- The cell instruction an opcode and its selecting field name (R114), with whether the selecting field holds a named
value and whether the format's own reserved bits are zero; none where the opcode is unassigned. Where the selecting
field names nothing, the form that leaves the fewest fields unused stands in for check 3. -/
def rawCell (w : Word) : Option (Instr × Bool × Bool) :=
  let h := hdrOf w
  match (w.extractLsb' 56 8).toNat with
  | 0x00 => some (.nop h (fmtKOf w), true, rsvK w)
  | 0x01 => some (.endApp h (fmtKOf w), true, rsvK w)
  | 0x02 => some (.cmt h (fmtKOf w), true, rsvK w)
  | 0x03 => some (.br h (fmtKOf w), true, rsvK w)
  | 0x04 => some (.call h (fmtKOf w), true, rsvK w)
  | 0x05 => some (.ret h (fmtKOf w), true, rsvK w)
  | 0x06 => some (.loop h (fmtKOf w), true, rsvK w)
  | 0x07 => some (.sleep h (fmtKOf w), true, rsvK w)
  | 0x08 => some (.trap h (fmtKOf w), true, rsvK w)
  | 0x09 => some (.brk h (fmtKOf w), true, rsvK w)
  | 0x0A => some (.xrd h (fmtIOf w), true, rsvI w)
  | 0x0B => some (.xwr h (fmtIOf w), true, rsvI w)
  | 0x10 => some (.add h (fmtTOf w), true, rsvT w)
  | 0x11 => some (.sub h (fmtTOf w), true, rsvT w)
  | 0x12 => some (.mul h (fmtTOf w), true, rsvT w)
  | 0x13 => some (.mulh h (fmtTOf w), true, rsvT w)
  | 0x14 => some (.div h (fmtTOf w), true, rsvT w)
  | 0x15 => some (.rem h (fmtTOf w), true, rsvT w)
  | 0x16 => some (.andS h (fmtTOf w), true, rsvT w)
  | 0x17 =>
    match (fmtTOf w).fn.toNat with
    | 0 => some (.orS h (fmtTOf w), true, rsvT w)
    | 1 => some (.xorS h (fmtTOf w), true, rsvT w)
    | _ => some (.orS h (fmtTOf w), false, rsvT w)
  | 0x18 => some (.shl h (fmtTOf w), true, rsvT w)
  | 0x19 => some (.shr h (fmtTOf w), true, rsvT w)
  | 0x1A => some (.sra h (fmtTOf w), true, rsvT w)
  | 0x1B => some (.min h (fmtTOf w), true, rsvT w)
  | 0x1C => some (.max h (fmtTOf w), true, rsvT w)
  | 0x1D => some (.cmp h (fmtTOf w), true, rsvT w)
  | 0x1E => some (.sel h (fmtTOf w), true, rsvT w)
  | 0x1F =>
    match (fmtTOf w).fn.toNat with
    | 0 => some (.clz h (fmtTOf w), true, rsvT w)
    | 1 => some (.popc h (fmtTOf w), true, rsvT w)
    | _ => some (.clz h (fmtTOf w), false, rsvT w)
  | 0x20 => some (.addi h (fmtIOf w), true, rsvI w)
  | 0x21 => some (.andi h (fmtIOf w), true, rsvI w)
  | 0x22 => some (.ori h (fmtIOf w), true, rsvI w)
  | 0x23 => some (.xori h (fmtIOf w), true, rsvI w)
  | 0x24 => some (.li h (fmtIOf w), true, rsvI w)
  | 0x25 => some (.shli h (fmtIOf w), true, rsvI w)
  | 0x26 => some (.shri h (fmtIOf w), true, rsvI w)
  | 0x27 => some (.srai h (fmtIOf w), true, rsvI w)
  | 0x28 => some (.cmpi h (fmtIOf w), true, rsvI w)
  | 0x29 => some (.lih h (fmtIOf w), true, rsvI w)
  | 0x2A => some (.mov h (fmtTOf w), true, rsvT w)
  | 0x30 => some (.fadd h (fmtTOf w), true, rsvT w)
  | 0x31 => some (.fsub h (fmtTOf w), true, rsvT w)
  | 0x32 => some (.fmul h (fmtTOf w), true, rsvT w)
  | 0x33 => some (.fma h (fmtTOf w), true, rsvT w)
  | 0x34 => some (.fmin h (fmtTOf w), true, rsvT w)
  | 0x35 => some (.fmax h (fmtTOf w), true, rsvT w)
  | 0x36 => some (.fcmp h (fmtTOf w), true, rsvT w)
  | 0x37 => some (.fcvt h (fmtTOf w), true, rsvT w)
  | 0x38 => some (.fcls h (fmtTOf w), true, rsvT w)
  | 0x40 => some (.vadd h (fmtTOf w), true, rsvT w)
  | 0x41 => some (.vsub h (fmtTOf w), true, rsvT w)
  | 0x42 => some (.vmul h (fmtTOf w), true, rsvT w)
  | 0x43 => some (.vmulh h (fmtTOf w), true, rsvT w)
  | 0x44 => some (.vand h (fmtTOf w), true, rsvT w)
  | 0x45 => some (.vor h (fmtTOf w), true, rsvT w)
  | 0x46 => some (.vxor h (fmtTOf w), true, rsvT w)
  | 0x47 =>
    match (fmtTOf w).fn.toNat with
    | 0 => some (.vshl h (fmtTOf w), true, rsvT w)
    | 1 => some (.vshr h (fmtTOf w), true, rsvT w)
    | _ => some (.vshl h (fmtTOf w), false, rsvT w)
  | 0x48 => some (.vsra h (fmtTOf w), true, rsvT w)
  | 0x49 => some (.vmin h (fmtTOf w), true, rsvT w)
  | 0x4A => some (.vmax h (fmtTOf w), true, rsvT w)
  | 0x4B => some (.vabs h (fmtTOf w), true, rsvT w)
  | 0x4C => some (.vcmp h (fmtTOf w), true, rsvT w)
  | 0x4D => some (.vsel h (fmtTOf w), true, rsvT w)
  | 0x4E => some (.vmac h (fmtTOf w), true, rsvT w)
  | 0x50 => some (.vfadd h (fmtTOf w), true, rsvT w)
  | 0x51 => some (.vfsub h (fmtTOf w), true, rsvT w)
  | 0x52 => some (.vfmul h (fmtTOf w), true, rsvT w)
  | 0x53 => some (.vfma h (fmtTOf w), true, rsvT w)
  | 0x54 => some (.vfmin h (fmtTOf w), true, rsvT w)
  | 0x55 => some (.vfmax h (fmtTOf w), true, rsvT w)
  | 0x56 => some (.vfneg h (fmtTOf w), true, rsvT w)
  | 0x57 => some (.vfcmp h (fmtTOf w), true, rsvT w)
  | 0x58 => some (.vexp2 h (fmtTOf w), true, rsvT w)
  | 0x59 => some (.vlog2 h (fmtTOf w), true, rsvT w)
  | 0x5A => some (.vrcp h (fmtTOf w), true, rsvT w)
  | 0x5B => some (.vrsq h (fmtTOf w), true, rsvT w)
  | 0x5C => some (.vredsum h (fmtTOf w), true, rsvT w)
  | 0x5D => some (.vredmax h (fmtTOf w), true, rsvT w)
  | 0x5E => some (.vscale h (fmtTOf w), true, rsvT w)
  | 0x60 => some (.vcvt h (fmtTOf w), true, rsvT w)
  | 0x61 => some (.vqbx h (fmtTOf w), true, rsvT w)
  | 0x62 => some (.vdqbx h (fmtTOf w), true, rsvT w)
  | 0x63 => some (.vperm h (fmtTOf w), true, rsvT w)
  | 0x64 => some (.vbcast h (fmtTOf w), true, rsvT w)
  | 0x65 => some (.vext h (fmtTOf w), true, rsvT w)
  | 0x66 => some (.vins h (fmtTOf w), true, rsvT w)
  | 0x67 => some (.vzip h (fmtTOf w), true, rsvT w)
  | 0x68 => some (.vunzip h (fmtTOf w), true, rsvT w)
  | 0x69 => some (.vtr4 h (fmtTOf w), true, rsvT w)
  | 0x6A => some (.vshf h (fmtTOf w), true, rsvT w)
  | 0x6B => some (.vpack h (fmtTOf w), true, rsvT w)
  | 0x6C => some (.vunpack h (fmtTOf w), true, rsvT w)
  | 0x70 => some (.kand h (fmtTOf w), true, rsvT w)
  | 0x71 => some (.kor h (fmtTOf w), true, rsvT w)
  | 0x72 => some (.kxor h (fmtTOf w), true, rsvT w)
  | 0x73 => some (.knot h (fmtTOf w), true, rsvT w)
  | 0x74 => some (.kmov h (fmtTOf w), true, rsvT w)
  | 0x75 => some (.kpop h (fmtTOf w), true, rsvT w)
  | 0x76 => some (.kfirst h (fmtTOf w), true, rsvT w)
  | 0x77 => some (.kset h (fmtTOf w), true, rsvT w)
  | 0x80 => some (.ld h (fmtMOf w), true, rsvM w)
  | 0x81 => some (.st h (fmtMOf w), true, rsvM w)
  | 0x82 => some (.lds h (fmtMOf w), true, rsvM w)
  | 0x83 => some (.sts h (fmtMOf w), true, rsvM w)
  | 0x84 => some (.ldg h (fmtMOf w), true, rsvM w)
  | 0x85 => some (.stg h (fmtMOf w), true, rsvM w)
  | 0x86 => some (.ldx h (fmtMOf w), true, rsvM w)
  | 0x87 => some (.stx h (fmtMOf w), true, rsvM w)
  | 0x88 =>
    match (fmtMOf w).pol.toNat with
    | 0 => some (.shpSym h (fmtMOf w), true, rsvM w)
    | 1 => some (.shpVec h (fmtMOf w), true, rsvM w)
    | 2 => some (.shpExt h (fmtMOf w), true, rsvM w)
    | _ => some (.shpSym h (fmtMOf w), false, rsvM w)
  | 0x89 => some (.sadv h (fmtMOf w), true, rsvM w)
  | 0x8A => some (.pfg h (fmtMOf w), true, rsvM w)
  | 0x90 => some (.cpy h (fmtMOf w), true, rsvM w)
  | 0x91 => some (.cpq h (fmtMOf w), true, rsvM w)
  | 0x92 => some (.talloc h (fmtMOf w), true, rsvM w)
  | 0x93 => some (.tfree h (fmtMOf w), true, rsvM w)
  | 0x94 => some (.tshr h (fmtMOf w), true, rsvM w)
  | 0xA0 => some (.bld h (fmtXOf w), true, rsvX w)
  | 0xA1 => some (.bldm h (fmtXOf w), true, rsvX w)
  | 0xA2 => some (.mma h (fmtXOf w), true, rsvX w)
  | 0xA3 => some (.mmt h (fmtXOf w), true, rsvX w)
  | 0xA4 => some (.mzero h (fmtXOf w), true, rsvX w)
  | 0xA5 => some (.mst h (fmtXOf w), true, rsvX w)
  | 0xA6 => some (.mrd h (fmtXOf w), true, rsvX w)
  | 0xA7 => some (.mscl h (fmtXOf w), true, rsvX w)
  | 0xB0 => some (.gld h (fmtGOf w), true, rsvG w)
  | 0xB1 => some (.grel h (fmtGOf w), true, rsvG w)
  | 0xB2 => some (.gbind h (fmtGOf w), true, rsvG w)
  | 0xB3 => some (.gstr h (fmtGOf w), true, rsvG w)
  | 0xB4 => some (.gcol h (fmtGOf w), true, rsvG w)
  | 0xB5 => some (.gctx h (fmtGOf w), true, rsvG w)
  | 0xB6 => some (.gfrz h (fmtGOf w), true, rsvG w)
  | 0xB7 => some (.gthaw h (fmtGOf w), true, rsvG w)
  | 0xB8 => some (.gqry h (fmtGOf w), true, rsvG w)
  | 0xC0 => some (.fence h (fmtFOf w), true, rsvF w)
  | 0xC1 => some (.sbar h (fmtFOf w), true, rsvF w)
  | 0xC2 => some (.atom h (fmtAOf w), true, rsvA w)
  | 0xC3 => some (.brinit h (fmtAOf w), true, rsvA w)
  | 0xC4 => some (.brarr h (fmtAOf w), true, rsvA w)
  | 0xC5 => some (.brdrop h (fmtAOf w), true, rsvA w)
  | 0xC6 => some (.brexp h (fmtAOf w), true, rsvA w)
  | 0xC7 => some (.brwait h (fmtAOf w), true, rsvA w)
  | 0xC8 => some (.brtest h (fmtAOf w), true, rsvA w)
  | 0xC9 => some (.flwait h (fmtAOf w), true, rsvA w)
  | 0xCA => some (.flset h (fmtAOf w), true, rsvA w)
  | 0xD0 => some (.syrd h (fmtSOf w), true, rsvS w)
  | 0xD1 => some (.emit h (fmtSOf w), true, rsvS w)
  | 0xD2 => some (.emitt h (fmtSOf w), true, rsvS w)
  | 0xD3 => some (.abc h (fmtSOf w), true, rsvS w)
  | 0xD4 => some (.ard h (fmtSOf w), true, rsvS w)
  | 0xD5 => some (.ascn h (fmtSOf w), true, rsvS w)
  | 0xD6 => some (.asnd h (fmtSOf w), true, rsvS w)
  | 0xD7 => some (.arcv h (fmtSOf w), true, rsvS w)
  | 0xD8 => some (.nbr h (fmtSOf w), true, rsvS w)
  | 0xD9 => some (.tok h (fmtSOf w), true, rsvS w)
  | 0xDA => some (.opnd h (fmtSOf w), true, rsvS w)
  | 0xE0 => some (.rlload h (fmtEOf w), true, rsvE w)
  | 0xE1 => some (.rlgo h (fmtEOf w), true, rsvE w)
  | 0xE2 => some (.rlpost h (fmtEOf w), true, rsvE w)
  | 0xE3 => some (.rlstat h (fmtEOf w), true, rsvE w)
  | 0xF0 => some (.xwrp h (fmtIOf w), true, rsvI w)
  | 0xF1 =>
    match (fmtAOf w).aop.toNat with
    | 0 => some (.tlbiPage h (fmtAOf w), true, rsvA w)
    | 1 => some (.tlbiRange h (fmtAOf w), true, rsvA w)
    | 2 => some (.tlbiAsid h (fmtAOf w), true, rsvA w)
    | _ => some (.tlbiRange h (fmtAOf w), false, rsvA w)
  | 0xF2 => some (.ptst h (fmtAOf w), true, rsvA w)
  | 0xF3 =>
    match (fmtAOf w).aop.toNat with
    | 0 => some (.fltdoneOk h (fmtAOf w), true, rsvA w)
    | 1 => some (.fltdoneFail h (fmtAOf w), true, rsvA w)
    | 2 => some (.fltdoneIrq h (fmtAOf w), true, rsvA w)
    | _ => some (.fltdoneIrq h (fmtAOf w), false, rsvA w)
  | 0xF4 => some (.asret h (fmtAOf w), true, rsvA w)
  | 0xF5 =>
    match (fmtAOf w).aop.toNat with
    | 0 => some (.ctxsvSave h (fmtAOf w), true, rsvA w)
    | 1 => some (.ctxsvForce h (fmtAOf w), true, rsvA w)
    | 2 => some (.ctxsvResume h (fmtAOf w), true, rsvA w)
    | 3 => some (.ctxsvKill h (fmtAOf w), true, rsvA w)
    | _ => some (.ctxsvSave h (fmtAOf w), false, rsvA w)
  | _ => none

/-- How a microprogram sees a special register (R96): read-only, writable by `xwr`, writable by `xwrp` only, hidden, or
not there. -/
inductive SpView where
  | readOnly
  | readWrite
  | xwrpOnly
  | hidden
  | reserved
  deriving DecidableEq, Repr

/-- The view of a special-register number in a privileged or unprivileged microprogram (R96). -/
def spView (priv : Bool) (n : Nat) : SpView :=
  if n ≤ 0x008 || (0x00D ≤ n && n ≤ 0x010) then .readOnly
  else if n ≤ 0x00C then .readWrite
  else if n = 0x100 || n = 0x102 then (if priv then .xwrpOnly else .hidden)
  else if n = 0x101 then (if priv then .readOnly else .hidden)
  else .reserved

/-- Check 5 of R113: the special-register number against the access made (R96, R349). -/
def spCheck (priv : Bool) : Instr → Option Illegal
  | .xrd _ f =>
    match spView priv (f.imm.toNat % 4096) with
    | .hidden => some .privreg
    | .reserved => some .rsvval
    | _ => none
  | .xwr _ f =>
    match spView priv (f.imm.toNat % 4096) with
    | .hidden => some .privreg
    | .readWrite => none
    | _ => some .rsvval
  | .xwrp _ f =>
    match spView priv (f.imm.toNat % 4096) with
    | .hidden => some .privreg
    | .readWrite => none
    | .xwrpOnly => none
    | _ => some .rsvval
  | _ => none

/-- Decoding a cell instruction word in a privileged or unprivileged microprogram: checks 1 to 5 of R113 in order. -/
def decodeCell (priv : Bool) (w : Word) : Except Illegal Instr :=
  match rawCell w with
  | none => .error .unassigned
  | some (i, named, rsv) =>
    if !priv && decide (0xF0 ≤ (w.extractLsb' 56 8).toNat) then .error .privop
    else if !(rsv && i.unusedZero) then .error .rsvbits
    else if !(named && i.valuesOk) then .error .rsvval
    else
      match spCheck priv i with
      | some e => .error e
      | none => .ok i

/-- The chunk instruction a `cop` names (R315); none for the reserved codes. -/
def rawChunk (w : Word) : Option Instr :=
  match (w.extractLsb' 59 5).toNat with
  | 0 => some (.reelNop (chunkCOf w))
  | 1 => some (.reelEnd (chunkCOf w))
  | 2 => some (.send (chunkCOf w))
  | 3 => some (.recv (chunkCOf w))
  | 4 => some (.rrc (chunkCOf w))
  | 5 => some (.red (chunkCOf w))
  | 6 => some (.redany (chunkCOf w))
  | 7 => some (.ccpy (chunkCOf w))
  | 8 => some (.xf (chunkCOf w))
  | 9 => some (.lflag (chunkVOf w))
  | 10 => some (.sig (chunkVOf w))
  | 11 => some (.cwait (chunkVOf w))
  | 12 => some (.setc (chunkVOf w))
  | 13 => some (.decb (chunkVOf w))
  | 14 => some (.seqb (chunkVOf w))
  | 15 => some (.mark (chunkVOf w))
  | _ => none

/-- Decoding a chunk instruction word (R315): none for a reserved code, a nonzero unused field or a broken limit. -/
def decodeChunk (w : Word) : Option Instr :=
  match rawChunk w with
  | none => none
  | some i => if i.wf then some i else none

/-- The opcode of a cell instruction (R114); 0 for what is not a cell instruction. -/
def Instr.opcode : Instr → Nat
  | .nop _ _ => 0x00
  | .endApp _ _ => 0x01
  | .cmt _ _ => 0x02
  | .br _ _ => 0x03
  | .call _ _ => 0x04
  | .ret _ _ => 0x05
  | .loop _ _ => 0x06
  | .sleep _ _ => 0x07
  | .trap _ _ => 0x08
  | .brk _ _ => 0x09
  | .xrd _ _ => 0x0A
  | .xwr _ _ => 0x0B
  | .add _ _ => 0x10
  | .sub _ _ => 0x11
  | .mul _ _ => 0x12
  | .mulh _ _ => 0x13
  | .div _ _ => 0x14
  | .rem _ _ => 0x15
  | .andS _ _ => 0x16
  | .orS _ _ => 0x17
  | .xorS _ _ => 0x17
  | .shl _ _ => 0x18
  | .shr _ _ => 0x19
  | .sra _ _ => 0x1A
  | .min _ _ => 0x1B
  | .max _ _ => 0x1C
  | .cmp _ _ => 0x1D
  | .sel _ _ => 0x1E
  | .clz _ _ => 0x1F
  | .popc _ _ => 0x1F
  | .addi _ _ => 0x20
  | .andi _ _ => 0x21
  | .ori _ _ => 0x22
  | .xori _ _ => 0x23
  | .li _ _ => 0x24
  | .shli _ _ => 0x25
  | .shri _ _ => 0x26
  | .srai _ _ => 0x27
  | .cmpi _ _ => 0x28
  | .lih _ _ => 0x29
  | .mov _ _ => 0x2A
  | .fadd _ _ => 0x30
  | .fsub _ _ => 0x31
  | .fmul _ _ => 0x32
  | .fma _ _ => 0x33
  | .fmin _ _ => 0x34
  | .fmax _ _ => 0x35
  | .fcmp _ _ => 0x36
  | .fcvt _ _ => 0x37
  | .fcls _ _ => 0x38
  | .vadd _ _ => 0x40
  | .vsub _ _ => 0x41
  | .vmul _ _ => 0x42
  | .vmulh _ _ => 0x43
  | .vand _ _ => 0x44
  | .vor _ _ => 0x45
  | .vxor _ _ => 0x46
  | .vshl _ _ => 0x47
  | .vshr _ _ => 0x47
  | .vsra _ _ => 0x48
  | .vmin _ _ => 0x49
  | .vmax _ _ => 0x4A
  | .vabs _ _ => 0x4B
  | .vcmp _ _ => 0x4C
  | .vsel _ _ => 0x4D
  | .vmac _ _ => 0x4E
  | .vfadd _ _ => 0x50
  | .vfsub _ _ => 0x51
  | .vfmul _ _ => 0x52
  | .vfma _ _ => 0x53
  | .vfmin _ _ => 0x54
  | .vfmax _ _ => 0x55
  | .vfneg _ _ => 0x56
  | .vfcmp _ _ => 0x57
  | .vexp2 _ _ => 0x58
  | .vlog2 _ _ => 0x59
  | .vrcp _ _ => 0x5A
  | .vrsq _ _ => 0x5B
  | .vredsum _ _ => 0x5C
  | .vredmax _ _ => 0x5D
  | .vscale _ _ => 0x5E
  | .vcvt _ _ => 0x60
  | .vqbx _ _ => 0x61
  | .vdqbx _ _ => 0x62
  | .vperm _ _ => 0x63
  | .vbcast _ _ => 0x64
  | .vext _ _ => 0x65
  | .vins _ _ => 0x66
  | .vzip _ _ => 0x67
  | .vunzip _ _ => 0x68
  | .vtr4 _ _ => 0x69
  | .vshf _ _ => 0x6A
  | .vpack _ _ => 0x6B
  | .vunpack _ _ => 0x6C
  | .kand _ _ => 0x70
  | .kor _ _ => 0x71
  | .kxor _ _ => 0x72
  | .knot _ _ => 0x73
  | .kmov _ _ => 0x74
  | .kpop _ _ => 0x75
  | .kfirst _ _ => 0x76
  | .kset _ _ => 0x77
  | .ld _ _ => 0x80
  | .st _ _ => 0x81
  | .lds _ _ => 0x82
  | .sts _ _ => 0x83
  | .ldg _ _ => 0x84
  | .stg _ _ => 0x85
  | .ldx _ _ => 0x86
  | .stx _ _ => 0x87
  | .shpSym _ _ => 0x88
  | .shpVec _ _ => 0x88
  | .shpExt _ _ => 0x88
  | .sadv _ _ => 0x89
  | .pfg _ _ => 0x8A
  | .cpy _ _ => 0x90
  | .cpq _ _ => 0x91
  | .talloc _ _ => 0x92
  | .tfree _ _ => 0x93
  | .tshr _ _ => 0x94
  | .bld _ _ => 0xA0
  | .bldm _ _ => 0xA1
  | .mma _ _ => 0xA2
  | .mmt _ _ => 0xA3
  | .mzero _ _ => 0xA4
  | .mst _ _ => 0xA5
  | .mrd _ _ => 0xA6
  | .mscl _ _ => 0xA7
  | .gld _ _ => 0xB0
  | .grel _ _ => 0xB1
  | .gbind _ _ => 0xB2
  | .gstr _ _ => 0xB3
  | .gcol _ _ => 0xB4
  | .gctx _ _ => 0xB5
  | .gfrz _ _ => 0xB6
  | .gthaw _ _ => 0xB7
  | .gqry _ _ => 0xB8
  | .fence _ _ => 0xC0
  | .sbar _ _ => 0xC1
  | .atom _ _ => 0xC2
  | .brinit _ _ => 0xC3
  | .brarr _ _ => 0xC4
  | .brdrop _ _ => 0xC5
  | .brexp _ _ => 0xC6
  | .brwait _ _ => 0xC7
  | .brtest _ _ => 0xC8
  | .flwait _ _ => 0xC9
  | .flset _ _ => 0xCA
  | .syrd _ _ => 0xD0
  | .emit _ _ => 0xD1
  | .emitt _ _ => 0xD2
  | .abc _ _ => 0xD3
  | .ard _ _ => 0xD4
  | .ascn _ _ => 0xD5
  | .asnd _ _ => 0xD6
  | .arcv _ _ => 0xD7
  | .nbr _ _ => 0xD8
  | .tok _ _ => 0xD9
  | .opnd _ _ => 0xDA
  | .rlload _ _ => 0xE0
  | .rlgo _ _ => 0xE1
  | .rlpost _ _ => 0xE2
  | .rlstat _ _ => 0xE3
  | .xwrp _ _ => 0xF0
  | .tlbiPage _ _ => 0xF1
  | .tlbiRange _ _ => 0xF1
  | .tlbiAsid _ _ => 0xF1
  | .ptst _ _ => 0xF2
  | .fltdoneOk _ _ => 0xF3
  | .fltdoneFail _ _ => 0xF3
  | .fltdoneIrq _ _ => 0xF3
  | .asret _ _ => 0xF4
  | .ctxsvSave _ _ => 0xF5
  | .ctxsvForce _ _ => 0xF5
  | .ctxsvResume _ _ => 0xF5
  | .ctxsvKill _ _ => 0xF5
  | _ => 0

/-- The `cop` of a chunk instruction (R315). -/
def Instr.cop : Instr → Nat
  | .reelNop _ => 0
  | .reelEnd _ => 1
  | .send _ => 2
  | .recv _ => 3
  | .rrc _ => 4
  | .red _ => 5
  | .redany _ => 6
  | .ccpy _ => 7
  | .xf _ => 8
  | .lflag _ => 9
  | .sig _ => 10
  | .cwait _ => 11
  | .setc _ => 12
  | .decb _ => 13
  | .seqb _ => 14
  | .mark _ => 15
  | _ => 0

/-- A cell word from its opcode, header and format bits (R108). -/
def cellWord (op : Nat) (h : Hdr) (f : BitVec 44) : Word := BitVec.ofNat 8 op ++ h.bits ++ f

/-- A chunk word from its `cop` and layout bits (R315). -/
def chunkWord (cop : Nat) (f : BitVec 59) : Word := BitVec.ofNat 5 cop ++ f

/-- The encoder: the word of a cell or chunk instruction. Host accesses and events have no word. -/
def encode (i : Instr) : Option Word :=
  match i with
  | .queueSlotWrite _ _ _ _ _ => none
  | .launchCommit _ _ _ _ _ => none
  | .qstatErrvClear _ _ => none
  | .queueFlush _ _ => none
  | .semaphoreClaim _ _ => none
  | .semaphoreRelease _ _ => none
  | .semaphoreForceRelease _ _ => none
  | .asidBind _ _ => none
  | .ctxkill _ _ => none
  | .errlogClear _ => none
  | .pcapWrite _ _ => none
  | .attestationRequest _ => none
  | .msixUnmask _ _ => none
  | .registerWrite _ _ _ => none
  | .microprogramBroadcast _ _ => none
  | .bridleEvaluation _ => none
  | .asyncCompletion _ _ => none
  | .copyBurstLand _ _ _ => none
  | .copyComplete _ _ => none
  | .multicastRowMove _ _ _ => none
  | .multicastRowLand _ _ _ => none
  | .channelMessageDelivery _ _ => none
  | .clearToSendArrival _ => none
  | .chunkMessageArrival _ => none
  | .acknowledgementArrival _ => none
  | .signalArrival _ => none
  | .abortArrival _ => none
  | .linkRetrain _ _ => none
  | .correctedError _ _ _ => none
  | .uncorrectableError _ => none
  | .pciExpressPortReset _ => none
  | .inboundPortWrite _ _ _ => none
  | .peerInboundRequest _ => none
  | .performQueueHead _ _ => none
  | .dynamicAddressAssignment _ => none
  | .attestationReportReady => none
  | .headChecks => none
  | .holdRelease => none
  | .imageFetch => none
  | .strandGrant => none
  | .sweepP => none
  | .joinedSweepStart => none
  | .hubCacheFetch => none
  | .lClose => none
  | .areaStart => none
  | .abortContextStop => none
  | .storagePhase => none
  | .shiftComplete => none
  | .compaction => none
  | .compactionMoveDone => none
  | .allocatorPreemptionTimeout => none
  | .commit => none
  | .trapAtRoot => none
  | .areaStall => none
  | .tableWalk => none
  | .confirmingWalk => none
  | .sampleReport => none
  | .watchFire => none
  | .sleepExpiry => none
  | .graphStep => none
  | .quantumExpiry => none
  | .planeIdleTimeout => none
  | .planeSwitchDone => none
  | .linkRefusal => none
  | .portReset => none
  | .portUpResend => none
  | .flitCrcRetry => none
  | .cellRetirement => none
  | .powerStepRise => none
  | .powerStepFall => none
  | .thermalStepRise => none
  | .thermalStepFall => none
  | .thermalTrip => none
  | .coldStart => none
  | .gracePeriodExpiry => none
  | .preemptionCut => none
  | .preemptionSaveWrite => none
  | .terminationFirstSample => none
  | .terminationSecondSample => none
  | .propagateWrite => none
  | .asidBindDone => none
  | .nop h f => some (cellWord 0x00 h f.bits)
  | .endApp h f => some (cellWord 0x01 h f.bits)
  | .cmt h f => some (cellWord 0x02 h f.bits)
  | .br h f => some (cellWord 0x03 h f.bits)
  | .call h f => some (cellWord 0x04 h f.bits)
  | .ret h f => some (cellWord 0x05 h f.bits)
  | .loop h f => some (cellWord 0x06 h f.bits)
  | .sleep h f => some (cellWord 0x07 h f.bits)
  | .trap h f => some (cellWord 0x08 h f.bits)
  | .brk h f => some (cellWord 0x09 h f.bits)
  | .xrd h f => some (cellWord 0x0A h f.bits)
  | .xwr h f => some (cellWord 0x0B h f.bits)
  | .add h f => some (cellWord 0x10 h f.bits)
  | .sub h f => some (cellWord 0x11 h f.bits)
  | .mul h f => some (cellWord 0x12 h f.bits)
  | .mulh h f => some (cellWord 0x13 h f.bits)
  | .div h f => some (cellWord 0x14 h f.bits)
  | .rem h f => some (cellWord 0x15 h f.bits)
  | .andS h f => some (cellWord 0x16 h f.bits)
  | .orS h f => some (cellWord 0x17 h f.bits)
  | .xorS h f => some (cellWord 0x17 h f.bits)
  | .shl h f => some (cellWord 0x18 h f.bits)
  | .shr h f => some (cellWord 0x19 h f.bits)
  | .sra h f => some (cellWord 0x1A h f.bits)
  | .min h f => some (cellWord 0x1B h f.bits)
  | .max h f => some (cellWord 0x1C h f.bits)
  | .cmp h f => some (cellWord 0x1D h f.bits)
  | .sel h f => some (cellWord 0x1E h f.bits)
  | .clz h f => some (cellWord 0x1F h f.bits)
  | .popc h f => some (cellWord 0x1F h f.bits)
  | .addi h f => some (cellWord 0x20 h f.bits)
  | .andi h f => some (cellWord 0x21 h f.bits)
  | .ori h f => some (cellWord 0x22 h f.bits)
  | .xori h f => some (cellWord 0x23 h f.bits)
  | .li h f => some (cellWord 0x24 h f.bits)
  | .shli h f => some (cellWord 0x25 h f.bits)
  | .shri h f => some (cellWord 0x26 h f.bits)
  | .srai h f => some (cellWord 0x27 h f.bits)
  | .cmpi h f => some (cellWord 0x28 h f.bits)
  | .lih h f => some (cellWord 0x29 h f.bits)
  | .mov h f => some (cellWord 0x2A h f.bits)
  | .fadd h f => some (cellWord 0x30 h f.bits)
  | .fsub h f => some (cellWord 0x31 h f.bits)
  | .fmul h f => some (cellWord 0x32 h f.bits)
  | .fma h f => some (cellWord 0x33 h f.bits)
  | .fmin h f => some (cellWord 0x34 h f.bits)
  | .fmax h f => some (cellWord 0x35 h f.bits)
  | .fcmp h f => some (cellWord 0x36 h f.bits)
  | .fcvt h f => some (cellWord 0x37 h f.bits)
  | .fcls h f => some (cellWord 0x38 h f.bits)
  | .vadd h f => some (cellWord 0x40 h f.bits)
  | .vsub h f => some (cellWord 0x41 h f.bits)
  | .vmul h f => some (cellWord 0x42 h f.bits)
  | .vmulh h f => some (cellWord 0x43 h f.bits)
  | .vand h f => some (cellWord 0x44 h f.bits)
  | .vor h f => some (cellWord 0x45 h f.bits)
  | .vxor h f => some (cellWord 0x46 h f.bits)
  | .vshl h f => some (cellWord 0x47 h f.bits)
  | .vshr h f => some (cellWord 0x47 h f.bits)
  | .vsra h f => some (cellWord 0x48 h f.bits)
  | .vmin h f => some (cellWord 0x49 h f.bits)
  | .vmax h f => some (cellWord 0x4A h f.bits)
  | .vabs h f => some (cellWord 0x4B h f.bits)
  | .vcmp h f => some (cellWord 0x4C h f.bits)
  | .vsel h f => some (cellWord 0x4D h f.bits)
  | .vmac h f => some (cellWord 0x4E h f.bits)
  | .vfadd h f => some (cellWord 0x50 h f.bits)
  | .vfsub h f => some (cellWord 0x51 h f.bits)
  | .vfmul h f => some (cellWord 0x52 h f.bits)
  | .vfma h f => some (cellWord 0x53 h f.bits)
  | .vfmin h f => some (cellWord 0x54 h f.bits)
  | .vfmax h f => some (cellWord 0x55 h f.bits)
  | .vfneg h f => some (cellWord 0x56 h f.bits)
  | .vfcmp h f => some (cellWord 0x57 h f.bits)
  | .vexp2 h f => some (cellWord 0x58 h f.bits)
  | .vlog2 h f => some (cellWord 0x59 h f.bits)
  | .vrcp h f => some (cellWord 0x5A h f.bits)
  | .vrsq h f => some (cellWord 0x5B h f.bits)
  | .vredsum h f => some (cellWord 0x5C h f.bits)
  | .vredmax h f => some (cellWord 0x5D h f.bits)
  | .vscale h f => some (cellWord 0x5E h f.bits)
  | .vcvt h f => some (cellWord 0x60 h f.bits)
  | .vqbx h f => some (cellWord 0x61 h f.bits)
  | .vdqbx h f => some (cellWord 0x62 h f.bits)
  | .vperm h f => some (cellWord 0x63 h f.bits)
  | .vbcast h f => some (cellWord 0x64 h f.bits)
  | .vext h f => some (cellWord 0x65 h f.bits)
  | .vins h f => some (cellWord 0x66 h f.bits)
  | .vzip h f => some (cellWord 0x67 h f.bits)
  | .vunzip h f => some (cellWord 0x68 h f.bits)
  | .vtr4 h f => some (cellWord 0x69 h f.bits)
  | .vshf h f => some (cellWord 0x6A h f.bits)
  | .vpack h f => some (cellWord 0x6B h f.bits)
  | .vunpack h f => some (cellWord 0x6C h f.bits)
  | .kand h f => some (cellWord 0x70 h f.bits)
  | .kor h f => some (cellWord 0x71 h f.bits)
  | .kxor h f => some (cellWord 0x72 h f.bits)
  | .knot h f => some (cellWord 0x73 h f.bits)
  | .kmov h f => some (cellWord 0x74 h f.bits)
  | .kpop h f => some (cellWord 0x75 h f.bits)
  | .kfirst h f => some (cellWord 0x76 h f.bits)
  | .kset h f => some (cellWord 0x77 h f.bits)
  | .ld h f => some (cellWord 0x80 h f.bits)
  | .st h f => some (cellWord 0x81 h f.bits)
  | .lds h f => some (cellWord 0x82 h f.bits)
  | .sts h f => some (cellWord 0x83 h f.bits)
  | .ldg h f => some (cellWord 0x84 h f.bits)
  | .stg h f => some (cellWord 0x85 h f.bits)
  | .ldx h f => some (cellWord 0x86 h f.bits)
  | .stx h f => some (cellWord 0x87 h f.bits)
  | .shpSym h f => some (cellWord 0x88 h f.bits)
  | .shpVec h f => some (cellWord 0x88 h f.bits)
  | .shpExt h f => some (cellWord 0x88 h f.bits)
  | .sadv h f => some (cellWord 0x89 h f.bits)
  | .pfg h f => some (cellWord 0x8A h f.bits)
  | .cpy h f => some (cellWord 0x90 h f.bits)
  | .cpq h f => some (cellWord 0x91 h f.bits)
  | .talloc h f => some (cellWord 0x92 h f.bits)
  | .tfree h f => some (cellWord 0x93 h f.bits)
  | .tshr h f => some (cellWord 0x94 h f.bits)
  | .bld h f => some (cellWord 0xA0 h f.bits)
  | .bldm h f => some (cellWord 0xA1 h f.bits)
  | .mma h f => some (cellWord 0xA2 h f.bits)
  | .mmt h f => some (cellWord 0xA3 h f.bits)
  | .mzero h f => some (cellWord 0xA4 h f.bits)
  | .mst h f => some (cellWord 0xA5 h f.bits)
  | .mrd h f => some (cellWord 0xA6 h f.bits)
  | .mscl h f => some (cellWord 0xA7 h f.bits)
  | .gld h f => some (cellWord 0xB0 h f.bits)
  | .grel h f => some (cellWord 0xB1 h f.bits)
  | .gbind h f => some (cellWord 0xB2 h f.bits)
  | .gstr h f => some (cellWord 0xB3 h f.bits)
  | .gcol h f => some (cellWord 0xB4 h f.bits)
  | .gctx h f => some (cellWord 0xB5 h f.bits)
  | .gfrz h f => some (cellWord 0xB6 h f.bits)
  | .gthaw h f => some (cellWord 0xB7 h f.bits)
  | .gqry h f => some (cellWord 0xB8 h f.bits)
  | .fence h f => some (cellWord 0xC0 h f.bits)
  | .sbar h f => some (cellWord 0xC1 h f.bits)
  | .atom h f => some (cellWord 0xC2 h f.bits)
  | .brinit h f => some (cellWord 0xC3 h f.bits)
  | .brarr h f => some (cellWord 0xC4 h f.bits)
  | .brdrop h f => some (cellWord 0xC5 h f.bits)
  | .brexp h f => some (cellWord 0xC6 h f.bits)
  | .brwait h f => some (cellWord 0xC7 h f.bits)
  | .brtest h f => some (cellWord 0xC8 h f.bits)
  | .flwait h f => some (cellWord 0xC9 h f.bits)
  | .flset h f => some (cellWord 0xCA h f.bits)
  | .syrd h f => some (cellWord 0xD0 h f.bits)
  | .emit h f => some (cellWord 0xD1 h f.bits)
  | .emitt h f => some (cellWord 0xD2 h f.bits)
  | .abc h f => some (cellWord 0xD3 h f.bits)
  | .ard h f => some (cellWord 0xD4 h f.bits)
  | .ascn h f => some (cellWord 0xD5 h f.bits)
  | .asnd h f => some (cellWord 0xD6 h f.bits)
  | .arcv h f => some (cellWord 0xD7 h f.bits)
  | .nbr h f => some (cellWord 0xD8 h f.bits)
  | .tok h f => some (cellWord 0xD9 h f.bits)
  | .opnd h f => some (cellWord 0xDA h f.bits)
  | .rlload h f => some (cellWord 0xE0 h f.bits)
  | .rlgo h f => some (cellWord 0xE1 h f.bits)
  | .rlpost h f => some (cellWord 0xE2 h f.bits)
  | .rlstat h f => some (cellWord 0xE3 h f.bits)
  | .xwrp h f => some (cellWord 0xF0 h f.bits)
  | .tlbiPage h f => some (cellWord 0xF1 h f.bits)
  | .tlbiRange h f => some (cellWord 0xF1 h f.bits)
  | .tlbiAsid h f => some (cellWord 0xF1 h f.bits)
  | .ptst h f => some (cellWord 0xF2 h f.bits)
  | .fltdoneOk h f => some (cellWord 0xF3 h f.bits)
  | .fltdoneFail h f => some (cellWord 0xF3 h f.bits)
  | .fltdoneIrq h f => some (cellWord 0xF3 h f.bits)
  | .asret h f => some (cellWord 0xF4 h f.bits)
  | .ctxsvSave h f => some (cellWord 0xF5 h f.bits)
  | .ctxsvForce h f => some (cellWord 0xF5 h f.bits)
  | .ctxsvResume h f => some (cellWord 0xF5 h f.bits)
  | .ctxsvKill h f => some (cellWord 0xF5 h f.bits)
  | .reelNop w => some (chunkWord 0 w.bits)
  | .reelEnd w => some (chunkWord 1 w.bits)
  | .send w => some (chunkWord 2 w.bits)
  | .recv w => some (chunkWord 3 w.bits)
  | .rrc w => some (chunkWord 4 w.bits)
  | .red w => some (chunkWord 5 w.bits)
  | .redany w => some (chunkWord 6 w.bits)
  | .ccpy w => some (chunkWord 7 w.bits)
  | .xf w => some (chunkWord 8 w.bits)
  | .lflag w => some (chunkWord 9 w.bits)
  | .sig w => some (chunkWord 10 w.bits)
  | .cwait w => some (chunkWord 11 w.bits)
  | .setc w => some (chunkWord 12 w.bits)
  | .decb w => some (chunkWord 13 w.bits)
  | .seqb w => some (chunkWord 14 w.bits)
  | .mark w => some (chunkWord 15 w.bits)

/-- A selected form names itself: its selecting field holds the value of R114, R176, R348 that stands for it. -/
def Instr.selected : Instr → Bool
  | .orS _ f => f.fn == 0
  | .xorS _ f => f.fn == 1
  | .clz _ f => f.fn == 0
  | .popc _ f => f.fn == 1
  | .vshl _ f => f.fn == 0
  | .vshr _ f => f.fn == 1
  | .shpSym _ f => f.pol == 0
  | .shpVec _ f => f.pol == 1
  | .shpExt _ f => f.pol == 2
  | .tlbiPage _ f => f.aop == 0
  | .tlbiRange _ f => f.aop == 1
  | .tlbiAsid _ f => f.aop == 2
  | .fltdoneOk _ f => f.aop == 0
  | .fltdoneFail _ f => f.aop == 1
  | .fltdoneIrq _ f => f.aop == 2
  | .ctxsvSave _ f => f.aop == 0
  | .ctxsvForce _ f => f.aop == 1
  | .ctxsvResume _ f => f.aop == 2
  | .ctxsvKill _ f => f.aop == 3
  | _ => true

/-- Eight little-endian bytes as a word (R2); missing bytes are zero. -/
def wordOfBytes : List Byte → Nat
  | [] => 0
  | b :: bs => b.toNat + 256 * wordOfBytes bs

/-- Decoding from the bytes of a program (total): the cell instruction at the head and the bytes after it. A run of
fewer than eight bytes holds no instruction. -/
def decodeBytes (priv : Bool) (bs : List Byte) : Option (Except Illegal Instr × List Byte) :=
  if bs.length < 8 then none
  else some (decodeCell priv (BitVec.ofNat 64 (wordOfBytes (bs.take 8))), bs.drop 8)

/-- The instruction read from an instruction whose bits are `w` (bit 0 the least significant of the word): the cell
instruction of a privileged microprogram, or, where the word is none, the chunk instruction. -/
def decodeTableWord (nbits w : Nat) : Option Instr :=
  if 64 < nbits then none
  else
    match decodeCell true (BitVec.ofNat 64 w) with
    | .ok i => some i
    | .error _ => decodeChunk (BitVec.ofNat 64 w)

end Sys2Proof
end

