-- ==== Sys2Proof/Machine/Blank.lean ====
section
/-! DEFINITION. The value of every indexed piece of state before anything has written it: the defaults of the sparse
tables. A register starts as the tables of R94, R96 and the register maps give; where the spec gives no reset value
the model's is named in assumption 6. -/

namespace Sys2Proof.Machine

open Sys2Proof

/-- The start value of a vector register (R94). -/
def VecVal.zero : VecVal := { bits := 0, side := 0 }

/-- The start value of an accumulator (R94): zero, type INT32. -/
def Acc.zero : Acc := { fp := false, el := [] }

/-- The start value of a bank (R94): zero, type code 0. -/
def Bank.zero : Bank := { ty := 0, col := [], hdr := [] }

/-- A record with no dimensions: what an invalid stream register holds. -/
def ShapeRec.none : ShapeRec :=
  { base := 0, ety := 0, ndim := 0, baxis := 0, bnd := 0, ts := false, ext := [], str := [], hdr := 0 }

/-- The start value of a stream register (R94): invalid, no shape. -/
def StreamReg.invalid : StreamReg := { valid := false, rc := ShapeRec.none, cur := [], ent := none }

/-- The start state of an application in a cell (R94, R95, R96). -/
def AppCell.start : AppCell :=
  { s := [], v := [], k := [], m := [], b := [], a := [], t := [], rstk := [], pc := 0, out := [],
    fflags := 0, mflags := 0, srseed := 0x5EED0001, trapen := 0, held := 0, ballast := [],
    cmt := false, cmtReq := false, force := false, ended := false, sleep := none, trap := none, fault := none,
    stopped := false, marks := [], cstat := [], tasid := 0, frec := 0, ctxsel := 0, ncoll := 0, nmc := [],
    recvq := [], outq := [] }

/-- A bridle slot that no `brinit` has named. -/
def Bridle.blank : Bridle :=
  { phase := false, fault := false, apend := 0, areset := 0, bpend := 0, upd := [], once := false, wait := [], area := none }

/-- An empty cell. -/
def Cell.blank : Cell :=
  { slots := [], retired := false, marked := false, ts := [], bad := [], tiles := [], bridles := [], cache := [],
    serve := [], pend := [], done := [], errs := [], due := false }

/-- No area. -/
def Area.blank : Area :=
  { live := false, desc := 0, opid := 0, parm := 0, sys := false, priv := false, bays := [], cells := [],
    first := 0, last := 0, syms := [], opPos := 0, opLen := 0, dfr := 0, cls := 0, birth := 0, urg := false,
    slotb := 0, tileb := 0, ncode := 0, liveMask := 0, decls := [], missed := [], phase := .over, cmt := false,
    fate := .none, apps := [], colls := [], collN := 0, joins := [], bufs := [], moved := 0 }

/-- An empty TLB. -/
def Tlb.blank : Tlb := { ents := [], plru := [] }

/-- A bay at its P boundary with nothing to do (R75). -/
def Bay.blank : Bay :=
  { phase := .boundary, join := [], mark := [], lopen := 0, due := false, fresh := false, fences := [], held := false, lastP := 0, pcount := 0,
    lines := [], counts := [], sampled := 0, tlb := Tlb.blank, shapes := [] }

/-- A launch queue at reset (R59). -/
def Queue.blank : Queue :=
  { en := false, dlo := 0, dhi := 0, vec := 0, pc := 0, cc := 0, ecause := 0, errv := false, bytes := [], seqs := [],
    expect := none, head := none, stage := .none, image := none, since := 0, ifail := false, flushTo := none, entered := [], watching := [], retired := [] }

/-- A free semaphore (R57). -/
def Sem.blank : Sem := { rid := 0, port := .A, held := false }

/-- A descriptor at module reset (R66): no ASID bound. -/
def Desc.blank : Desc :=
  { ptroot := 0, basid := 0xFFFF, valid := false, signed := false, live := false, pceil := 0, maxstr := 0,
    spbase := 0, spsize := 0, envbase := 0, envsize := 0, keyid := 0, keyaddr := 0 }

/-- No context. -/
def Ctx.blank : Ctx :=
  { live := false, launch := none, image := none, gen := 0, prio := 0, start := 0, len := 0, placed := 0,
    cstart := 0, tids := [], detached := [], compl := [], told := [], normal := [], rtail := 0, spills := [], restoring := false, etnext := 0,
    stop := none, stopped := false, estate := 0, kept := none, pre := .none, saved := [], savedA := [], written := [], waitToks := [], esent := 0,
    eland := 0, landing := [], sample := none, ending := .no, grow := none, rfault := false, rowf := none, failed := [], killOp := none }

/-- A free fault-table entry (R343). -/
def FaultEnt.blank : FaultEnt :=
  { live := false, fseq := 0, kind := 0, src := .hub, write := false, lev := 0, desc := 0, asid := 0, gen := 0,
    nw := 0, va := 0, ent := 0, epa := 0, chan := 0, who := [], formed := false }

/-- An unloaded graph handle (R288). -/
def Graph.blank : Graph :=
  { loaded := false, loading := none, fimg := 0, die := 0, plane := 0, sail0 := 0,
    nsail := 0, inFmt := 0, outFmt := 0, nin := 0, nout := 0, lat := 0, hist := 0, nodes := [], scales := [],
    regs := [], pipe := [], inq := [], outq := [], ops := [], frozen := false, parked := false,
    unloaded := false, lost := false, hold := false, bin := StreamReg.invalid, bout := StreamReg.invalid, frz := [] }

/-- A plane sequencer at reset (R278): plane 3 counts as last active, so the first test is of plane 0. -/
def Seqr.blank : Seqr := { plane := 3, idle := true, switch := none, steps := 0, still := 0, quant := 16 }

/-- No progress in the current chunk instruction. -/
def Prog.blank : Prog := { cts := false, head := false, done := 0, taken := 0, data := [], opened := [], fin := [] }

/-- A free reel channel (R310, R334). -/
def Chan.blank : Chan :=
  { bound := none, st := .noProgram, ecode := 0, pc := 0, pcs := 0, rfl := 0, dup := 0, mark := 0, prog := [],
    ranks := [], chunks := [], xfs := [], c := [], tx := [], rx := [], sgc := 0, posted := [], window := [],
    cts := [], aborts := [], prg := Prog.blank, gos := [], run := (0, 0) }

/-- A port's registers at reset (R372). -/
def PortRegs.blank : PortRegs :=
  { eoff := 0, ewin := false, ewr := false, ev := false, eovf := false, msix := false, table := [], pend := [] }

/-- `HUB.ASBIND` and `HUB.CTXKILL` at reset (R67, R355); port A goes first at the first tie (assumption 103). -/
def HubRegs.blank : HubRegs :=
  { asid := 0, desc := 0, busy := false, bst := 0, gen := 0, kdesc := 0, kbusy := false, kwho := 0, kst := 0, tie := .A }

/-- The board at reset (R374 to R378): cap 3,200 W enabled, no step, nothing booted. -/
def Board.blank : Board :=
  { cap := 3200, pen := true, pstep := 0, tstep := 0, tripped := false, trip := false, boot := 0, recovery := false,
    opened := false, maryon := none, accel := 0, flash := [], fkeys := [], fsvn := 0, fseed := 0, retireMap := [],
    attest := [], nrep := 0, mdig := 0, cdigs := [], mkeys := [], portUp := [], bootDown := [], retries := [],
    elogN := 0, softC := 0, softU := 0, lastW := 0, lastHot := 0, dies := [], plate := 0 }

end Sys2Proof.Machine
end

