-- ==== Sys2Proof/Machine/State.lean ====
section
/-! DEFINITION. The state of a GK-2480 module as plain data, and the state right after reset. -/

namespace Sys2Proof.Machine

open Sys2Proof

/-- Reasons a step stops with a fault. No step of this machine does: an exception the spec describes is taken and
answers a next state, and an access to an address that does not exist is a table fault reported to the pager (R157).
`clocksStopped` names the one standstill the spec has (R378, a thermal trip); the model holds it in State and lets
every event but a cold start pass without effect. Safe: nothing raises it. -/
inductive Fault where
  | clocksStopped
  deriving DecidableEq, Repr

/-- Reasons a step refuses. `notModelled` is answered only by an arm of the dispatch that has no meaning yet (safe:
it proves nothing about the instruction). -/
inductive Refusal where
  | notModelled (mnemonic : String)
  deriving DecidableEq, Repr

/-! ### The module -/

/-- The whole module. -/
structure State where
  -- the model's own (assumptions 1 and 2)
  agenda   : List Action
  cur      : Nat
  curReel  : Nat
  curChan  : Nat
  unit     : Nat
  nfree    : Nat
  nextArea : Nat
  nextOp   : Nat
  lastRead : Word
  -- clock, board, host interface
  cyc      : Nat
  board    : Board
  portA    : PortRegs
  portB    : PortRegs
  hub      : HubRegs
  asgen    : Tbl (BitVec 4)
  sems     : Tbl Sem
  queues   : Tbl Queue
  descs    : Tbl Desc
  irqs     : List (Port × Nat)
  -- contexts and the row
  ctxs     : Tbl Ctx
  cells    : Tbl Cell
  areas    : Tbl Area
  bays     : Tbl Bay
  birth    : BitVec 32
  hubCache : List Tag
  moving   : Option (Nat × Nat)
  -- memory
  mem      : List Host.Cell
  bad      : List Nat
  bufs     : List BufWrite
  reelTlb  : Tbl Tlb
  walkC    : Tbl (List WalkEnt)
  walks    : List WalkReq
  watch    : List Watch
  faults   : Tbl FaultEnt
  fseq     : BitVec 32
  pagerUp  : Bool
  mbridles : Tbl Bridle
  -- fabric and reels
  graphs   : Tbl Graph
  seqrs    : Tbl Seqr
  quanta   : Tbl Nat
  chans    : Tbl Chan
  msgs     : List Msg
  outbox   : List Msg
  refused  : List Msg
  deriving DecidableEq, Repr

/-- The machine right after module reset: every register at its reset value, every table at its defaults
(Sys2Proof/Machine/Blank.lean), nothing scheduled, the boot sequence not yet run (R376). -/
def State.reset : State :=
  { agenda := [], cur := 0, curReel := 0, curChan := 0, unit := 0, nfree := 0, nextArea := 0, nextOp := 0, lastRead := 0,
    cyc := 0, board := Board.blank, portA := PortRegs.blank, portB := PortRegs.blank, hub := HubRegs.blank,
    asgen := [], sems := [], queues := [], descs := [], irqs := [],
    ctxs := [], cells := [], areas := [], bays := [], birth := 0, hubCache := [], moving := none,
    mem := [], bad := [], bufs := [], reelTlb := [], walkC := [], walks := [], watch := [], faults := [], fseq := 0,
    pagerUp := true, mbridles := [], graphs := [], seqrs := [], quanta := [], chans := [], msgs := [], outbox := [],
    refused := [] }

end Sys2Proof.Machine
end

