-- ==== Sys2Proof/Machine/Ops.lean ====
section
/-! DEFINITION. The named operations over the pieces of state and over the registers of the acting application:
reading and writing, issue (R102, R109), tokens and marks (R104 to R106), and raising a trap (R336, R337). -/

namespace Sys2Proof.Machine

open Sys2Proof

/-- The outcome of a step. -/
abbrev Out := Host.Outcome State Fault Refusal

/-! ### Pieces of state by their index -/

def State.cellAt (s : State) (c : Nat) : Cell := tget Cell.blank s.cells c
def State.putCell (s : State) (c : Nat) (x : Cell) : State := { s with cells := tset Cell.blank s.cells c x }
def State.modCell (s : State) (c : Nat) (f : Cell → Cell) : State := s.putCell c (f (s.cellAt c))
def State.areaAt (s : State) (i : Nat) : Area := tget Area.blank s.areas i
def State.putArea (s : State) (i : Nat) (x : Area) : State := { s with areas := tset Area.blank s.areas i x }
def State.modArea (s : State) (i : Nat) (f : Area → Area) : State := s.putArea i (f (s.areaAt i))
def State.bayAt (s : State) (b : Nat) : Bay := tget Bay.blank s.bays b
def State.putBay (s : State) (b : Nat) (x : Bay) : State := { s with bays := tset Bay.blank s.bays b x }
def State.modBay (s : State) (b : Nat) (f : Bay → Bay) : State := s.putBay b (f (s.bayAt b))
def State.ctxAt (s : State) (d : Nat) : Ctx := tget Ctx.blank s.ctxs d
def State.putCtx (s : State) (d : Nat) (x : Ctx) : State := { s with ctxs := tset Ctx.blank s.ctxs d x }
def State.modCtx (s : State) (d : Nat) (f : Ctx → Ctx) : State := s.putCtx d (f (s.ctxAt d))
def State.descAt (s : State) (d : Nat) : Desc := tget Desc.blank s.descs d
def State.putDesc (s : State) (d : Nat) (x : Desc) : State := { s with descs := tset Desc.blank s.descs d x }
def State.modDesc (s : State) (d : Nat) (f : Desc → Desc) : State := s.putDesc d (f (s.descAt d))
/-- The descriptor as the hub uses it: while its context lives, as it was read at placement (R66). -/
def State.descUse (s : State) (d : Nat) : Desc := ((s.ctxAt d).kept).getD (s.descAt d)
def State.queueAt (s : State) (q : Nat) : Queue := tget Queue.blank s.queues q
def State.putQueue (s : State) (q : Nat) (x : Queue) : State := { s with queues := tset Queue.blank s.queues q x }
def State.modQueue (s : State) (q : Nat) (f : Queue → Queue) : State := s.putQueue q (f (s.queueAt q))
def State.faultAt (s : State) (q : Nat) : FaultEnt := tget FaultEnt.blank s.faults q
def State.putFault (s : State) (q : Nat) (x : FaultEnt) : State := { s with faults := tset FaultEnt.blank s.faults q x }
/-- The graph of handle `h` of the context of descriptor `d` (R288). -/
def State.graphAt (s : State) (d h : Nat) : Graph := tget Graph.blank s.graphs (256 * d + h)
def State.putGraph (s : State) (d h : Nat) (x : Graph) : State :=
  { s with graphs := tset Graph.blank s.graphs (256 * d + h) x }
def State.modGraph (s : State) (d h : Nat) (f : Graph → Graph) : State := s.putGraph d h (f (s.graphAt d h))
/-- Channel `ch` of reel `r` (R309). -/
def State.chanAt (s : State) (r ch : Nat) : Chan := tget Chan.blank s.chans (16 * r + ch)
def State.putChan (s : State) (r ch : Nat) (x : Chan) : State :=
  { s with chans := tset Chan.blank s.chans (16 * r + ch) x }
def State.modChan (s : State) (r ch : Nat) (f : Chan → Chan) : State := s.putChan r ch (f (s.chanAt r ch))
def State.portAt (s : State) (p : Port) : PortRegs := match p with | .A => s.portA | .B => s.portB
def State.putPort (s : State) (p : Port) (x : PortRegs) : State :=
  match p with | .A => { s with portA := x } | .B => { s with portB := x }

/-- The bay and the die a cell lies in, and the bay of a strand (R4, R69, R71). -/
def bayOf (c : Nat) : Nat := c / 512
def dieOf (c : Nat) : Nat := c / 2048
def strandOf (c : Nat) : Nat := c / Config.strandCells

/-! ### The acting application -/

/-- The area whose application the acting cell runs: the leftmost it serves (R79). -/
def State.here (s : State) : Nat := (s.cellAt s.cur).serve.headD 0
def State.area (s : State) : Area := s.areaAt s.here
def State.app (s : State) : AppCell := tget AppCell.start s.area.apps s.cur
def Area.appAt (a : Area) (c : Nat) : AppCell := tget AppCell.start a.apps c
def Area.putApp (a : Area) (c : Nat) (x : AppCell) : Area := { a with apps := tset AppCell.start a.apps c x }
def State.appOf (s : State) (i c : Nat) : AppCell := (s.areaAt i).appAt c
def State.putAppOf (s : State) (i c : Nat) (x : AppCell) : State := s.putArea i ((s.areaAt i).putApp c x)
def State.putApp (s : State) (x : AppCell) : State := s.putAppOf s.here s.cur x
/-- The context of the acting application and its bound ASID and generation (R66, R67). -/
def State.desc (s : State) : Nat := s.area.desc
def State.asidOf (s : State) (d : Nat) : Nat := (s.descAt d).basid.toNat
def State.genOf (s : State) (asid : Nat) : Nat := (tget 0 s.asgen asid).toNat

/-- `x.AIDX` of cell `c` in an area: its place among the running cells (R127); `x.ALEN` is their number. -/
def Area.aidx (a : Area) (c : Nat) : Nat := a.cells.idxOf c
def Area.alen (a : Area) : Nat := a.cells.length

/-- The microprogram of an area in a cell's cache (R99). -/
def Area.tagIn (a : Area) (x : Cell) : Option Tag :=
  x.cache.find? (fun t => if a.sys then t.sys && t.opid == a.opid else !t.sys && t.desc == a.desc && t.opid == a.opid)

/-- The instruction word at index `pc` of the acting microprogram; none at or beyond `ncode` (R101). -/
def State.wordAt (s : State) (pc : Nat) : Option Word :=
  match s.area.tagIn (s.cellAt s.cur) with
  | some t => t.code[pc]?
  | none => none

def State.ncode (s : State) : Nat :=
  match s.area.tagIn (s.cellAt s.cur) with
  | some t => t.code.length
  | none => 0

/-! ### Registers (R94) -/

def AppCell.getS (a : AppCell) (n : Nat) : Word := if n = 0 then 0 else tget 0 a.s n
def AppCell.setS (a : AppCell) (n : Nat) (w : Word) : AppCell := if n = 0 then a else { a with s := tset 0 a.s n w }
def AppCell.getV (a : AppCell) (n : Nat) : VecVal := tget VecVal.zero a.v n
def AppCell.setV (a : AppCell) (n : Nat) (x : VecVal) : AppCell := { a with v := tset VecVal.zero a.v n x }
def AppCell.getK (a : AppCell) (n : Nat) : BitVec 256 := if n = 0 then BitVec.allOnes 256 else tget 0 a.k n
def AppCell.setK (a : AppCell) (n : Nat) (x : BitVec 256) : AppCell :=
  if n = 0 then a else { a with k := tset 0 a.k n x }
def AppCell.getM (a : AppCell) (n : Nat) : Acc := tget Acc.zero a.m n
def AppCell.setM (a : AppCell) (n : Nat) (x : Acc) : AppCell := { a with m := tset Acc.zero a.m n x }
def AppCell.getB (a : AppCell) (n : Nat) : Bank := tget Bank.zero a.b n
def AppCell.setB (a : AppCell) (n : Nat) (x : Bank) : AppCell := { a with b := tset Bank.zero a.b n x }
def AppCell.getA (a : AppCell) (n : Nat) : StreamReg := tget StreamReg.invalid a.a n
def AppCell.setA (a : AppCell) (n : Nat) (x : StreamReg) : AppCell := { a with a := tset StreamReg.invalid a.a n x }
def AppCell.getT (a : AppCell) (n : Nat) : Nat := tget 0 a.t n
def AppCell.setT (a : AppCell) (n : Nat) (x : Nat) : AppCell := { a with t := tset 0 a.t n x }

/-- A register write at a completion (R105). -/
def AppCell.applyWrite (a : AppCell) : RegWrite → AppCell
  | .s n w => a.setS n w
  | .v n x => a.setV n x
  | .m n x => a.setM n x
  | .b n x => a.setB n x

/-- The register fields of an instruction as registers that may be marked (R106). -/
def sR (f : BitVec 6) : Reg := .s f.toNat
def vR (f : BitVec 6) : Reg := .v f.toNat

/-! ### Tokens and marks (R104 to R106) -/

/-- Every token named in the wait mask has count 0. -/
def waitOver (wm : BitVec 8) (a : AppCell) : Bool :=
  (upto 0 8).all (fun n => !wm.getLsbD n || a.getT n == 0)

/-- An operand or destination register is marked and the mark's token is not waited for. -/
def AppCell.markHit (a : AppCell) (wm : BitVec 8) (uses : List Reg) : Bool :=
  a.marks.any (fun m => uses.contains m.reg && (m.det.isSome || !wm.getLsbD m.tok))

/-- Room for one more operation under the token an instruction names (R105). -/
def AppCell.tokRoom (a : AppCell) (tv : BitVec 1) (tok : BitVec 3) : Bool := tv == 0 || decide (a.getT tok.toNat < 15)

/-- The token an instruction names: none when `tv` = 0. -/
def tokOf (tv : BitVec 1) (tok : BitVec 3) : Option Nat := if tv == 1 then some tok.toNat else none

/-- Counts an operation under its token and marks the registers it will write. -/
def AppCell.take (a : AppCell) (tok : Option Nat) (dst : List Reg) : AppCell :=
  match tok with
  | none => a
  | some t =>
    { a.setT t (a.getT t + 1) with marks := a.marks ++ (dst.filter (· != .s 0)).map (fun r => ⟨r, t, none⟩) }

/-- Takes an operation off its token's count; the marks clear when the count reaches 0. -/
def AppCell.untake (a : AppCell) (t : Nat) : AppCell :=
  let n := a.getT t - 1
  let a := a.setT t n
  if n = 0 then { a with marks := a.marks.filter (fun m => m.det.isSome || m.tok != t) } else a

/-! ### Guards (R109) -/

/-- The mask a guard selects: bit i for lane i, bit 0 for a whole instruction. -/
def AppCell.guard (a : AppCell) (h : Hdr) : BitVec 256 :=
  if h.gn == 1 then ~~~(a.getK h.g.toNat) else a.getK h.g.toNat

def AppCell.guardBit (a : AppCell) (h : Hdr) : Bool := (a.guard h).getLsbD 0

/-! ### Traps -/

/-- The trap classes of R336. -/
def clsIllegal : Nat := 1
def clsArith : Nat := 2
def clsToken : Nat := 3
def clsBudget : Nat := 4
def clsTileWrite : Nat := 5
def clsControl : Nat := 6
def clsArea : Nat := 7
def clsMemory : Nat := 8
def clsShape : Nat := 9
def clsOperand : Nat := 10
def clsSync : Nat := 11
def clsFabric : Nat := 12
def clsScope : Nat := 13
def clsSystem : Nat := 14
def clsUnresolved : Nat := 15

/-- Raising a trap in the acting cell: the instruction has no effect, the cell stops issuing, and the trap waits for
the area root (R337). A trap already standing there stays. -/
def State.raiseTrap (s : State) (cls sub : Nat) (info : Word) : State :=
  let a := s.app
  match a.trap with
  | some _ => s
  | none => s.putApp { a with trap := some { cls := cls, sub := sub, pc := a.pc,
                                             word := (s.wordAt a.pc).getD 0, info := info, fseq := none } }

/-! ### Issue (R102) -/

/-- What an instruction's own rule answers at issue: it takes effect and the index moves on; it takes effect and the
index moves to a target; it waits; it waits having asked for something (a commit, a walk); it traps. -/
inductive Res where
  | ok (s : State)
  | jump (s : State) (pc : Nat)
  | wait
  | stay (s : State)
  | trap (cls sub : Nat) (info : Word)
  deriving DecidableEq, Repr

/-- The same for an instruction that changes nothing but the registers of its application. -/
inductive AppRes where
  | ok (a : AppCell)
  | jump (a : AppCell) (pc : Nat)
  | wait
  | trap (cls sub : Nat) (info : Word)
  deriving DecidableEq, Repr

def AppCell.goto (a : AppCell) (pc : Nat) : AppCell := { a with pc := pc }

/-- The acting application as an issued instruction leaves it: the index moves, and its area has moved (R139). -/
def State.retire (s : State) (a : AppCell) (pc : Nat) : State :=
  s.putArea s.here { s.area.putApp s.cur (a.goto pc) with moved := s.cyc }

/-- The index moves to the next instruction. -/
def State.advance (s : State) : State := s.retire s.app (s.app.pc + 1)

/-- Issue of an instruction: it waits for the tokens of `wm`; a whole-instruction guard that is false makes it do
`skip` and move on; a marked register among `uses` raises the token-discipline trap; otherwise its rule decides. -/
def issue (h : Hdr) (lane : Bool) (uses : List Reg) (skip : State → State) (body : State → Res) (s : State) : State :=
  let a := s.app
  if !waitOver h.wm a then s
  else if !lane && !a.guardBit h then (skip s).advance
  else if a.markHit h.wm uses then s.raiseTrap clsToken 0 0
  else
    match body s with
    | .ok t => t.advance
    | .jump t pc => t.retire t.app pc
    | .wait => s
    | .stay t => t
    | .trap c b i => s.raiseTrap c b i

/-- Issue of an instruction that works on the registers of its application only. -/
def issueReg (h : Hdr) (lane : Bool) (uses : List Reg) (body : AppCell → AppRes) (s : State) : State :=
  let a := s.app
  if !waitOver h.wm a then s
  else if !lane && !a.guardBit h then s.retire a (a.pc + 1)
  else if a.markHit h.wm uses then s.raiseTrap clsToken 0 0
  else
    match body a with
    | .ok b => s.retire b (a.pc + 1)
    | .jump b pc => s.retire b pc
    | .wait => s
    | .trap c b i => s.raiseTrap c b i

/-- The acting cell may issue: it runs an application that goes on (R101, R119, R128, R142), not one of a pager that has stopped
(R347). -/
def State.canIssue (s : State) : Bool :=
  let ar := s.area
  let a := s.app
  !(s.cellAt s.cur).serve.isEmpty && ar.live && ar.phase == .running && ar.cells.contains s.cur && !a.ended &&
    a.trap.isNone && a.fault.isNone && !a.stopped &&
    (match a.sleep with | none => true | some _ => false) && (s.desc != 0 || s.pagerUp)

/-- An effect that the ballast buffer cannot take: the application commits first (R141). -/
def needCommit (s : State) (body : State → Res) : Res :=
  if s.app.cmt then body s else .stay (s.putApp { s.app with force := true })

/-! ### Asynchronous operations -/

/-- The effects that `esent` and `eland` count (R364): global writes and atomics, memory bridle updates and `ptst` among them,
copies, `gstr`, `gld` and `rlpost`. -/
def OpKind.counted : OpKind → Bool
  | .gstore _ _ _ _ => true
  | .atom _ _ _ _ _ _ _ _ => true
  | .flset _ _ _ _ => true
  | .brUpd _ (.memory _) _ _ _ => true
  | .copy _ _ _ _ _ _ => true
  | .gld _ _ _ _ _ => true
  | .gstr _ _ _ _ _ _ => true
  | .rlpost _ _ _ => true
  | .ptst _ _ => true
  | _ => false

/-- Counts `n` effects sent into queues, and one landed (R364). -/
def State.sent (s : State) (d n : Nat) : State := s.modCtx d (fun c => { c with esent := c.esent + BitVec.ofNat 32 n })
def State.landed (s : State) (d : Nat) : State := s.modCtx d (fun c => { c with eland := c.eland + 1 })

/-- A performed operation lands: at once, or, where writes of its still stand in buffers, with the last of them (R364). -/
def State.landOp (s : State) (d id : Nat) : State :=
  if s.bufs.any (fun w => w.op == id && w.desc == d) then s.modCtx d (fun c => { c with landing := c.landing ++ [id] }) else s.landed d

/-- The context has been cut and is to be saved, its engines quiet (R356). -/
def State.quiet (s : State) (d : Nat) : Bool := match (s.ctxAt d).pre with | .cut _ _ => true | _ => false

/-- An operation of the acting application, issued by the instruction at its index. -/
def State.newOp (s : State) (id : Nat) (path : Path) (que : Nat) (tok : Option Nat) (k : OpKind) : PendOp :=
  { id := id, area := s.here, desc := s.desc, priv := s.area.priv, path := path, que := que, tok := tok, det := none, owed := false,
    paused := false, pc := s.app.pc, word := (s.wordAt s.app.pc).getD 0, held := false, pages := [], kind := k }

/-- Puts an operation of the acting application on the cell's queue list, counted under its token. -/
def State.push (s : State) (path : Path) (que : Nat) (tok : Option Nat) (dst : List Reg) (k : OpKind) : State :=
  let id := s.nextOp + 1
  let op := s.newOp id path que tok k
  let s := if k.counted then s.sent s.desc 1 else s
  let s := s.putApp (s.app.take tok dst)
  { s.modCell s.cur (fun c => { c with pend := c.pend ++ [op] }) with nextOp := id }

/-- The graph handle an operation works on. -/
def OpKind.graphOf : OpKind → Option Nat
  | .gld h _ _ _ _ => some h
  | .gstr h _ _ _ _ _ => some h
  | .gcol h _ _ _ _ _ => some h
  | .gfrz h _ _ => some h
  | .gthaw h _ _ => some h
  | _ => none

/-- Records an operation already performed in the cell, whose completion comes later (R175, R180). -/
def State.pushDone (s : State) (tok : Option Nat) (dst : List Reg) (w : List RegWrite) (ff : BitVec 6)
    (mf : BitVec 3) : State :=
  let id := s.nextOp + 1
  let op : DoneOp := { id := id, area := s.here, desc := s.desc, tok := tok, det := none, writes := w, fflags := ff,
                       mflags := mf, failed := false, hnd := none }
  let s := s.putApp (s.app.take tok dst)
  { s.modCell s.cur (fun c => { c with done := c.done ++ [op] }) with nextOp := id }

/-- An area's 4,096 quiet cycles begin anew (R139). -/
def State.stir (s : State) (i : Nat) : State :=
  if (s.areaAt i).live then s.modArea i (fun a => { a with moved := s.cyc }) else s

/-- Moves an operation of cell `c` from its queue to the completed ones. -/
def State.opDone (s : State) (c : Nat) (op : PendOp) (w : List RegWrite) (ff : BitVec 6) (mf : BitVec 3)
    (failed : Bool) : State :=
  (s.stir op.area).modCell c (fun x => { x with
    pend := x.pend.filter (fun o => o.id != op.id)
    done := x.done ++ [{ id := op.id, area := op.area, desc := op.desc, tok := op.tok, det := op.det, writes := w,
                         fflags := ff, mflags := mf, failed := failed, hnd := op.kind.graphOf }] })

/-- Replaces an operation of cell `c` in its place. -/
def State.opPut (s : State) (c : Nat) (op : PendOp) : State :=
  s.modCell c (fun x => { x with pend := x.pend.map (fun o => if o.id == op.id then op else o) })

/-- Takes an operation of cell `c` off its queue without a completion; its area has had it outstanding until now (R139). -/
def State.opDrop (s : State) (c id : Nat) : State :=
  (((s.cellAt c).pend.filter (fun o => o.id == id)).foldl (fun s o => s.stir o.area) s).modCell c
    (fun x => { x with pend := x.pend.filter (fun o => o.id != id) })

/-- Holds an effect in the ballast buffer; its token, when it names one, completes at once with the flags known by then (R140,
R167, R179). -/
def State.hold (s : State) (path : Path) (que : Nat) (tok : Option Nat) (bytes : Nat) (fl : BitVec 6) (k : OpKind) : State :=
  let id := s.nextOp + 1
  let op : PendOp := { s.newOp id path que none k with owed := tok.isSome, held := true }
  let s := { s.putApp { s.app with ballast := s.app.ballast ++ [⟨op, bytes⟩] } with nextOp := id }
  match tok with
  | none => s
  | some _ => s.pushDone tok [] [] fl 0

/-- The effects in a cell's ballast buffer: those of the application it runs, and of applications it has left that have not committed yet
(R79, R140, R144). -/
def State.heldIn (s : State) (c : Nat) : List Held := s.areas.flatMap (fun p => (p.2.appAt c).ballast)

/-- Bytes held in a cell's ballast buffer (R140). -/
def State.ballastUsed (s : State) (c : Nat) : Nat := ((s.heldIn c).map (·.bytes)).sum

/-- An effect of a kind the ballast buffer takes: held before commit, commits the application when it does not fit,
and enters its queue after commit (R140, R141). `fl` are the flags of its completion that are known at issue. -/
def State.effect (s : State) (path : Path) (que : Nat) (tok : Option Nat) (bytes : Nat) (fl : BitVec 6) (k : OpKind) : Res :=
  if s.app.cmt then .ok (s.push path que tok [] k)
  else if s.ballastUsed s.cur + bytes ≤ Config.ballastBytes then .ok (s.hold path que tok bytes fl k)
  else .stay (s.putApp { s.app with force := true })

/-- A free value (assumption 2): the value and the state with the counter moved on. -/
def State.free (s : State) (w : Nat) : BitVec w × State := (Config.freeBits w s.nfree, { s with nfree := s.nfree + 1 })

end Sys2Proof.Machine
end

