-- ==== Sys2Proof/Machine/Memory.lean ====
section
/-! DEFINITION. Physical memory, the write buffers of the abstract machine (R237 to R244, R248, R249), landing flags
seen by the spool die (R148, R262), page-table walks and cached translations (R146 to R157). -/

namespace Sys2Proof.Machine

open Sys2Proof

/-! ### Points of coherence -/

/-- The canonical form of memory: addresses strictly rising, no listed byte equal to what an unlisted address reads
as, which is 0 (R376; assumption 7). -/
def Memory.wf (m : List Host.Cell) : Bool := tcanon (0 : Byte) m

/-- A byte, and a little-endian run, at the point of coherence. -/
def State.peekByte (s : State) (pa : Nat) : Byte := tget 0 s.mem pa
def State.peek (s : State) (pa n : Nat) : List Byte := tgetRun 0 s.mem pa n
def State.peekNat (s : State) (pa n : Nat) : Nat := leNat (s.peek pa n)

/-- Landing flag i (R148). -/
def flagAddr (i : Nat) : Nat := Config.flagBase + 8 * i
def State.flag (s : State) (i : Nat) : Word := BitVec.ofNat 64 (s.peekNat (flagAddr i) 8)

/-- The flag test of R261 and R26: (flag[31:0] − expected), read as signed, is at least 0. -/
def flagReached (f : Word) (exp : BitVec 32) : Bool := decide (0 ≤ (f.extractLsb' 0 32 - exp).toInt)

/-- What the spool die reports of a write to the flag region (R262): every entry for the flag is tested. -/
def State.snoop (s : State) (pa n : Nat) : State :=
  if pa + n ≤ Config.flagBase || Config.hbmEnd ≤ pa then s
  else { s with watch := s.watch.map (fun w =>
      if flagAddr w.idx < pa + n && pa < flagAddr w.idx + 8 && flagReached (s.flag w.idx) w.exp
      then { w with hit := w.hit.orElse (fun _ => some (s.flag w.idx)) } else w) }

/-- Bytes placed at their point of coherence; the bytes written are good again (R380). -/
def State.poke (s : State) (pa : Nat) (bs : List Byte) : State :=
  State.snoop { s with mem := tsetRun 0 s.mem pa bs,
                       bad := s.bad.filter (fun p => !(pa ≤ p && p < pa + bs.length)) } pa bs.length

def State.pokeNat (s : State) (pa n x : Nat) : State := s.poke pa (leBytes n x)

/-- The spaces of R147; none for a reserved address. -/
inductive Space where
  | hbm
  | host
  | peer
  deriving DecidableEq, Repr

def spaceOf (pa : Nat) : Option Space :=
  if pa < Config.hbmEnd then some .hbm
  else if pa / 2 ^ 50 = 1 then (if pa / 2 ^ 49 % 2 = 0 then some .host else none)
  else if pa / 2 ^ 50 = 2 then some .peer
  else none

/-- The UALink port that leads to an accelerator id (assumption 8). -/
def portOfAccel (a : Nat) : Nat := a % 16

/-- A peer address is reachable: its port is up (R373). -/
def State.reachable (s : State) (pa : Nat) : Bool :=
  spaceOf pa != some .peer || s.board.portUp.contains (portOfAccel (pa / 2 ^ 40 % 1024))

/-! ### Buffers (R237 to R241) -/

/-- Who reads or writes: its cell and bay, where it has them, and the native level of its path. -/
structure Party where
  cell   : Option Nat
  bay    : Option Nat
  native : Nat
  deriving DecidableEq, Repr

/-- A cell on a path with native level `n`; a fabric plane in a bay; a reel channel. -/
def Party.ofCell (c n : Nat) : Party := ⟨some c, some (bayOf c), n⟩
def Party.ofBay (b : Nat) : Party := ⟨none, some b, 1⟩
def Party.reel : Party := ⟨none, none, 3⟩

/-- The scope-`level` domain of a party. -/
def Party.dom (p : Party) (level : Nat) : Nat :=
  if level = 0 then p.cell.getD 0 else if level = 1 then p.bay.getD 0 else if level = 2 then p.bay.getD 0 / 4 else 0

/-- The party lies in a domain. -/
def Party.inDom (p : Party) (level dom : Nat) : Bool :=
  if level = 0 then p.cell == some dom
  else if level = 1 then p.bay == some dom
  else if level = 2 then p.bay.map (· / 4) == some dom
  else true

/-- R240: the visible write in the lowest level that entered last, else the newest write at the point of coherence. -/
def State.readByte (s : State) (p : Party) (acq pa : Nat) : Byte :=
  let best := s.bufs.foldl (fun (b : Option BufWrite) w =>
    if p.inDom w.level w.dom && p.native ≤ w.level && acq ≤ w.level && w.pa ≤ pa && pa < w.pa + w.data.length then
      match b with
      | none => some w
      | some v => if w.level ≤ v.level then some w else some v
    else b) none
  match best with
  | some w => w.data.getD (pa - w.pa) 0
  | none => s.peekByte pa

def State.read (s : State) (p : Party) (acq pa n : Nat) : List Byte := (upto pa n).map (s.readByte p acq)

def State.readNat (s : State) (p : Party) (acq pa n : Nat) : Nat := leNat (s.read p acq pa n)

/-- A plain write performed: into the native buffer for HBM, at the point of coherence otherwise (R238, R239). -/
def State.write (s : State) (p : Party) (path : Path) (que cell op desc pa : Nat) (bs : List Byte) : State :=
  if pa < Config.hbmEnd && p.native < 4 then
    { s with bufs := s.bufs ++ [{ path := path, que := que, level := p.native, dom := p.dom p.native, cell := cell,
                                  op := op, desc := desc, pa := pa, data := bs }] }
  else s.poke pa bs

/-- Bytes with their physical addresses, joined into runs of rising addresses. -/
def byteRuns : List (Nat × Byte) → List (Nat × List Byte)
  | [] => []
  | (a, b) :: r =>
    match byteRuns r with
    | (a', bs) :: rs => if a' = a + 1 then (a, b :: bs) :: rs else (a, [b]) :: (a', bs) :: rs
    | [] => [(a, [b])]

/-- Plain writes of bytes given with their physical addresses: one write for each run. -/
def State.writeAll (s : State) (p : Party) (path : Path) (que cell op desc : Nat) (xs : List (Nat × Byte)) : State :=
  (byteRuns xs).foldl (fun s r => s.write p path que cell op desc r.1 r.2) s

/-- Two runs of bytes meet. -/
def overlap (a n b m : Nat) : Bool := decide (a < b + m) && decide (b < a + n)

/-- The k-th buffered write may leave its buffer: no earlier write of its path to a byte of it stands there. -/
def State.mayMove (s : State) (k : Nat) : Bool :=
  match s.bufs[k]? with
  | none => false
  | some w => (s.bufs.take k).all (fun v =>
      !(v.path == w.path && v.level == w.level && v.dom == w.dom && overlap v.pa v.data.length w.pa w.data.length))

/-- Action 2 of R239: the k-th buffered write moves one level outward, from level 3 to the point of coherence. -/
def State.propagate (s : State) (k : Nat) : State :=
  match s.bufs[k]? with
  | none => s
  | some w =>
    if !s.mayMove k then s
    else
      let rest := s.bufs.eraseIdx k
      if w.level < 3 then
        let d := if w.level = 0 then bayOf w.dom else if w.level = 1 then w.dom / 4 else 0
        { s with bufs := rest ++ [{ w with level := w.level + 1, dom := d }] }
      else State.poke { s with bufs := rest } w.pa w.data

/-- Every write of cell `c` on the paths `ps` that an operation of `ops` issued stands at level `scp` or wider
(`qs` narrows the queues of STREAM for `sbar`). -/
def State.standsAt (s : State) (c scp : Nat) (ops : Nat → Bool) (ps : Path → Bool) (qs : Nat → Bool) : Bool :=
  s.bufs.all (fun w => !(w.cell == c && ps w.path && qs w.que && ops w.op) || (scp ≤ w.level && w.level < 4 && scp < 4))

/-- The bit of a path in `pb` and `pa` (R112). -/
def pathBit : Path → Nat
  | .stream => 0
  | .copy => 1
  | .matrix => 2
  | .fabric => 3
  | .reel => 4
  | .tree => 5
  | .portal => 6

/-! ### Translation (R146 to R157) -/

/-- On whose behalf an address is translated: context, privilege. -/
structure Who where
  desc : Nat
  priv : Bool
  deriving DecidableEq, Repr

/-- The address rule of R146 for an instruction's access. -/
def vaOk (priv : Bool) (va : Nat) : Bool :=
  decide (0x10000 ≤ va) && decide (va < 2 ^ 55) && (decide (va < 2 ^ 54) || priv)

/-- The context whose tables translate an address: descriptor 0 for the system range (R146). -/
def Who.root (w : Who) (va : Nat) : Nat := if w.priv && va.testBit 54 then 0 else w.desc

/-- A cached leaf that serves an access: covers it, of the current generation, with permission, not migratable. -/
def TlbEnt.serves (e : TlbEnt) (asid gen va : Nat) (write : Bool) (w : Who) : Bool :=
  e.asid == asid && e.gen == gen && decide (e.va ≤ va) && decide (va < e.va + e.size) && (!write || e.w) &&
    (!e.pv || w.priv) && (!(e.mig && spaceOf (e.pa + (va - e.va)) == some .host) || w.desc == 0)

/-- The physical address an entry gives for a virtual one. -/
def TlbEnt.at (e : TlbEnt) (va : Nat) : Nat := e.pa + (va - e.va)

/-- A cached leaf may be used: it serves the access, and no down port stands before its address (R373). -/
def State.usable (s : State) (e : TlbEnt) (va : Nat) (write : Bool) (w : Who) : Bool :=
  let a := s.asidOf (w.root va)
  e.serves a (s.genOf a) va write w && s.reachable (e.at va)

/-- The edge TLB or reel TLB of a home. -/
def State.tlbOf (s : State) : TlbHome → Tlb
  | .bay b => (s.bayAt b).tlb
  | .reel r => tget Tlb.blank s.reelTlb r

def State.putTlb (s : State) (h : TlbHome) (l : Tlb) : State :=
  match h with
  | .bay b => s.modBay b (fun x => { x with tlb := l })
  | .reel r => { s with reelTlb := tset Tlb.blank s.reelTlb r l }

/-- Looks an address up in a TLB (R153). -/
def State.lookup (s : State) (h : TlbHome) (w : Who) (va : Nat) (write : Bool) : Option TlbEnt :=
  ((s.tlbOf h).ents.find? (fun e => s.usable e.2 va write w)).map (·.2)

/-- Sets of a TLB: 4,096 entries of an edge TLB, 512 of a channel TLB, in 8 ways (R154, R309; assumption 32). -/
def TlbHome.sets : TlbHome → Nat
  | .bay _ => 512
  | .reel _ => 64

/-- The set of an entry: its page number, in pages of its own size (assumption 32). -/
def TlbEnt.set (e : TlbEnt) (h : TlbHome) : Nat := e.va / e.size % h.sets

def TlbEnt.sameTag (e x : TlbEnt) : Bool := x.asid == e.asid && x.gen == e.gen && x.va == e.va && x.size == e.size

/-- Pseudo-LRU over 8 ways: the seven bits of a tree, each naming the half to replace next; a use points them away. -/
def plruVictim (b : BitVec 7) : Nat :=
  let x := if b.getLsbD 0 then 1 else 0
  let y := if b.getLsbD (1 + x) then 1 else 0
  let z := if b.getLsbD (3 + 2 * x + y) then 1 else 0
  4 * x + 2 * y + z

def plruUse (b : BitVec 7) (way : Nat) : BitVec 7 :=
  let put (b : BitVec 7) (i : Nat) (v : Bool) : BitVec 7 := if v then b ||| BitVec.ofNat 7 (2 ^ i) else b &&& ~~~(BitVec.ofNat 7 (2 ^ i))
  let x := way / 4 % 2
  let y := way / 2 % 2
  let z := way % 2
  put (put (put b 0 (x == 0)) (1 + x) (y == 0)) (3 + 2 * x + y) (z == 0)

/-- A use of an entry that stands in the TLB. -/
def Tlb.use (t : Tlb) (h : TlbHome) (e : TlbEnt) : Tlb :=
  match t.ents.find? (fun x => e.sameTag x.2) with
  | none => t
  | some x => { t with plru := tmod 0 t.plru (e.set h) (fun b => plruUse b x.1) }

/-- A translation enters a TLB: in the place of the same one, in a free way, or in the way that pseudo-LRU gives up. -/
def Tlb.install (t : Tlb) (h : TlbHome) (e : TlbEnt) : Tlb :=
  let k := e.set h
  let used := t.ents.filter (fun x => x.2.set h == k)
  let way := match used.find? (fun x => e.sameTag x.2) with
    | some x => x.1
    | none =>
      match (upto 0 8).find? (fun w => !used.any (fun x => x.1 == w)) with
      | some w => w
      | none => plruVictim (tget 0 t.plru k)
  { ents := (way, e) :: t.ents.filter (fun x => !(x.2.set h == k && x.1 == way))
    plru := tmod 0 t.plru k (fun b => plruUse b way) }

def State.install (s : State) (h : TlbHome) (e : TlbEnt) : State := s.putTlb h ((s.tlbOf h).install h e)

/-- Uses of entries. -/
def State.useTlb (s : State) (h : TlbHome) (es : List TlbEnt) : State :=
  if es.isEmpty then s else s.putTlb h (es.foldl (fun t e => t.use h e) (s.tlbOf h))

/-- A bay's shape cache forgets a context's records (R176). -/
def State.dropShapes (s : State) (d : Nat) : State :=
  { s with bays := s.bays.map (fun p => (p.1, { p.2 with shapes := p.2.shapes.filter (fun h => h.desc != d) })) }

/-- The end of a walk. -/
inductive Walk where
  | ok (e : TlbEnt)
  | bad (kind level : Nat) (ent : Word) (epa : Nat)
  /-- An entry that the walk reads has an uncorrectable error (R380). -/
  | torn
  deriving DecidableEq, Repr

/-- Fields of a table entry (R150). -/
def entV (e : Word) : Bool := e.getLsbD 0
def entTbl (e : Word) : Bool := e.getLsbD 1
def entW (e : Word) : Bool := e.getLsbD 2
def entPv (e : Word) : Bool := e.getLsbD 3
def entMig (e : Word) : Bool := e.getLsbD 4
def entCt (e : Word) : Bool := e.getLsbD 5
def entSc (e : Word) : Nat := (e.extractLsb' 6 2).toNat
def entPa (e : Word) : Nat := (e.extractLsb' 16 36).toNat * 65536

/-- Reserved bits of a leaf: [15:8], [55:52], `sc` = 3. -/
def leafBad (e : Word) : Bool := e.extractLsb' 8 8 != 0 || e.extractLsb' 52 4 != 0 || entSc e == 3

/-- Reserved bits of a table pointer: [15:2], [55:52]. -/
def tblBad (e : Word) : Bool := e.extractLsb' 2 14 != 0 || e.extractLsb' 52 4 != 0

/-- The cached table entry of a level that covers an address. -/
def cachedEnt (cache : List WalkEnt) (asid gen level va : Nat) : Option Word :=
  let span := if level = 1 then 2 ^ 42 else 2 ^ 29
  (cache.find? (fun w => w.asid == asid && w.gen == gen && w.level == level && w.va == va / span * span)).map (·.entry)

/-- A table entry read at its point of coherence; at a reserved physical address it reads 0, an entry that is not valid (R147, R149;
assumption 112, DESIGN CHOICE). -/
def State.readEnt (s : State) (pa : Nat) : Word := BitVec.ofNat 64 (s.peekNat pa 8)

/-- Whether `n` bytes of a table hold an uncorrectable error (R380). -/
def State.tornAt (s : State) (pa n : Nat) : Bool := s.bad.any (fun q => decide (pa ≤ q) && decide (q < pa + n))

/-- The group rule of R151: 32 entries installed as one 2 MiB translation. An entry with tbl = 1 or nonzero reserved bits keeps its
group from that (assumption 107, DESIGN CHOICE). -/
def State.ctGroup (s : State) (tbl va : Nat) (e3 : Word) : Option TlbEnt :=
  let base := tbl + 8 * (va / 65536 % 8192 / 32 * 32)
  let es := (upto 0 32).map (fun n => (BitVec.ofNat 64 (s.peekNat (base + 8 * n) 8) : Word))
  let p0 := entPa (es.headD 0)
  if p0 % 2 ^ 21 = 0 && (es.zip (upto 0 32)).all (fun q =>
      entV q.1 && entCt q.1 && entW q.1 == entW e3 && entPv q.1 == entPv e3 && entMig q.1 == entMig e3 &&
      entSc q.1 == entSc e3 && entPa q.1 == p0 + q.2 * 65536 && !entTbl q.1 && !leafBad q.1) then
    some { asid := 0, gen := 0, va := va / 2 ^ 21 * 2 ^ 21, size := 2 ^ 21, pa := p0, w := entW e3, pv := entPv e3,
           mig := entMig e3, sc := entSc e3 }
  else none

/-- What is judged on a legal leaf (R157, R345): reserved or unreachable address, permission, migration. -/
def State.judge (s : State) (w : Who) (va : Nat) (write : Bool) (level : Nat) (ent : Word) (epa : Nat)
    (e : TlbEnt) : Walk :=
  let pa := e.pa + (va - e.va)
  if spaceOf pa == none || !s.reachable pa then .bad 3 level ent epa
  else if (write && !e.w) || (e.pv && !w.priv) then .bad 2 level ent epa
  else if e.mig && spaceOf pa == some .host && w.desc != 0 then .bad 4 0 ent epa
  else .ok e

/-- The level-2 entry a walk comes to, with its address: from the deepest cached entry that covers the address (R155), or
where level 1 ends it. -/
def State.walkTop (s : State) (cache : List WalkEnt) (w : Who) (va : Nat) : Except Walk (Word × Nat) :=
  let d := w.root va
  let asid := s.asidOf d
  let gen := s.genOf asid
  match cachedEnt cache asid gen 2 va with
  | some e2 => .ok (e2, 0)
  | none =>
    let a1 := (s.descUse d).ptroot.toNat + 8 * (va / 2 ^ 42 % 8192)
    let e1 := (cachedEnt cache asid gen 1 va).getD (s.readEnt a1)
    if (cachedEnt cache asid gen 1 va).isNone && s.tornAt a1 8 then .error .torn
    else if !entV e1 then .error (.bad 1 1 e1 a1)
    else if !entTbl e1 || tblBad e1 then .error (.bad 3 1 e1 a1)
    else
      let a2 := entPa e1 + 8 * (va / 2 ^ 29 % 8192)
      if s.tornAt a2 8 then .error .torn else .ok (s.readEnt a2, a2)

/-- A walk (R149) for an address, with a walk cache (empty for a confirming walk, R156). Kinds: 1 NOTVALID, 2 PERM,
3 TABLE, 4 MIGRATE. An entry it reads that has an uncorrectable error gives it no outcome (R380): the entry itself, or with `ct` one of
the 32 of its group. -/
def State.walk (s : State) (cache : List WalkEnt) (w : Who) (va : Nat) (write : Bool) : Walk :=
  let asid := s.asidOf (w.root va)
  let gen := s.genOf asid
  match s.walkTop cache w va with
  | .error b => b
  | .ok (e2, a2) =>
    if !entV e2 then .bad 1 2 e2 a2
    else if !entTbl e2 then
      if e2.extractLsb' 16 13 != 0 || entCt e2 || leafBad e2 then .bad 3 2 e2 a2
      else s.judge w va write 2 e2 a2
        { asid := asid, gen := gen, va := va / 2 ^ 29 * 2 ^ 29, size := 2 ^ 29, pa := entPa e2, w := entW e2,
          pv := entPv e2, mig := entMig e2, sc := entSc e2 }
    else if tblBad e2 then .bad 3 2 e2 a2
    else
      let a3 := entPa e2 + 8 * (va / 65536 % 8192)
      let e3 := s.readEnt a3
      if s.tornAt a3 8 then .torn
      else if !entV e3 then .bad 1 3 e3 a3
      else if entTbl e3 || leafBad e3 then .bad 3 3 e3 a3
      else if entCt e3 && s.tornAt (entPa e2 + 8 * (va / 65536 % 8192 / 32 * 32)) 256 then .torn
      else
        let one : TlbEnt := { asid := asid, gen := gen, va := va / 65536 * 65536, size := 65536, pa := entPa e3,
                              w := entW e3, pv := entPv e3, mig := entMig e3, sc := entSc e3 }
        let e := if entCt e3 then
            (match s.ctGroup (entPa e2) va e3 with
             | some g => { g with asid := asid, gen := gen }
             | none => one)
          else one
        s.judge w va write 3 e3 a3 e

/-- The table entries a walk leaves in the die's walk cache (R155). -/
def State.walkTrail (s : State) (cache : List WalkEnt) (w : Who) (va : Nat) : List WalkEnt :=
  let d := w.root va
  let asid := s.asidOf d
  let gen := s.genOf asid
  let e1 := (cachedEnt cache asid gen 1 va).getD (s.readEnt ((s.descUse d).ptroot.toNat + 8 * (va / 2 ^ 42 % 8192)))
  match s.walkTop cache w va with
  | .error _ => []
  | .ok (e2, _) =>
    let top : List WalkEnt := if (cachedEnt cache asid gen 2 va).isSome then [] else
      [{ asid := asid, gen := gen, level := 1, va := va / 2 ^ 42 * 2 ^ 42, entry := e1 }]
    if !entV e2 || !entTbl e2 || tblBad e2 then top
    else top ++ [{ asid := asid, gen := gen, level := 2, va := va / 2 ^ 29 * 2 ^ 29, entry := e2 }]

/-- The hub's own translation of a context address: a walk at the point of coherence. -/
def State.hubWalk (s : State) (d va : Nat) (write : Bool) : Option Nat :=
  match s.walk [] ⟨d, false⟩ va write with
  | .ok e => some (e.pa + (va - e.va))
  | .bad _ _ _ _ => none
  | .torn => none

/-- The die whose walker serves a home: the bay's own, or the near die of a reel's stack (R4, R155, R309). -/
def TlbHome.die : TlbHome → Nat
  | .bay b => b / 4
  | .reel r => r / 3

/-- A requester joins those of a request. -/
def WalkReq.join (r : WalkReq) (a : WalkAsk) : WalkReq :=
  let same (x : WalkAsk) : Bool :=
    x.home == a.home && x.desc == a.desc && x.write == a.write && x.priv == a.priv && x.src == a.src && x.cell == a.cell
  if r.asks.any same then
    { r with asks := r.asks.map (fun x => if same x then { x with who := x.who ++ a.who.filter (fun y => !x.who.contains y) } else x) }
  else { r with asks := r.asks ++ [a] }

/-- Asks the walker for an address (R155): merged into a request of its die for the same ASID, generation and page; a full
queue of 256 leaves it waiting where it is. -/
def State.askWalk (s : State) (h : TlbHome) (w : Who) (va : Nat) (write : Bool) (src : FaultSrc) (cell area : Nat)
    (who : List Waiter) : State :=
  let a := s.asidOf (w.root va)
  let g := s.genOf a
  let ask : WalkAsk := { home := h, desc := w.desc, va := va, write := write, priv := w.priv, src := src, cell := cell,
                         area := area, who := who }
  let same (r : WalkReq) : Bool := r.die == h.die && r.asid == a && r.gen == g && r.page == va / 65536
  if s.walks.any same then { s with walks := s.walks.map (fun r => if same r then r.join ask else r) }
  else if 256 ≤ (s.walks.filter (fun r => r.die == h.die)).length then s
  else
    { s with walks := s.walks ++ [{ die := h.die, asid := a, gen := g, page := va / 65536, confirm := false, asks := [ask] }] }

/-- The translation of an address for a requester that holds translations `own` itself: the first of those that serves, else the TLB's. -/
def State.transOne (s : State) (h : TlbHome) (w : Who) (own : List TlbEnt) (write : Bool) (va : Nat) : Option TlbEnt :=
  match own.find? (fun e => s.usable e va write w) with
  | some e => some e
  | none => s.lookup h w va write

/-- Every virtual address of a list with the entry that translates it, each page on its own (R153), or the first one that misses. -/
def State.transFrom (s : State) (h : TlbHome) (w : Who) (own : List TlbEnt) (write : Bool) : List Nat → Except Nat (List (Nat × TlbEnt))
  | [] => .ok []
  | va :: vs =>
    match s.transOne h w own write va with
    | none => .error va
    | some e => (s.transFrom h w own write vs).map ((va, e) :: ·)

/-- The same for a requester that holds none. -/
def State.transEnts (s : State) (h : TlbHome) (w : Who) (write : Bool) (vas : List Nat) : Except Nat (List (Nat × TlbEnt)) :=
  s.transFrom h w [] write vas

/-- An operation of a cell keeps the translations it has found while one of its pages misses, so that those come to stand together that
its bay's edge TLB cannot hold at once (R153, R154). -/
def State.keepFound (s : State) (c id : Nat) (w : Who) (own : List TlbEnt) (write : Bool) (vas : List Nat) : State :=
  let es := (vas.filterMap (s.transOne (.bay (bayOf c)) w own write)).eraseDups
  s.modCell c (fun x => { x with pend := x.pend.map (fun o => if o.id == id then { o with pages := es } else o) })

/-- The physical address of a translated one. -/
def paOf (q : Nat × TlbEnt) : Nat := q.2.at q.1

/-- The physical address of every virtual address of a list, or the first one that misses. -/
def State.transAll (s : State) (h : TlbHome) (w : Who) (write : Bool) (vas : List Nat) : Except Nat (List Nat) :=
  (s.transEnts h w write vas).map (fun l => l.map paOf)

/-- Bytes of the context's virtual memory read or written by the hub, byte by byte through its walk; none where a
byte does not translate. -/
def State.hubRead (s : State) (d va : Nat) : Nat → Option (List Byte)
  | 0 => some []
  | n + 1 =>
    match s.hubWalk d va false with
    | none => none
    | some pa =>
      match s.hubRead d (va + 1) n with
      | none => none
      | some bs => some (s.readByte Party.reel 0 pa :: bs)

def State.hubWrite (s : State) (d va : Nat) : List Byte → Option State
  | [] => some s
  | b :: bs =>
    match s.hubWalk d va true with
    | none => none
    | some pa => (s.poke pa [b]).hubWrite d (va + 1) bs

end Sys2Proof.Machine
end

