-- ==== Sys2Proof/Machine/Order.lean ====
section
/-! DEFINITION. What holds an operation back in its queue (R239, R242 to R249): its queue's order, acquires, fences and
stream barriers, and the earlier writes a release waits for. -/

namespace Sys2Proof.Machine

open Sys2Proof

/-- Every element of a copy has been read and written. -/
def CopyProg.over (g : CopyProg) : Bool := g.left.isEmpty && g.got.isEmpty

/-- An operation that has been performed and stays listed until an answer comes: an update sent to a bridle, a program
started, a record posted, a copy whose last element has been performed or that has failed (R239). -/
def State.opPerformed (s : State) (o : PendOp) : Bool :=
  match o.kind with
  | .brSent _ => true
  | .copy _ _ _ g st _ => st != 0 || g.over
  | .rlgo r ch => (s.chanAt r ch).gos.any (fun g => g.2 == o.id)
  | .rlpost r ch _ => (s.chanAt r ch).posted.any (fun q => q.2.2.2 == o.id)
  | _ => false

/-- The acquires of R244. -/
def OpKind.acquires : OpKind → Bool
  | .flwait _ _ _ _ _ _ => true
  | .brWait _ _ _ _ _ _ => true
  | .brTest _ _ _ _ => true
  | _ => false

/-- Operations that only read. -/
def OpKind.onlyReads : OpKind → Bool
  | .gload _ _ _ _ _ _ _ => true
  | .bld _ _ _ _ => true
  | .mmt _ _ _ _ _ _ _ => true
  | .arcv _ _ _ => true
  | .mrecv _ _ tile => !tile
  | .pfg _ _ => true
  | .opnd _ _ => true
  | .rlstat _ _ _ => true
  | .gld _ _ _ _ _ => true
  | .gthaw _ _ _ => true
  | .rlload _ _ _ => true
  | k => k.acquires

/-- Operations with a read: those, atomics, and the transfers that read and write. -/
def OpKind.reads : OpKind → Bool
  | .atom _ _ _ _ _ _ _ _ => true
  | .copy _ _ _ _ _ _ => true
  | .gstr _ _ _ _ _ _ => true
  | .msend _ _ _ _ => true
  | k => k.onlyReads

def OpKind.isFence : OpKind → Bool
  | .fence _ _ _ _ _ _ => true
  | _ => false

/-- An operation is an entry of a queue of one of the paths of a mask, or of a stream of a barrier. -/
def named (mask : BitVec 7) (streams : Option (BitVec 8)) (path : Path) (que : Nat) : Bool :=
  mask.getLsbD (pathBit path) &&
    (match streams with
     | some str => decide (que < 8) && str.getLsbD que
     | none => path != .fabric || decide (que < 1024))

/-- The sender of send `k` of a group, when it has issued. -/
def Area.mcSender (a : Area) (g k : Nat) : Option McJoin := a.joins.find? (fun j => j.grp == g && j.k == k && j.role == 0)

/-- A cell that still receives send `k`: it is not the sender and has not ended without joining, nor stopped (R340). -/
def Area.mcWants (a : Area) (g k sender c : Nat) : Bool :=
  c != sender && !(((a.appAt c).ended || a.phase == .over) && decide (tget 0 (a.appAt c).nmc g ≤ k))

/-- Every cell that receives a send has landed its rows, or loads them into a bank; a cell that has not joined yet may still land
them in its tile store (R232, R243; assumption 109). -/
def Area.rowsLanded (a : Area) (j : McJoin) : Bool :=
  a.cells.all (fun c => !a.mcWants j.grp j.k j.cell c ||
    a.joins.any (fun x => x.grp == j.grp && x.k == j.k && x.cell == c && (x.role == 2 || (x.role == 1 && x.sent == x.nrow + 1))))

/-- What a cell has sent through an area before an operation has arrived: messages of area channels, rows of a multicast. -/
def Area.sentBefore (a : Area) (c id : Nat) : Bool :=
  ((a.appAt c).outq).all (fun m => decide (id < m.seq)) &&
    a.joins.all (fun j => j.cell != c || j.role != 0 || decide (id < j.op) || a.rowsLanded j)

/-- The same for every area that the cell has served: an earlier one may still run in other cells (R79, R242). -/
def State.sentBefore (s : State) (c id : Nat) : Bool := s.areas.all (fun p => p.2.sentBefore c id)

/-- An operation stands in its cell's MATRIX queue: a fetch of rows, or a send while it has global rows (R224, R237). -/
def PendOp.onMatrix (o : PendOp) : Bool :=
  o.path == .matrix || (match o.kind with | .msend _ _ _ rows => !rows.isEmpty | _ => false)

/-- Two operations are entries of one queue. -/
def PendOp.sameQueue (o e : PendOp) : Bool := (e.path == o.path && e.que == o.que) || (e.onMatrix && o.onMatrix)

/-- An operation is an entry of the FABRIC queue of a plane; what names a handle alone is no queue entry (R302). -/
def PendOp.planeEntry (o : PendOp) : Bool := o.path == .fabric && decide (o.que < 1024)

/-- A mask or barrier names a queue that an operation is an entry of. -/
def PendOp.namedBy (o : PendOp) (mask : BitVec 7) (streams : Option (BitVec 8)) : Bool :=
  named mask streams o.path o.que || (o.onMatrix && named mask streams .matrix 0)

/-- Of a cell's operations those issued before one: issue order is by identity, queue order by place (R242). -/
def earlier (l : List PendOp) (id : Nat) : List PendOp := l.filter (fun e => decide (e.id < id))

/-- The identities that a fence acts on, of the operations issued before it (R242). -/
def PendOp.fences (f : PendOp) (on : Option (Bool × List Nat)) (id : Nat) : Bool :=
  decide (id < f.id) && on.all (fun q => q.2.contains id == q.1)

/-- The condition of a fence over the operations before it that it acts on (R242, R248), those of applications that the cell has served
before among them. No held effect travels by message or multicast. -/
def State.fencePassed (s : State) (c : Nat) (before : List PendOp) (f : PendOp) : Bool :=
  match f.kind with
  | .fence pb _ scp kind streams on =>
    let mine := before.filter (fun o => !o.kind.isFence && f.fences on o.id && o.namedBy pb streams)
    let stands := s.standsAt c scp (f.fences on) (fun p => pb.getLsbD (pathBit p))
      (fun q => match streams with | some str => decide (q < 8) && str.getLsbD q | none => true)
    let sent := !(pb.getLsbD 5 && streams.isNone) || on.any (·.1) || s.sentBefore c f.id
    if kind = 0 then mine.all s.opPerformed && stands && sent
    else if kind = 1 then mine.all (fun o => s.opPerformed o || o.kind.onlyReads) && stands && sent
    else mine.all (fun o => s.opPerformed o || !o.kind.reads)
  | _ => true

/-- A fence among the earlier operations holds whatever stands in a queue it names and is of those it acts on: issued before commit, the
held effects of its own application as they are released, or all else (R242). `own` is the area whose held effect is asked about. -/
def State.fenced (s : State) (c : Nat) (onlyReads : Bool) (own : Option Nat) (names : BitVec 7 → Option (BitVec 8) → Bool) (before : List PendOp) : Bool :=
  before.any (fun f =>
    match f.kind with
    | .fence _ pa _ kind streams on =>
      on.all (fun q => q.1 == (own == some f.area)) && names pa streams && (kind != 1 || !onlyReads) && !s.fencePassed c (earlier before f.id) f
    | _ => false)

/-- The releases of R243: `brarr`, `brdrop` and `flset`, with their scope. -/
def OpKind.release : OpKind → Option Nat
  | .flset _ _ _ scp => some scp
  | .brUpd _ _ _ .arr scp => some scp
  | .brUpd _ _ _ .drop scp => some scp
  | _ => none

/-- The writes a release covers, on STREAM, TREE and PORTAL, collectives among them (R237, R243). -/
def OpKind.covered : OpKind → Bool
  | .gstore _ _ _ _ => true
  | .atom _ _ _ _ _ _ _ _ => true
  | .flset _ _ _ _ => true
  | .brUpd _ _ _ _ _ => true
  | .msend _ _ _ _ => true
  | .mrecv _ _ tile => tile
  | .coll _ => true
  | .asnd _ => true
  | .ptst _ _ => true
  | _ => false

/-- Whether a release may be performed. -/
def State.releaseHeld (s : State) (c : Nat) (before : List PendOp) (o : PendOp) : Bool :=
  match o.kind.release with
  | none => false
  | some scp =>
    !(before.all (fun e => s.opPerformed e || !e.kind.covered) && s.sentBefore c o.id &&
      s.standsAt c scp (fun id => decide (id < o.id)) (fun p => p == .stream || p == .tree || p == .portal) (fun _ => true))

/-- What the operations issued before it make of an operation: held back or not. -/
def State.heldBy (s : State) (c : Nat) (before : List PendOp) (o : PendOp) : Bool :=
  before.any (fun e => e.kind.acquires) || s.fenced c o.kind.onlyReads (if o.held then some o.area else none) o.namedBy before || s.releaseHeld c before o

/-- An earlier operation stands in the FABRIC queue of an operation's plane, which holds the operations of every cell in the order of
their issue (R237, R302). -/
def State.planeBusy (s : State) (o : PendOp) : Bool :=
  o.planeEntry && s.cells.any (fun p => p.2.pend.any (fun e => e.planeEntry && e.que == o.que && decide (e.id < o.id) && !e.kind.isFence && !s.opPerformed e))

/-- The operation at place `k` of a cell's list, when it has not been performed, stands at the head of its queue and nothing holds it back. -/
def State.ready (s : State) (c k : Nat) : Option PendOp :=
  let l := (s.cellAt c).pend
  match l[k]? with
  | none => none
  | some o =>
    if o.paused || s.opPerformed o || (l.take k).any (fun e => o.sameQueue e && !e.kind.isFence && !s.opPerformed e) || s.planeBusy o ||
        s.heldBy c (earlier l o.id) o then none
    else some o

/-- A tile-store access through stream `que` (8 for the atomic stream) would be held back as it issues: an earlier entry of its
queue is not performed, or an acquire or a fence stands before it (R237, R244, R248, R249). -/
def State.tileHeld (s : State) (que : Nat) (onlyReads : Bool) : Bool :=
  let l := (s.cellAt s.cur).pend
  l.any (fun e => e.kind.acquires || (e.path == .stream && e.que == que && !e.kind.isFence && !s.opPerformed e)) ||
    s.fenced s.cur onlyReads none (fun m st => named m st .stream que) l

/-- The operation with an identity is not held back (its queue's order aside). -/
def State.opFree (s : State) (c id : Nat) : Bool :=
  let l := (s.cellAt c).pend
  match l.find? (fun o => o.id == id) with
  | none => true
  | some o => !s.heldBy c (earlier l id) o

/-- A message of an area channel may leave: nothing issued before it holds it back. -/
def State.msgFree (s : State) (c seq : Nat) : Bool :=
  let before := (s.cellAt c).pend.filter (fun o => decide (o.id < seq))
  !(before.any (fun e => e.kind.acquires) || s.fenced c false none (fun m st => named m st .tree 2) before)

/-! ### The stage cache (R158, R159) -/

/-- The bay whose slice is home to an HBM address. -/
def homeSlice (pa : Nat) : Nat := 4 * (pa / 2 ^ 36 / 3) + pa / 4096 % 4

/-- Sets of a slice: 24 MiB in 16 ways of 128-byte lines, a line's set by its number (R158; assumption 33). -/
def sliceSets : Nat := 12288

/-- A slice with a line as an access leaves it: policy 1 allocates most, 2 least recently used, 3 uses a present line only
(R159). The least recently used of 16 gives way; a dirty one goes back to HBM. -/
def keepIn (lines : List Line) (p num : Nat) (wr : Bool) : List Line :=
  let set (l : Line) : Bool := l.num % sliceSets == num % sliceSets
  match lines.find? (fun l => l.num == num) with
  | some l =>
    let x : Line := { l with dirty := l.dirty || wr }
    if p = 1 then x :: lines.filter (fun l => l.num != num) else lines.map (fun l => if l.num == num then x else l)
  | none =>
    if p = 3 then lines
    else
      let mine := lines.filter set
      let room := if mine.length < 16 then lines else
        (match mine.getLast? with
         | some v => lines.filter (fun l => l.num != v.num)
         | none => lines)
      let x : Line := ⟨num, wr⟩
      if p = 1 then x :: room else room ++ [x]

/-- What an access of bay `b` leaves of a line, by `pol` and the page's `sc` (R158, R159): in the home slice, and a read copy
as a guest line in the bay's own. -/
def State.keepLine (s : State) (b : Option Nat) (pol sc pa : Nat) (wr : Bool) : State :=
  if Config.hbmEnd ≤ pa then s
  else
    let p := if sc = 2 then 3 else if pol = 0 then (if sc = 1 then 2 else 1) else pol
    let num := pa / 128
    let s := s.modBay (homeSlice pa) (fun x => { x with lines := keepIn x.lines p num wr })
    match b with
    | some b => if b = homeSlice pa || wr then s else s.modBay b (fun x => { x with lines := keepIn x.lines p num false })
    | none => s

/-- Counts an access to a page (R346). -/
def State.countPage (s : State) (b asid gen va : Nat) : State :=
  s.modBay b (fun x => { x with counts := tmod 0 x.counts ((asid % 1024 + gen % 16 * 1024) * 2 ^ 39 + va % 2 ^ 55 / 65536) (· + 1) })

/-- The lines that translated accesses leave, from a bay or from none (R159). -/
def State.keepLines (s : State) (b : Option Nat) (pol : Nat) (wr : Bool) (l : List (Nat × TlbEnt)) : State :=
  ((l.map (fun q => (paOf q / 128, q.2.sc))).eraseDups).foldl (fun s q => s.keepLine b pol q.2 (128 * q.1) wr) s

/-- What translated accesses leave in bay `b`: uses of its TLB's entries (R154), and lines (R159). An access that its stream register's own entry
serves counts as a use of that entry where the TLB holds it too (assumption 111, DESIGN CHOICE). -/
def State.touched (s : State) (b pol : Nat) (wr : Bool) (l : List (Nat × TlbEnt)) : State :=
  (s.useTlb (.bay b) (l.map (·.2)).eraseDups).keepLines (some b) pol wr l

/-- What translated accesses leave that come from no bay, a reel's or the hub's: uses of the TLB's entries, and lines of home slices. -/
def State.touchedHome (s : State) (h : TlbHome) (wr : Bool) (l : List (Nat × TlbEnt)) : State :=
  (s.useTlb h (l.map (·.2)).eraseDups).keepLines none 0 wr l

/-- Every byte of a run of a context's virtual memory with the entry that the hub's walk finds for it. -/
def State.hubEnts (s : State) (d : Nat) (write : Bool) : List Nat → Option (List (Nat × TlbEnt))
  | [] => some []
  | va :: vs =>
    match s.walk [] ⟨d, false⟩ va write with
    | .ok e => (s.hubEnts d write vs).map ((va, e) :: ·)
    | .bad _ _ _ _ => none
    | .torn => none

/-- The same for a copy, a matrix fetch or a global stream, which count once for each page (R346). -/
def State.accessed (s : State) (b : Nat) (w : Who) (pol : Nat) (wr : Bool) (l : List (Nat × TlbEnt)) : State :=
  ((l.map (fun q => q.1 / 65536)).eraseDups).foldl (fun s p =>
    let a := s.asidOf (w.root (65536 * p))
    s.countPage b a (s.genOf a) (65536 * p)) (s.touched b pol wr l)

end Sys2Proof.Machine
end

