-- ==== Sys2Proof/Machine/Tiles.lean ====
section
/-! DEFINITION. Symbol words (R9 to R12), tiles as values (R18 to R22), and the bytes of a tile store. -/

namespace Sys2Proof.Machine

open Sys2Proof

/-! ### Symbol words (R9, R10) -/

def symTag (w : Word) : Nat := (w.extractLsb' 60 4).toNat
def tagNIL : Nat := 0
def tagOPEN : Nat := 1
def tagCLOSE : Nat := 2
def tagSEQ : Nat := 3
def tagEND : Nat := 4
def tagOPER : Nat := 5
def tagINT : Nat := 6
def tagFLT : Nat := 7
def tagTILE : Nat := 8
def tagARRAY : Nat := 9
def tagTOKEN : Nat := 10
def tagFLAG : Nat := 11
def tagSPILL : Nat := 12
def tagERROR : Nat := 13

/-- A word of a tag with a payload. -/
def symWord (tag payload : Nat) : Word := BitVec.ofNat 64 (tag * 2 ^ 60 + payload % 2 ^ 60)

def symNil : Word := symWord 0 0
def symOpen : Word := symWord 1 0
def symHeld : Word := symWord 1 (2 ^ 59)
def symClose : Word := symWord 2 0
def symSeq : Word := symWord 3 0
def symEnd : Word := symWord 4 0
def symOper (sys : Bool) (id parm : Nat) : Word :=
  symWord 5 ((if sys then 2 ^ 59 else 0) + id % 2 ^ 20 * 2 ^ 32 + parm % 2 ^ 32)
def symInt (i : Int) : Word := symWord 6 (wrapNat 60 i)
def symToken (tid : Nat) : Word := symWord 10 tid
def symSpill (count word : Nat) : Word := symWord 12 (count * 2 ^ 40 + word)
def symError (code rec : Nat) : Word := symWord 13 (code * 2 ^ 48 + rec % 2 ^ 32)

def errDOMAIN : Nat := 1
def errRANGE : Nat := 2
def errBADOP : Nat := 3
def errOPRSV : Nat := 4
def errOPUNDEF : Nat := 5
def errPRIV : Nat := 6
def errMALAPP : Nat := 7
def errTRAP : Nat := 8
def errFAULTED : Nat := 9
def errTILEWR : Nat := 10

def isHeld (w : Word) : Bool := symTag w == tagOPEN && w.getLsbD 59
def isLiveOpen (w : Word) : Bool := symTag w == tagOPEN && !w.getLsbD 59
def isOpener (w : Word) : Bool := symTag w == tagOPEN || symTag w == tagSEQ
def isCloser (w : Word) : Bool := symTag w == tagCLOSE || symTag w == tagEND
def operSys (w : Word) : Bool := w.getLsbD 59
def operId (w : Word) : Nat := (w.extractLsb' 32 20).toNat
def operParm (w : Word) : BitVec 32 := w.extractLsb' 0 32
def tokId (w : Word) : Nat := (w.extractLsb' 0 16).toNat
def flagIdx (w : Word) : Nat := (w.extractLsb' 0 16).toNat
def flagExp (w : Word) : BitVec 32 := w.extractLsb' 16 32
def spillCount (w : Word) : Nat := (w.extractLsb' 40 20).toNat
def spillWord (w : Word) : Nat := (w.extractLsb' 0 40).toNat
def intVal (w : Word) : Int := (w.extractLsb' 0 60).toInt

/-- `TILE` fields: columns and rows (not minus 1), format, length, offset. -/
def tileCols (w : Word) : Nat := (w.extractLsb' 51 9).toNat + 1
def tileRows (w : Word) : Nat := (w.extractLsb' 42 9).toNat + 1
def tileFmt (w : Word) : Nat := (w.extractLsb' 38 4).toNat
def tileLen (w : Word) : Nat := (w.extractLsb' 19 19).toNat
def tileOff (w : Word) : Nat := (w.extractLsb' 0 19).toNat
def tileWord (cols rows fmt len off : Nat) : Word :=
  symWord 8 ((cols - 1) % 512 * 2 ^ 51 + (rows - 1) % 512 * 2 ^ 42 + fmt % 16 * 2 ^ 38 + len % 2 ^ 19 * 2 ^ 19 + off % 2 ^ 19)
def isTile (w : Word) : Bool := symTag w == tagTILE
/-- The same handle at another offset (R21, R93: only `toff` changes). -/
def withOff (w : Word) (off : Nat) : Word := BitVec.ofNat 64 (w.toNat / 2 ^ 19 * 2 ^ 19 + off % 2 ^ 19)

def isBX (ty : Nat) : Bool := ty = 9 || ty = 11

/-- Element bytes, header bytes and footprint of a tile (R11). -/
def elemBytes (fmt rows cols : Nat) : Nat := rows * cols * tyWidth fmt / 8
def hdrBytes (fmt rows cols : Nat) : Nat := if isBX fmt then 4 * rows * cols / 32 else 0
def footprint (fmt rows cols : Nat) : Nat := alignUp (elemBytes fmt rows cols + hdrBytes fmt rows cols) 32

/-- The formats a tile may have (R11). -/
def tileTy (t : Nat) : Bool := [0, 1, 2, 4, 5, 6, 7, 8, 9, 11, 12, 13, 14].contains t

/-- R11 for a handle. -/
def tileOk (w : Word) : Bool :=
  tileTy (tileFmt w) && tileOff w % 32 == 0 && decide (tileOff w + tileLen w ≤ Config.tileBytes) &&
    tileLen w == footprint (tileFmt w) (tileRows w) (tileCols w) && (!isBX (tileFmt w) || tileCols w % 32 == 0)

/-- R12: a malformed symbol. -/
def malformed (w : Word) : Bool :=
  let t := symTag w
  let z (h l : Nat) : Bool := bits w.toNat h l == 0
  if t = 0 || t = 2 || t = 3 || t = 4 then !z 59 0
  else if t = 1 then !z 58 0
  else if t = 5 then !z 58 52
  else if t = 6 then false
  else if t = 7 then !z 59 36 || !([4, 5, 6, 7, 8].contains (bits w.toNat 35 32))
  else if t = 8 then !tileOk w
  else if t = 9 then false
  else if t = 10 then !z 59 16
  else if t = 11 then !z 59 48
  else if t = 12 then false
  else if t = 13 then !z 47 32
  else true

/-! ### Tiles of a cell (R18 to R20, R116) -/

/-- The live run that starts at an offset, and the one that holds a byte. -/
def Cell.runAt (c : Cell) (off : Nat) : Option TileRun := c.tiles.find? (fun r => r.off == off)
def Cell.runOver (c : Cell) (a n : Nat) : Option TileRun :=
  c.tiles.find? (fun r => decide (r.off ≤ a) && decide (a + n ≤ r.off + r.len))

/-- The share count of a tile: symbols of its cell that name it (R19). -/
def Cell.shares (c : Cell) (off : Nat) : Nat := (c.slots.filter (fun w => isTile w && tileOff w == off)).length

/-- Operand symbols of an area, in order, and those a cell holds with their operand positions. -/
def Area.operand (a : Area) : List SymAt := (a.syms.drop a.opPos).take a.opLen
def Area.operandIn (a : Area) (c : Nat) : List (Nat × SymAt) :=
  ((upto 0 a.opLen).zip a.operand).filter (fun p => p.2.cell == c)

/-- The tile at `off` is named by an operand symbol held in cell `c`. -/
def Area.namesTile (a : Area) (c off : Nat) : Bool :=
  a.operand.any (fun y => y.cell == c && isTile y.word && tileOff y.word == off)

/-- A tile the acting application may read (R162): an operand tile of its cell or one it allocated. -/
def State.mayRead (s : State) (r : TileRun) : Bool :=
  r.alloc == some s.here || s.area.namesTile s.cur r.off

/-- What R18 makes of a write to a tile. -/
inductive WriteFate where
  | ok
  | trap
  | tileWr
  deriving DecidableEq, Repr

def State.mayWrite (s : State) (r : TileRun) : WriteFate :=
  if r.alloc == some s.here then .ok
  else if !s.app.cmt then .trap
  else if (s.cellAt s.cur).shares r.off ≤ 1 then .ok
  else .tileWr

/-- The class the model gives the end of an application by a post-commit write to a shared operand tile (R18); the
application is rewritten to `err.TILEWR` and no trap record is written. -/
def clsTileWr : Nat := 100

/-- The outcome of a refused tile write at issue. -/
def WriteFate.res (f : WriteFate) (k : Res) : Res :=
  match f with
  | .ok => k
  | .trap => .trap clsTileWrite 0 0
  | .tileWr => .trap clsTileWr 0 0

/-- Bytes of the acting cell's tile store. -/
def Cell.tread (c : Cell) (off n : Nat) : List Byte := tgetRun 0 c.ts off n
def Cell.twrite (c : Cell) (off : Nat) (bs : List Byte) : Cell :=
  { c with ts := tsetRun 0 c.ts off bs, bad := c.bad.filter (fun p => !(off ≤ p && p < off + bs.length)) }

/-- Zeroes a run of tile-store bytes. -/
def Cell.tzero (c : Cell) (off n : Nat) : Cell :=
  { c with ts := c.ts.filter (fun e => !(off ≤ e.1 && e.1 < off + n)),
           bad := c.bad.filter (fun p => !(off ≤ p && p < off + n)) }

/-- The lowest multiple of 32 that starts a free run of `len` bytes (R190); none when there is no such run. -/
def Cell.freeRun (c : Cell) (len : Nat) : Option Nat :=
  let cand := (0 :: c.tiles.map (fun r => alignUp (r.off + r.len) 32)).filter (fun o =>
    decide (o + len ≤ Config.tileBytes) && c.tiles.all (fun r => decide (o + len ≤ r.off) || decide (r.off + r.len ≤ o)))
  cand.foldl (fun b o => match b with | none => some o | some m => some (min m o)) none

/-- Frees a live run: nothing of its bytes is zeroed until it is allocated again (R190). -/
def Cell.freeTile (c : Cell) (off : Nat) : Cell := { c with tiles := c.tiles.filter (fun r => r.off != off) }

/-- Changes the run at an offset. -/
def Cell.modRun (c : Cell) (off : Nat) (f : TileRun → TileRun) : Cell :=
  { c with tiles := c.tiles.map (fun r => if r.off == off then f r else r) }

/-- Pins and unpins the run that holds a byte (R116). -/
def Cell.pinOver (c : Cell) (a n : Nat) : Cell :=
  match c.runOver a n with
  | none => c
  | some r => c.modRun r.off (fun x => { x with pin := x.pin + 1 })

def Cell.unpinOver (c : Cell) (a n : Nat) : Cell :=
  match c.runOver a n with
  | none => c
  | some r => c.modRun r.off (fun x => { x with pin := x.pin - 1 })

end Sys2Proof.Machine
end

