-- ==== Sys2Proof/Machine/Operands.lean ====
section
/-! DEFINITION. Every operand form: lanes of vector registers (R126, R199, R204), shape records and stream addressing
(R163 to R168, R171, R224), and the checks of R166. -/

namespace Sys2Proof.Machine

open Sys2Proof

/-! ### Lanes -/

/-- The `n` fields of `w` bits of a number, lowest first, and their join. -/
def splitN (w : Nat) : Nat → Nat → List Nat
  | 0, _ => []
  | n + 1, x => x % 2 ^ w :: splitN w n (x / 2 ^ w)

def joinN (w : Nat) : List Nat → Nat
  | [] => 0
  | x :: xs => x % 2 ^ w + 2 ^ w * joinN w xs

def VecVal.lanes (w : Nat) (x : VecVal) : List Nat := splitN w (1024 / w) x.bits.toNat
def VecVal.hdrs (x : VecVal) : List Nat := splitN 32 8 x.side.toNat

/-- A register from its lanes, side word zero (R94). -/
def VecVal.ofLanes (w : Nat) (l : List Nat) : VecVal := { bits := BitVec.ofNat 1024 (joinN w l), side := 0 }
def VecVal.ofBX (w : Nat) (l hd : List Nat) : VecVal :=
  { bits := BitVec.ofNat 1024 (joinN w l), side := BitVec.ofNat 256 (joinN 32 hd) }

/-- The lanes of a lanewise result under a guard: an inactive lane keeps the old value (R109). -/
def mergeLanes (mask : BitVec 256) : Nat → List Nat → List Nat → List Nat
  | i, o :: os, n :: ns => (if mask.getLsbD i then n else o) :: mergeLanes mask (i + 1) os ns
  | _, _, _ => []

/-- Lists of the same index applied together. -/
def zip2 (f : Nat → Nat → Nat) : List Nat → List Nat → List Nat
  | a :: as, b :: bs => f a b :: zip2 f as bs
  | _, _ => []

/-- A mask from its lowest bits. -/
def maskOf : List Bool → Nat
  | [] => 0
  | b :: bs => (if b then 1 else 0) + 2 * maskOf bs

def maskBits (l : List Bool) : BitVec 256 := BitVec.ofNat 256 (maskOf l)

/-! ### Shape records (R163, R164) -/

def ShapeRec.extN (r : ShapeRec) (k : Nat) : Nat := (tget 0 r.ext k).toNat
def ShapeRec.strI (r : ShapeRec) (k : Nat) : Int := (tget 0 r.str k).toInt
def ShapeRec.ty (r : ShapeRec) : Nat := r.ety.toNat

/-- A record read from its 64 bytes. -/
def ShapeRec.ofBytes (bs : List Byte) : ShapeRec × Bool :=
  let rd (o n : Nat) : Nat := leNat ((bs.drop o).take n)
  let tbl (o : Nat) : Tbl (BitVec 32) := tsetRun 0 [] 0 ((upto 0 5).map (fun k => BitVec.ofNat 32 (rd (o + 4 * k) 4)))
  ({ base := BitVec.ofNat 64 (rd 0 8), ety := BitVec.ofNat 4 (rd 8 1), ndim := rd 9 1, baxis := BitVec.ofNat 8 (rd 10 1),
     bnd := BitVec.ofNat 8 (rd 11 1), ts := rd 12 1 % 2 == 1, ext := tbl 16, str := tbl 36,
     hdr := BitVec.ofNat 64 (rd 56 8) },
   rd 8 1 < 16 && rd 12 1 < 2 && rd 13 3 == 0)

/-- An element's place: a byte address with the shift of a nibble, or out of range under a bounds mode. -/
inductive Loc where
  | at (a : Int) (sh : Nat)
  | zero
  | poison
  deriving DecidableEq, Repr

/-- The index of dimension `k` of a tuple; 0 beyond the tuple. -/
def ix (t : List Int) (k : Nat) : Int := t.getD k 0

/-- In range in every dimension below `ndim` (R164). -/
def ShapeRec.inRange (r : ShapeRec) (t : List Int) : Bool :=
  (upto 0 r.ndim).all (fun k => decide (0 ≤ ix t k) && decide (ix t k < r.extN k))

/-- Each index clamped into its extent (R167). -/
def ShapeRec.clampIx (r : ShapeRec) (t : List Int) : List Int :=
  (upto 0 5).map (fun k => if k < r.ndim then max 0 (min (ix t k) ((r.extN k : Int) - 1)) else 0)

/-- The byte address and nibble shift of an in-range element (R163, R164). -/
def ShapeRec.addr (r : ShapeRec) (t : List Int) : Int × Nat :=
  let bx := r.ty = 9
  let sum := (upto 0 r.ndim).foldl (fun a k =>
    if bx && r.baxis.toNat = k then a + ix t k / 2 else a + ix t k * r.strI k) (r.base.toNat : Int)
  (sum, if bx && ix t r.baxis.toNat % 2 != 0 then 4 else 0)

/-- The header address of the block that holds an element (R164). -/
def ShapeRec.hdrAddr (r : ShapeRec) (t : List Int) : Int :=
  let b := r.baxis.toNat
  let (lin, _) := (upto 0 r.ndim).foldl (fun (p : Int × Nat) k =>
    let i := if k = b then ix t k / 32 else ix t k
    let e := if k = b then r.extN k / 32 else r.extN k
    (p.1 + i * p.2, p.2 * e)) ((0 : Int), 1)
  (r.hdr.toNat : Int) + 4 * lin

/-- Where an element lies under the record's bounds mode (R167). -/
def ShapeRec.loc (r : ShapeRec) (t : List Int) : Loc :=
  if r.inRange t then .at (r.addr t).1 (r.addr t).2
  else if r.bnd == 2 then
    let t' := r.clampIx t
    if r.inRange t' then .at (r.addr t').1 (r.addr t').2 else .zero
  else if r.bnd == 1 then .zero
  else .poison

/-- The tuple whose header serves an element: clamped under `clamp`. -/
def ShapeRec.eff (r : ShapeRec) (t : List Int) : List Int := if r.inRange t then t else r.clampIx t

/-! ### Cursors (R171) -/

def StreamReg.cursor (x : StreamReg) (k : Nat) : Int := ((tget 0 x.cur k).toNat : Int)

/-- The tuple (c0 + e, c1, …, c4). -/
def StreamReg.tuple (x : StreamReg) (e : Int) : List Int :=
  [x.cursor 0 + e, x.cursor 1, x.cursor 2, x.cursor 3, x.cursor 4]

/-- The tuple of row q (R224): (c0 + j, c1 + q, c2, c3, c4). -/
def StreamReg.rowTuple (x : StreamReg) (j q : Nat) : List Int :=
  [x.cursor 0 + j, x.cursor 1 + q, x.cursor 2, x.cursor 3, x.cursor 4]

/-- Advance(a, k, n) of R171. -/
def StreamReg.advance (x : StreamReg) (k : Nat) (n : Int) : StreamReg :=
  let dims := (upto 0 x.rc.ndim).filter (fun j => decide (k ≤ j))
  let (v, p) := dims.foldl (fun (q : Int × Nat) j => (q.1 + x.cursor j * q.2, q.2 * x.rc.extN j)) ((0 : Int), 1)
  let v0 : Nat := ((v + n) % (p : Int)).toNat
  let (cur, _) := dims.foldl (fun (q : Tbl (BitVec 32) × Nat) j =>
    (tset 0 q.1 j (BitVec.ofNat 32 (q.2 % x.rc.extN j)), q.2 / x.rc.extN j)) (x.cur, v0)
  { x with cur := cur }

/-- A trap an access would take: class, sub-cause, information. -/
structure Bad where
  cls  : Nat
  sub  : Nat
  info : Word
  deriving DecidableEq, Repr

def Bad.res (b : Bad) : Res := .trap b.cls b.sub b.info

/-- What spaces an instruction accepts (R170). -/
inductive Accepts where
  | tile
  | global
  | either
  deriving DecidableEq, Repr

/-- Checks 1 to 4 of R166 on a stream for type `ty`, whose first index along the block axis is `i0`; `axis` is what
check 4 reports (FIELD, or AXIS for the matrix unit, R223). -/
def streamCheck (x : StreamReg) (acc : Accepts) (ty : Nat) (i0 : Int) (axis : Bad) : Option Bad :=
  if !x.valid then some ⟨clsShape, 1, 0⟩
  else if (acc == .tile && !x.rc.ts) || (acc == .global && x.rc.ts) then some ⟨clsShape, 7, 0⟩
  else if tyWidth ty != tyWidth x.rc.ty || isBX ty != isBX x.rc.ty then some ⟨clsShape, 6, 0⟩
  else if isBX ty && x.rc.baxis != 0 then some axis
  else if isBX ty && i0 % 32 != 0 then some ⟨clsMemory, 2, 0⟩
  else none

/-- FIELD, what check 4 of R166 reports outside the matrix unit. -/
def badFIELD : Bad := ⟨clsShape, 2, 0⟩

/-- Whether every address of a list obeys R146 (check 5): the first that does not. -/
def addrCheck (priv : Bool) (as : List Int) : Option Bad :=
  match as.find? (fun a => !(decide (0 ≤ a) && vaOk priv a.toNat)) with
  | some a => some ⟨clsMemory, 3, BitVec.ofInt 64 a⟩
  | none => none

/-- The first address that is not a multiple of the element size (R169). -/
def alignCheck (bytes : Nat) (as : List Int) : Option Bad :=
  match as.find? (fun a => a % (bytes : Int) != 0) with
  | some a => some ⟨clsMemory, 2, BitVec.ofInt 64 a⟩
  | none => none

/-- An element of an access: its lane, its tuple. -/
structure LaneAt where
  lane : Nat
  tup  : List Int
  deriving DecidableEq, Repr

/-- The active lanes of a vector access with their tuples. -/
def laneTuples (x : StreamReg) (o : Int) (n : Nat) (mask : BitVec 256) : List LaneAt :=
  ((upto 0 n).filter (fun j => mask.getLsbD j)).map (fun j => ⟨j, x.tuple (o + j)⟩)

/-- The blocks an access touches: those with an active lane (R172). -/
def laneBlocks (ls : List LaneAt) : List LaneAt :=
  ls.foldl (fun acc l => if acc.any (fun b => b.lane / 32 == l.lane / 32) then acc else acc ++ [l]) []

/-- The byte addresses an access forms: in-range elements and the headers of their blocks. -/
def formed (r : ShapeRec) (ls : List LaneAt) : List Int :=
  (ls.filterMap (fun l => match r.loc l.tup with | .at a _ => some a | _ => none)) ++
    (if isBX r.ty then (laneBlocks ls).filterMap (fun l => match r.loc l.tup with
      | .at _ _ => some (r.hdrAddr (r.eff l.tup))
      | _ => none) else [])

/-- The element reads of a load into lanes of width `w`, headers at bit 1,024 and up; the value of every active lane
that is out of range; and whether poison was produced (R167). -/
def loadPlan (r : ShapeRec) (ty : Nat) (ls : List LaneAt) (old : VecVal) : VecVal × List ElRead × Bool :=
  let w := tyWidth ty
  let fill := ls.foldl (fun (l : List Nat) a => match r.loc a.tup with
    | .at _ _ => l
    | .zero => l.set a.lane 0
    | .poison => l.set a.lane (if isBX ty then 0 else poison ty)) (old.lanes w)
  let els := ls.filterMap (fun a => match r.loc a.tup with
    | .at p sh => some ({ pos := a.lane * w, bits := w, va := p.toNat, sh := sh } : ElRead)
    | _ => none)
  let pz := ls.any (fun a => r.loc a.tup == .poison)
  if isBX ty then
    let bl := laneBlocks ls
    let hs := bl.foldl (fun (l : List Nat) a => l.set (a.lane / 32) 0) old.hdrs
    let hs := hs.zip (upto 0 8) |>.map (fun p => if p.2 < 1024 / w / 32 then p.1 else 0)
    let hel := bl.filterMap (fun a => match r.loc a.tup with
      | .at _ _ => some ({ pos := 1024 + 32 * (a.lane / 32), bits := 32, va := (r.hdrAddr (r.eff a.tup)).toNat, sh := 0 } : ElRead)
      | _ => none)
    (VecVal.ofBX w fill hs, els ++ hel, pz)
  else (VecVal.ofLanes w fill, els, pz)

/-- The element writes of a store from a register (R172, R174): out-of-range elements are dropped. -/
def storePlan (r : ShapeRec) (ty : Nat) (ls : List LaneAt) (v : VecVal) : List ElWrite × Bool :=
  let w := tyWidth ty
  let lv := v.lanes w
  let els := ls.filterMap (fun a => match r.loc a.tup with
    | .at p sh => some ({ va := p.toNat, bits := w, sh := sh, val := lv.getD a.lane 0 } : ElWrite)
    | _ => none)
  let hel := if isBX ty then (laneBlocks ls).filterMap (fun a => match r.loc a.tup with
      | .at _ _ => some ({ va := (r.hdrAddr (r.eff a.tup)).toNat, bits := 32, sh := 0, val := v.hdrs.getD (a.lane / 32) 0 } : ElWrite)
      | _ => none) else []
  (els ++ hel, ls.any (fun a => r.loc a.tup == .poison))

/-- Bytes an element takes. -/
def elBytes (bits : Nat) : Nat := max 1 (bits / 8)

/-- Lays read values over a register image of 1,280 bits (R172): `(pos, bits, value)`. -/
def overlay (v : VecVal) (xs : List (Nat × Nat × Nat)) : VecVal :=
  let img := v.bits.toNat + v.side.toNat * 2 ^ 1024
  let put (i : Nat) (e : Nat × Nat × Nat) : Nat :=
    let lo := i % 2 ^ e.1
    let hi := i / 2 ^ (e.1 + e.2.1)
    lo + e.2.2 % 2 ^ e.2.1 * 2 ^ e.1 + hi * 2 ^ (e.1 + e.2.1)
  let r := xs.foldl put img
  { bits := BitVec.ofNat 1024 r, side := BitVec.ofNat 256 (r / 2 ^ 1024) }

/-- Delivers poison for the elements whose bytes hold an uncorrectable error (R380): their bit positions and type. -/
def poisonEls (v : VecVal) (ty : Nat) (xs : List ElRead) : VecVal :=
  if isBX ty then
    overlay v ((xs.map (fun e => (1024 + 32 * ((if 1024 ≤ e.pos then (e.pos - 1024) / 32 else e.pos / tyWidth ty / 32)), 32, 511 + 511 * 512))))
  else overlay v (xs.map (fun e => (e.pos, e.bits, poison ty)))

/-! ### Tile-store element access -/

/-- Reads elements from a tile store into a register image; an element with a bad byte is poison (R380). -/
def Cell.loadEls (c : Cell) (ty : Nat) (base : VecVal) (els : List ElRead) : VecVal × Bool :=
  let v := overlay base (els.map (fun e => (e.pos, e.bits, leNat (c.tread e.va (elBytes e.bits)) / 2 ^ e.sh)))
  let bd := els.filter (fun e => c.bad.any (fun p => decide (e.va ≤ p) && decide (p < e.va + elBytes e.bits)))
  if bd.isEmpty then (v, false) else (poisonEls v ty bd, true)

/-- Writes one element; a nibble keeps its neighbour (R163). -/
def Cell.storeEl (c : Cell) (e : ElWrite) : Cell :=
  if e.bits < 8 then
    let b := (tget 0 c.ts e.va).toNat
    let b' := if e.sh = 0 then b / 16 * 16 + e.val % 16 else b % 16 + e.val % 16 * 16
    c.twrite e.va [BitVec.ofNat 8 b']
  else c.twrite e.va (leBytes (elBytes e.bits) e.val)

def Cell.storeEls (c : Cell) (es : List ElWrite) : Cell := es.foldl Cell.storeEl c

/-! ### Rows of the matrix unit and of multicast (R224) -/

/-- The lanes of row `q` of a stream: beyond `ext0` they are padding, not out of range. -/
def rowLanes (x : StreamReg) (ty q : Nat) : List LaneAt × List Nat :=
  let n := 1024 / tyWidth ty
  let inn : List Nat := (upto 0 n).filter (fun (j : Nat) => decide (x.cursor 0 + (j : Int) < (x.rc.extN 0 : Int)))
  (inn.map (fun j => ⟨j, x.rowTuple j q⟩), (upto 0 n).filter (fun j => !inn.contains j))

/-- The base value and element reads of row `q`; padded lanes and headers are zero. -/
def rowPlan (x : StreamReg) (ty q : Nat) : RowRead × Bool :=
  let (b, els, pz) := loadPlan x.rc ty (rowLanes x ty q).1 VecVal.zero
  (⟨b, els, pz⟩, pz)

/-- A tile-store row has every unpadded index in range (R224). -/
def rowInRange (x : StreamReg) (ty q : Nat) : Bool := (rowLanes x ty q).1.all (fun l => x.rc.inRange l.tup)

end Sys2Proof.Machine
end

