-- ==== Sys2Proof/Machine/AreaOps.lean ====
section
/-! DEFINITION. What an area root does for its cells: traps raised in other cells (R134, R139), the ends of the
applications (R132, R144), commit (R141, R142), and the links and buffers of multicast (R266). -/

namespace Sys2Proof.Machine

open Sys2Proof

/-- The instruction word at a cell's index in an area. -/
def State.wordIn (s : State) (i c pc : Nat) : Word :=
  match (s.areaAt i).tagIn (s.cellAt c) with
  | some t => t.code.getD pc 0
  | none => 0

/-- Raises a trap in cell `c` of area `i`; a trap already standing there stays. -/
def State.raiseTrapIn (s : State) (i c cls sub : Nat) (info : Word) (fseq : Option (BitVec 32)) : State :=
  let a := s.appOf i c
  match a.trap with
  | some _ => s
  | none => s.putAppOf i c { a with trap := some { cls := cls, sub := sub, pc := a.pc, word := s.wordIn i c a.pc,
                                                    info := info, fseq := fseq } }

/-- Raises an area trap in every running cell that has not ended (R134, R139). -/
def State.raiseAll (s : State) (i cls sub : Nat) : State :=
  (s.areaAt i).cells.foldl (fun s c => if (s.appOf i c).ended then s else s.raiseTrapIn i c cls sub 0 none) s

/-- A word list closes no more than it opens and its brackets match in kind (R12, R132). -/
def bracketed : List Nat → List Word → Bool
  | st, [] => st.isEmpty
  | st, w :: ws =>
    let t := symTag w
    if t = 1 || t = 3 then bracketed (t :: st) ws
    else if t = 2 then (match st with | 1 :: r => bracketed r ws | _ => false)
    else if t = 4 then (match st with | 3 :: r => bracketed r ws | _ => false)
    else bracketed st ws

/-- The messages that an application has sent are taken by nobody any longer: its sends are over. -/
def State.endSends (s : State) (i : Nat) : State :=
  (s.areaAt i).cells.foldl (fun s c =>
    ((s.cellAt c).pend.filter (fun o => o.area == i && (match o.kind with | .asnd _ => true | _ => false))).foldl
      (fun s o => s.opDone c o [] 0 0 false) s) s

/-- The last running cell reaches `end`: messages buffered or in flight are discarded (R138). A detached `asnd` whose message goes with them is over
(assumption 111, DESIGN CHOICE). -/
def State.dropMessages (s : State) (i : Nat) : State :=
  (s.endSends i).modArea i (fun a => { a with apps := a.apps.map (fun p => (p.1, { p.2 with recvq := [], outq := [] })) })

/-- The replacement: the out-slot buffers in `x.AIDX` order (R132). -/
def Area.replacement (a : Area) : List OutSym := a.cells.flatMap (fun c => (a.appAt c).out)

def Area.allEnded (a : Area) : Bool := a.cells.all (fun c => (a.appAt c).ended)

/-- Some running cell has a trap, or a page fault that voids (R337). -/
def Area.trapped (a : Area) : Bool :=
  a.cells.any (fun c => (a.appAt c).trap.isSome || (!a.cmt && (a.appAt c).fault.isSome))

/-- R132 and R144: when the last cell has ended, a committed application is over and its replacement waits for S. -/
def State.settleEnd (s : State) (i : Nat) : State :=
  let a := s.areaAt i
  if a.live && a.phase == .running && a.cmt && a.allEnded && !a.trapped then
    s.putArea i { a with phase := .over, fate := .replaced }
  else s

/-- The commit condition of R141. -/
def Area.commitDue (a : Area) : Bool :=
  a.cells.all (fun c => (a.appAt c).cmtReq || (a.appAt c).ended) || a.cells.any (fun c => (a.appAt c).force)

/-- R142 in one cell: `x.CMT`[0] := 1, and its held effects enter their queues in issue order, which is their identities' (R242). -/
def State.commitCell (s : State) (i c : Nat) : State :=
  let a := s.appOf i c
  let ops := a.ballast.map (·.op)
  let s := s.putAppOf i c { a with cmt := true, force := false, ballast := [] }
  let s := s.sent (s.areaAt i).desc (ops.filter (fun o => o.kind.counted)).length
  s.modCell c (fun x => { x with pend := x.pend ++ ops })

/-- Commit of a whole application (R141). -/
def State.commitArea (s : State) (i : Nat) : State :=
  let s := (s.areaAt i).cells.foldl (fun s c => s.commitCell i c) s
  (s.modArea i (fun a => { a with cmt := true })).settleEnd i

/-- Some cell issued a collective that an ended cell never did (R134). -/
def Area.collShort (a : Area) : Bool :=
  a.cells.any (fun c => (a.appAt c).ended && a.cells.any (fun d => (a.appAt c).ncoll < (a.appAt d).ncoll))

/-! ### The tree of a multicast (R232, R233, R266) -/

/-- The root of an area: level and node of the lowest node whose range holds its first and last cell (R73). -/
def rootLevel : Nat → Nat → Nat → Nat
  | 0, _, _ => 0
  | n + 1, f, l => if f = l then 0 else rootLevel n (f / 2) (l / 2) + 1

def Area.level (a : Area) : Nat := rootLevel 14 a.first a.last
def Area.rootNode (a : Area) : Nat := a.first / 2 ^ a.level

/-- The link above a node is served for a send (R266). -/
def Area.served (a : Area) (g k sender level node : Nat) : Bool :=
  a.cells.any (fun c => c / 2 ^ level == node && a.mcWants g k sender c)

/-- A link with its buffer. -/
def Area.bufOf (a : Area) (g level node : Nat) : McBuf :=
  (a.bufs.find? (fun b => b.grp == g && b.level == level && b.node == node)).getD
    { level := level, node := node, grp := g, rows := [], send := none, window := 0 }

def Area.putBuf (a : Area) (b : McBuf) : Area :=
  { a with bufs := b :: a.bufs.filter (fun x => !(x.grp == b.grp && x.level == b.level && x.node == b.node)) }

/-- A node's children links that are served for a send. -/
def Area.mcBelow (a : Area) (g k sender level node : Nat) : List Nat :=
  if level = 0 then [] else ([2 * node, 2 * node + 1]).filter (fun n => a.served g k sender (level - 1) n)

/-- A row still stands in its buffer: its link serves its send, and a served link below has not taken it. -/
def Area.mcStands (a : Area) (b : McBuf) (r : McRow) : Bool :=
  match a.mcSender b.grp r.send with
  | none => false
  | some j => a.served b.grp r.send j.cell b.level b.node &&
      (b.level == 0 || !(a.mcBelow b.grp r.send j.cell b.level b.node).all (fun n => r.taken.contains n))

/-- The link serves the send it counts for. -/
def Area.mcServes (a : Area) (b : McBuf) : Bool :=
  match b.send with
  | none => false
  | some k => (match a.mcSender b.grp k with | some j => a.served b.grp k j.cell b.level b.node | none => false)

/-- A send of `total` rows reaches the upper ends of links: their counts start (R266). -/
def Area.mcReach (a : Area) (g level k total : Nat) (nodes : List Nat) : Area :=
  nodes.foldl (fun a n =>
    let b := a.bufOf g level n
    if b.send == some k then a else a.putBuf { b with send := some k, window := total }) a

/-- The row of a buffer that the link to its child `n` takes next: the first it serves and has not taken. -/
def Area.mcNext (a : Area) (b : McBuf) (n : Nat) : Option McRow :=
  b.rows.find? (fun r => !r.taken.contains n &&
    (match a.mcSender b.grp r.send with | some j => a.served b.grp r.send j.cell (b.level - 1) n | none => false))

/-- The links below a buffer whose next row is the first of a send are reached by that send. -/
def Area.mcReached (a : Area) (g level node : Nat) : Area :=
  if level = 0 then a
  else
    ([2 * node, 2 * node + 1]).foldl (fun (a : Area) n =>
      match a.mcNext (a.bufOf g level node) n with
      | none => a
      | some r =>
        match a.mcSender g r.send with
        | none => a
        | some j => a.mcReach g (level - 1) r.send (j.nrow + 1) [n]) a

/-- The buffers without the rows that every served link below has taken or that their links no longer serve; an unserved link's
window count is 0, and a link that is left with the rows of its next send is reached by it (R266). -/
def Area.mcClean (a : Area) : Area :=
  let a : Area := { a with bufs := a.bufs.map (fun b =>
      { b with rows := b.rows.filter (a.mcStands b), window := if a.mcServes b then b.window else 0 }) }
  a.bufs.foldl (fun a b => a.mcReached b.grp b.level b.node) a

/-- A row enters the buffers of the links `nodes` of a level, and their counts fall by 1. -/
def Area.mcEnter (a : Area) (g level : Nat) (row : McRow) (nodes : List Nat) : Area :=
  nodes.foldl (fun a n =>
    let b := a.bufOf g level n
    (a.putBuf { b with rows := b.rows ++ [{ row with taken := [] }], window := b.window - 1 }).mcReached g level n) a

end Sys2Proof.Machine
end

