-- ==== Sys2Proof/Machine/Control.lean ====
section
/-! DEFINITION. The control and system group (R118 to R120) with `end` and `cmt` (R132, R143, R144). -/

namespace Sys2Proof.Machine

open Sys2Proof

/-- A branch target: the index plus a signed offset (R118); none outside 0 to `ncode` − 1 (R119). -/
def target (pc : Nat) (off : BitVec 28) (ncode : Nat) : Option Nat :=
  let t := (pc : Int) + off.toInt
  if 0 ≤ t && t < (ncode : Int) then some t.toNat else none

/-- Jumps, or takes PASTEND at the instruction itself. -/
def AppCell.jumpTo (a : AppCell) (t : Option Nat) : AppRes :=
  match t with
  | some p => .jump a p
  | none => .trap clsIllegal 6 0

/-- The condition codes of R118. -/
def condHolds (cnd : BitVec 4) (x y : Word) : Bool :=
  match cnd.toNat with
  | 0 => true
  | 1 => x == y
  | 2 => x != y
  | 3 => x.slt y
  | 4 => !x.slt y
  | 5 => x.ult y
  | _ => !x.ult y

def execNop (h : Hdr) (_ : FmtK) (s : State) : Out := .next (issueReg h false [] .ok s)

def execBr (h : Hdr) (f : FmtK) (s : State) : Out :=
  .next (issueReg h false [sR f.sa, sR f.sb] (fun a =>
    if condHolds f.cnd (a.getS f.sa.toNat) (a.getS f.sb.toNat) then a.jumpTo (target a.pc f.off s.ncode) else .ok a) s)

def execCall (h : Hdr) (f : FmtK) (s : State) : Out :=
  .next (issueReg h false [] (fun a =>
    match target a.pc f.off s.ncode with
    | none => .trap clsIllegal 6 0
    | some p => if 8 ≤ a.rstk.length then .trap clsControl 1 0
                else .jump { a with rstk := (a.pc + 1) :: a.rstk } p) s)

def execRet (h : Hdr) (_ : FmtK) (s : State) : Out :=
  .next (issueReg h false [] (fun a =>
    match a.rstk with
    | [] => .trap clsControl 2 0
    | p :: r => .jump { a with rstk := r } p) s)

def execLoop (h : Hdr) (f : FmtK) (s : State) : Out :=
  .next (issueReg h false [sR f.sa] (fun a =>
    let n := a.getS f.sa.toNat - 1
    if n == 0 then .ok (a.setS f.sa.toNat n) else (a.setS f.sa.toNat n).jumpTo (target a.pc f.off s.ncode)) s)

/-- N of R119. -/
def sleepCycles (x : Word) (off : BitVec 28) : Nat := min (x.toNat + off.toNat) (2 ^ 32 - 1)

/-- A sleep issued while a pre-emption request of its context stands holds for no cycle (R119; assumption 107, DESIGN CHOICE). -/
def execSleep (h : Hdr) (f : FmtK) (s : State) : Out :=
  .next (issueReg h false [sR f.sa] (fun a =>
    let n := sleepCycles (a.getS f.sa.toNat) f.off
    .ok (if n = 0 || (s.ctxAt s.desc).pre != .none then a else { a with sleep := some (s.cyc + n) })) s)

def execTrap (h : Hdr) (f : FmtK) (s : State) : Out :=
  .next (issueReg h false [] (fun _ => .trap clsControl 3 (f.off.setWidth 64)) s)

/-- `x.TRAP.ben` decides whether `brk` traps. -/
def execBrk (h : Hdr) (f : FmtK) (s : State) : Out :=
  .next (issueReg h false [] (fun a => if a.trapen.getLsbD 8 then .trap clsControl 4 (f.off.setWidth 64) else .ok a) s)

/-- `cmt` holds issue until the application has committed (R143). Its request counts as an instruction issued (R139, R141). -/
def execCmt (h : Hdr) (_ : FmtK) (s : State) : Out :=
  .next (issue h false [] id (fun s =>
    if s.app.cmt then .ok s
    else if s.app.cmtReq then .stay s
    else .stay ((s.putApp { s.app with cmtReq := true }).stir s.here)) s)

/-- Tiles of an area that its cell never emitted are freed at `end` (R18); one that a detached operation still writes is freed when
that operation completes (R116). -/
def Cell.dropUnemitted (x : Cell) (i : Nat) : Cell :=
  { x with tiles := x.tiles.filterMap (fun r =>
      if r.alloc == some i && !r.emitted then (if r.pin = 0 then none else some { r with alloc := none }) else some r) }

/-- The cell has ended: it leaves the area, whose root discards its messages and checks the replacement when it was the last (R132, R134, R138). One that ends short of
a collective takes MISMATCH at its `end` with the cells that still run (assumption 28). -/
def State.endCell (s : State) : State :=
  let i := s.here
  let c := s.cur
  let s := ((s.putApp { s.app with ended := true }).stir i).modCell c (fun x => x.dropUnemitted i)
  let s := s.modArea i Area.mcClean
  let s := if (s.areaAt i).allEnded then s.dropMessages i else s
  let a := s.areaAt i
  if a.collShort then ((s.raiseAll i clsArea 5).raiseTrapIn i c clsArea 5 0 none).modCell c (fun x => { x with serve := x.serve.drop 1 })
  else if a.allEnded && !bracketed [] (a.replacement.map (·.word)) then
    (s.raiseTrapIn i c clsArea 8 0 none).modCell c (fun x => { x with serve := x.serve.drop 1 })
  else (s.settleEnd i).modCell c (fun x => { x with serve := x.serve.drop 1 })

/-- `end` waits until every token count is 0 (R144). -/
def execEnd (h : Hdr) (_ : FmtK) (s : State) : Out :=
  .next (
    if !waitOver h.wm s.app then s
    else if !s.app.guardBit h then s.advance
    else if (upto 0 8).all (fun n => s.app.getT n == 0) then s.endCell
    else s)

/-! ### Special registers (R96, R97, R120) -/

/-- The value `xrd` reads, zero-extended. -/
def State.spRead (s : State) (n : Nat) : Word :=
  let a := s.app
  let ar := s.area
  let c := s.cur
  match n with
  | 0x000 => BitVec.ofNat 64 c
  | 0x001 => BitVec.ofNat 64 (ar.aidx c)
  | 0x002 => BitVec.ofNat 64 ar.alen
  | 0x003 => BitVec.ofNat 64 (match ar.operandIn c with | [] => 0x1FFFF | p :: _ => p.1)
  | 0x004 => BitVec.ofNat 64 (ar.syms.filter (fun y => y.cell == c)).length
  | 0x005 => BitVec.ofNat 64 ar.opLen
  | 0x006 => ar.parm.signExtend 64
  | 0x007 =>
    let d := ar.desc
    BitVec.ofNat 64 (d + (s.ctxAt d).prio * 2 ^ 7 +
      (if ar.priv then s.asidOf d % 1024 * 2 ^ 16 + s.genOf (s.asidOf d) * 2 ^ 26 else 0))
  | 0x008 => BitVec.ofNat 64 s.cyc
  | 0x009 => a.fflags.setWidth 64
  | 0x00A => a.mflags.setWidth 64
  | 0x00B => a.srseed.setWidth 64
  | 0x00C => a.trapen.setWidth 64
  | 0x00D => BitVec.ofNat 64 (a.out.length % 32 + a.held / 32 * 32)
  | 0x00E => BitVec.ofNat 64 ((if a.cmt then 1 else 0) + s.ballastUsed c * 2)
  | 0x00F => BitVec.ofNat 64 a.rstk.length
  | 0x010 => if ar.priv then 1 else 0
  | 0x100 => a.tasid.setWidth 64
  | 0x101 => a.frec.setWidth 64
  | 0x102 => a.ctxsel.setWidth 64
  | _ => 0

/-- A write to a writable special register: its own width, reserved bits ignored, a zero seed stores 1. -/
def AppCell.spWrite (a : AppCell) (n : Nat) (w : Word) : AppCell :=
  match n with
  | 0x009 => { a with fflags := w.setWidth 6 }
  | 0x00A => { a with mflags := w.setWidth 3 }
  | 0x00B => { a with srseed := if w.setWidth 32 == (0 : BitVec 32) then 1 else w.setWidth 32 }
  | 0x00C => { a with trapen := w.setWidth 9 &&& 0x17F }
  | 0x100 => { a with tasid := w.setWidth 14 }
  | 0x102 => { a with ctxsel := w.setWidth 7 }
  | _ => a

def execXrd (h : Hdr) (f : FmtI) (s : State) : Out :=
  .next (issueReg h false [sR f.d] (fun a => .ok (a.setS f.d.toNat (s.spRead (f.imm.toNat % 4096)))) s)

def execXwr (h : Hdr) (f : FmtI) (s : State) : Out :=
  .next (issueReg h false [sR f.a] (fun a => .ok (a.spWrite (f.imm.toNat % 4096) (a.getS f.a.toNat))) s)

end Sys2Proof.Machine
end

