-- ==== Sys2Proof/Machine/Scalar.lean ====
section
/-! DEFINITION. The scalar integer group (R121, R122), the immediate group (R123), the scalar floating-point group
(R124, R125) and the mask group (R126). -/

namespace Sys2Proof.Machine

open Sys2Proof

/-- A synchronous instruction that raises flags: an enabled one traps, otherwise they are ORed in (R98). -/
def AppCell.flagged (a : AppCell) (ff : BitVec 6) (mf : BitVec 3) (w : AppCell → AppCell) : AppRes :=
  match arithSub ff mf a.trapen with
  | some n => .trap clsArith n ((trapBits ff mf).setWidth 64)
  | none => .ok (w { a with fflags := a.fflags ||| ff, mflags := a.mflags ||| mf })

/-! ### Scalar integer -/

/-- The frame of R121: A and B read in the type, W result bits written widened. -/
def scalarOp (h : Hdr) (f : FmtT) (op : Nat → Int → Int → Nat × BitVec 6) (s : State) : Out :=
  .next (issueReg h false [sR f.d, sR f.a, sR f.b] (fun a =>
    let ty := f.ty.toNat
    let r := op ty (extTy ty (a.getS f.a.toNat).toNat) (extTy ty (a.getS f.b.toNat).toNat)
    a.flagged r.2 0 (fun a => a.setS f.d.toNat (widenTy ty r.1))) s)

/-- The frame of a shift: the amount is `s`b unreduced (R122). -/
def scalarShift (h : Hdr) (f : FmtT) (op : Nat → Nat → Nat → Nat) (s : State) : Out :=
  .next (issueReg h false [sR f.d, sR f.a, sR f.b] (fun a =>
    let ty := f.ty.toNat
    .ok (a.setS f.d.toNat (widenTy ty (op ty (a.getS f.a.toNat).toNat (a.getS f.b.toNat).toNat)))) s)

def execAdd (h : Hdr) (f : FmtT) : State → Out := scalarOp h f (fun ty a b => (narrowTy ty (f.sat == 1) (a + b), 0))
def execSub (h : Hdr) (f : FmtT) : State → Out := scalarOp h f (fun ty a b => (narrowTy ty (f.sat == 1) (a - b), 0))
def execMul (h : Hdr) (f : FmtT) : State → Out := scalarOp h f (fun ty a b => (narrowTy ty (f.sat == 1) (a * b), 0))
def execMulh (h : Hdr) (f : FmtT) : State → Out :=
  scalarOp h f (fun ty a b => (narrowTy ty false (a * b / ((2 ^ tyWidth ty : Nat) : Int)), 0))
def execDiv (h : Hdr) (f : FmtT) : State → Out := scalarOp h f (fun ty a b => divInt ty a b (f.sat == 1))
def execRem (h : Hdr) (f : FmtT) : State → Out := scalarOp h f (fun ty a b => remInt ty a b)
def execAndS (h : Hdr) (f : FmtT) : State → Out :=
  scalarOp h f (fun ty a b => (Nat.land (wrapNat (tyWidth ty) a) (wrapNat (tyWidth ty) b), 0))
def execOrS (h : Hdr) (f : FmtT) : State → Out :=
  scalarOp h f (fun ty a b => (Nat.lor (wrapNat (tyWidth ty) a) (wrapNat (tyWidth ty) b), 0))
def execXorS (h : Hdr) (f : FmtT) : State → Out :=
  scalarOp h f (fun ty a b => (Nat.xor (wrapNat (tyWidth ty) a) (wrapNat (tyWidth ty) b), 0))
def execMin (h : Hdr) (f : FmtT) : State → Out := scalarOp h f (fun ty a b => (wrapNat (tyWidth ty) (min a b), 0))
def execMax (h : Hdr) (f : FmtT) : State → Out := scalarOp h f (fun ty a b => (wrapNat (tyWidth ty) (max a b), 0))
def execShl (h : Hdr) (f : FmtT) : State → Out := scalarShift h f (fun ty x n => shlInt ty (extTy ty x) n (f.sat == 1))
def execShr (h : Hdr) (f : FmtT) : State → Out := scalarShift h f shrInt
def execSra (h : Hdr) (f : FmtT) : State → Out := scalarShift h f (fun ty x n => sraInt ty (extTy ty x) n)

/-- `cmp` writes a 64-bit signed value, whatever the type. -/
def execCmp (h : Hdr) (f : FmtT) (s : State) : Out :=
  .next (issueReg h false [sR f.d, sR f.a, sR f.b] (fun a =>
    let ty := f.ty.toNat
    .ok (a.setS f.d.toNat (BitVec.ofInt 64
      (cmpInt (extTy ty (a.getS f.a.toNat).toNat) (extTy ty (a.getS f.b.toNat).toNat))))) s)

def execSel (h : Hdr) (f : FmtT) (s : State) : Out :=
  .next (issueReg h false [sR f.d, sR f.a, sR f.b, sR f.c] (fun a =>
    .ok (a.setS f.d.toNat (if a.getS f.c.toNat != 0 then a.getS f.a.toNat else a.getS f.b.toNat))) s)

def execClz (h : Hdr) (f : FmtT) (s : State) : Out :=
  .next (issueReg h false [sR f.d, sR f.a] (fun a =>
    let w := tyWidth f.ty.toNat
    .ok (a.setS f.d.toNat (BitVec.ofNat 64 (clzBits w ((a.getS f.a.toNat).toNat % 2 ^ w))))) s)

def execPopc (h : Hdr) (f : FmtT) (s : State) : Out :=
  .next (issueReg h false [sR f.d, sR f.a] (fun a =>
    let w := tyWidth f.ty.toNat
    .ok (a.setS f.d.toNat (BitVec.ofNat 64 (popBits w ((a.getS f.a.toNat).toNat % 2 ^ w))))) s)

/-! ### Immediate -/

/-- The frame of R123 on 64 bits. -/
def immOp (h : Hdr) (f : FmtI) (op : Word → BitVec 32 → Word) (s : State) : Out :=
  .next (issueReg h false [sR f.d, sR f.a] (fun a => .ok (a.setS f.d.toNat (op (a.getS f.a.toNat) f.imm))) s)

def execAddi (h : Hdr) (f : FmtI) : State → Out := immOp h f (fun x i => x + i.signExtend 64)
def execAndi (h : Hdr) (f : FmtI) : State → Out := immOp h f (fun x i => x &&& i.signExtend 64)
def execOri (h : Hdr) (f : FmtI) : State → Out := immOp h f (fun x i => x ||| i.setWidth 64)
def execXori (h : Hdr) (f : FmtI) : State → Out := immOp h f (fun x i => x ^^^ i.setWidth 64)
def execLi (h : Hdr) (f : FmtI) : State → Out := immOp h f (fun _ i => i.signExtend 64)
def execShli (h : Hdr) (f : FmtI) : State → Out := immOp h f (fun x i => x <<< i.toNat)
def execShri (h : Hdr) (f : FmtI) : State → Out := immOp h f (fun x i => x >>> i.toNat)
def execSrai (h : Hdr) (f : FmtI) : State → Out := immOp h f (fun x i => x.sshiftRight i.toNat)
def execCmpi (h : Hdr) (f : FmtI) : State → Out :=
  immOp h f (fun x i => BitVec.ofInt 64 (cmpInt x.toInt (i.signExtend 64).toInt))
def execLih (h : Hdr) (f : FmtI) : State → Out := immOp h f (fun x i => i ++ x.extractLsb' 0 32)

def execMov (h : Hdr) (f : FmtT) (s : State) : Out :=
  .next (issueReg h false [sR f.d, sR f.a] (fun a => .ok (a.setS f.d.toNat (a.getS f.a.toNat))) s)

/-! ### Scalar floating-point -/

/-- A scalar that rounds: one draw under SR, the seed written back unless it traps (R203). -/
def AppCell.rounded (a : AppCell) (rm : Nat) (op : Nat → FR) (w : AppCell → Nat → AppCell) : AppRes :=
  let (r, seed) := if rm = 5 then draw1 a.srseed else (0, a.srseed)
  let x := op r
  a.flagged x.fl 0 (fun a => w { a with srseed := seed } x.bits)

/-- The operand of width w in an `s` register. -/
def AppCell.getF (a : AppCell) (ty n : Nat) : Nat := (a.getS n).toNat % 2 ^ tyWidth ty

/-- The frame of the rounding instructions of R124. -/
def scalarF (h : Hdr) (f : FmtT) (op : Nat → EV → EV → EVF) (s : State) : Out :=
  .next (issueReg h false [sR f.d, sR f.a, sR f.b] (fun a =>
    let ty := f.ty.toNat
    let rm := f.rm.toNat
    a.rounded rm (fun r => (op rm (fdec ty (a.getF ty f.a.toNat)) (fdec ty (a.getF ty f.b.toNat))).round ty rm false r)
      (fun a x => a.setS f.d.toNat (BitVec.ofNat 64 x))) s)

def execFadd (h : Hdr) (f : FmtT) : State → Out := scalarF h f evAdd
def execFsub (h : Hdr) (f : FmtT) : State → Out := scalarF h f (fun rm x y => evAdd rm x (evNeg y))
def execFmul (h : Hdr) (f : FmtT) : State → Out := scalarF h f (fun _ x y => evMul x y)

def execFma (h : Hdr) (f : FmtT) (s : State) : Out :=
  .next (issueReg h false [sR f.d, sR f.a, sR f.b, sR f.c] (fun a =>
    let ty := f.ty.toNat
    let rm := f.rm.toNat
    a.rounded rm (fun r => (evFma rm (fdec ty (a.getF ty f.a.toNat)) (fdec ty (a.getF ty f.b.toNat))
        (fdec ty (a.getF ty f.c.toNat))).round ty rm false r)
      (fun a x => a.setS f.d.toNat (BitVec.ofNat 64 x))) s)

/-- `fmin` and `fmax`. -/
def scalarMM (h : Hdr) (f : FmtT) (big : Bool) (s : State) : Out :=
  .next (issueReg h false [sR f.d, sR f.a, sR f.b] (fun a =>
    let ty := f.ty.toNat
    .ok (a.setS f.d.toNat (BitVec.ofNat 64 (fminmax ty big (a.getF ty f.a.toNat) (a.getF ty f.b.toNat))))) s)

def execFmin (h : Hdr) (f : FmtT) : State → Out := scalarMM h f false
def execFmax (h : Hdr) (f : FmtT) : State → Out := scalarMM h f true

def execFcmp (h : Hdr) (f : FmtT) (s : State) : Out :=
  .next (issueReg h false [sR f.d, sR f.a, sR f.b] (fun a =>
    let ty := f.ty.toNat
    let r := fcmpRel ty f.fn.toNat (a.getF ty f.a.toNat) (a.getF ty f.b.toNat)
    a.flagged r.2 0 (fun a => a.setS f.d.toNat (if r.1 then 1 else 0))) s)

/-- `fcvt` (R125): an integer result is widened as in R121, a float zero-extended. -/
def execFcvt (h : Hdr) (f : FmtT) (s : State) : Out :=
  .next (issueReg h false [sR f.d, sR f.a] (fun a =>
    let dt := f.ty.toNat
    let st := f.fn.toNat % 16
    a.rounded f.rm.toNat (fun r => convTy dt st f.rm.toNat (f.sat == 1 && (dt == 4 || dt == 5)) r (a.getF st f.a.toNat))
      (fun a x => a.setS f.d.toNat (if isFloatTy dt then BitVec.ofNat 64 x else widenTy dt x))) s)

def execFcls (h : Hdr) (f : FmtT) (s : State) : Out :=
  .next (issueReg h false [sR f.d, sR f.a] (fun a =>
    .ok (a.setS f.d.toNat (BitVec.ofNat 64 (fclass f.ty.toNat (a.getF f.ty.toNat f.a.toNat))))) s)

/-! ### Masks -/

def maskOp (h : Hdr) (f : FmtT) (op : BitVec 256 → BitVec 256 → BitVec 256) (s : State) : Out :=
  .next (issueReg h false [] (fun a => .ok (a.setK f.d.toNat (op (a.getK f.a.toNat) (a.getK f.b.toNat)))) s)

def execKand (h : Hdr) (f : FmtT) : State → Out := maskOp h f (fun x y => x &&& y)
def execKor (h : Hdr) (f : FmtT) : State → Out := maskOp h f (fun x y => x ||| y)
def execKxor (h : Hdr) (f : FmtT) : State → Out := maskOp h f (fun x y => x ^^^ y)

def execKnot (h : Hdr) (f : FmtT) (s : State) : Out :=
  .next (issueReg h false [] (fun a => .ok (a.setK f.d.toNat (~~~(a.getK f.a.toNat)))) s)

/-- 64 bits of a mask replaced. -/
def putQuad (k : BitVec 256) (g : Nat) (w : Word) : BitVec 256 :=
  (k &&& ~~~((BitVec.allOnes 64).setWidth 256 <<< (64 * g))) ||| (w.setWidth 256 <<< (64 * g))

/-- `kmov` (R126): mask to mask, `s` into a quarter, a quarter into `s`. -/
def execKmov (h : Hdr) (f : FmtT) (s : State) : Out :=
  let n := f.fn.toNat
  .next (issueReg h false (if n = 0 then [] else if n ≤ 4 then [sR f.a] else [sR f.d]) (fun a =>
    if n = 0 then .ok (a.setK f.d.toNat (a.getK f.a.toNat))
    else if n ≤ 4 then .ok (a.setK f.d.toNat (putQuad (a.getK f.d.toNat) (n - 1) (a.getS f.a.toNat)))
    else .ok (a.setS f.d.toNat ((a.getK f.a.toNat).extractLsb' (64 * (n - 5)) 64))) s)

def execKpop (h : Hdr) (f : FmtT) (s : State) : Out :=
  .next (issueReg h false [sR f.d] (fun a =>
    .ok (a.setS f.d.toNat (BitVec.ofNat 64 (popBits (lanes f.ty.toNat) (a.getK f.a.toNat).toNat)))) s)

def execKfirst (h : Hdr) (f : FmtT) (s : State) : Out :=
  .next (issueReg h false [sR f.d] (fun a =>
    let l := lanes f.ty.toNat
    .ok (a.setS f.d.toNat (BitVec.ofNat 64
      (((upto 0 l).find? (fun i => (a.getK f.a.toNat).getLsbD i)).getD l)))) s)

def execKset (h : Hdr) (f : FmtT) (s : State) : Out :=
  .next (issueReg h false [sR f.a] (fun a =>
    .ok (a.setK f.d.toNat (BitVec.ofNat 256 (2 ^ min (a.getS f.a.toNat).toNat (lanes f.ty.toNat) - 1)))) s)

end Sys2Proof.Machine
end

