-- ==== Sys2Proof/Machine/Mem.lean ====
section
/-! DEFINITION. The memory group (R170 to R181) and tile space (R190 to R192). -/

namespace Sys2Proof.Machine

open Sys2Proof

/-- The acting application as one on whose behalf addresses are translated. -/
def State.me (s : State) : Who := ⟨s.desc, s.area.priv⟩

/-- The edge TLB of the acting cell's bay. -/
def State.home (s : State) : TlbHome := .bay (bayOf s.cur)

/-- The element offset o of R171. -/
def elemOff (a : AppCell) (f : FmtM) : Int := f.off.toInt + (a.getS f.ix.toNat).toInt

/-- The stream with its cursor moved by `n` along dimension 0. -/
def AppCell.bump (a : AppCell) (as : BitVec 3) (n : Int) : AppCell := a.setA as.toNat ((a.getA as.toNat).advance 0 n)

def State.bump (s : State) (as : BitVec 3) (n : Int) : State := s.putApp (s.app.bump as n)

/-- After an accepted effect the cursor moves on. -/
def Res.then (r : Res) (f : State → State) : Res :=
  match r with
  | .ok s => .ok (f s)
  | .jump s p => .jump (f s) p
  | .wait => .wait
  | .stay s => .stay s
  | .trap c b i => .trap c b i

/-- The run that holds a tile-store record's bytes, and what R18 says of writing it. -/
def State.recWrite (s : State) (r : ShapeRec) : WriteFate :=
  match (s.cellAt s.cur).runOver r.base.toNat 1 with
  | some t => s.mayWrite t
  | none => .trap

/-- A tile-store access waits at issue while its queue or an earlier operation holds it back. -/
def tileGate (s : State) (que : Nat) (onlyReads : Bool) (k : Res) : Res := if s.tileHeld que onlyReads then .wait else k

/-- Checks of a direct tile-store access through stream `as` (R166, R167): the traps in order, then the access itself. -/
def tileAccess (s : State) (as : Nat) (x : StreamReg) (ty : Nat) (o : Int) (ls : List LaneAt) (write : Bool) (k : Res) : Res :=
  match streamCheck x .tile ty (x.cursor 0 + o) badFIELD with
  | some b => b.res
  | none =>
    let k2 : Res :=
      match ls.find? (fun l => !x.rc.inRange l.tup) with
      | some l => .trap clsMemory 1 (BitVec.ofInt 64 (x.rc.addr l.tup).1)
      | none =>
        match alignCheck (elBytes (tyWidth ty)) (ls.map (fun l => (x.rc.addr l.tup).1)) with
        | some b => b.res
        | none => tileGate s as (!write) k
    if write then (s.recWrite x.rc).res k2 else k2

def execLd (h : Hdr) (f : FmtM) (s : State) : Out :=
  .next (issue h true [vR f.d, sR f.ix] id (fun s =>
    let a := s.app
    let x := a.getA f.as.toNat
    let ty := f.ty.toNat
    let o := elemOff a f
    let ls := laneTuples x o (lanes ty) (a.guard h)
    tileAccess s f.as.toNat x ty o ls false (
      let (b, els, _) := loadPlan x.rc ty ls (a.getV f.d.toNat)
      let b := if isBX ty then b else { b with side := 0 }
      let (v, pz) := (s.cellAt s.cur).loadEls ty b els
      match a.flagged (if pz then fPZ else 0) 0 (fun a => (a.setV f.d.toNat v).bump f.as (lanes ty)) with
      | .ok a => .ok (s.putApp a)
      | .trap c b i => .trap c b i
      | _ => .wait)) s)

def execSt (h : Hdr) (f : FmtM) (s : State) : Out :=
  .next (issue h true [vR f.d, sR f.ix] id (fun s =>
    let a := s.app
    let x := a.getA f.as.toNat
    let ty := f.ty.toNat
    let o := elemOff a f
    let ls := laneTuples x o (lanes ty) (a.guard h)
    tileAccess s f.as.toNat x ty o ls true (
      let (els, _) := storePlan x.rc ty ls (a.getV f.d.toNat)
      .ok ((s.modCell s.cur (fun c => c.storeEls els)).bump f.as (lanes ty)))) s)

/-- The single element of `lds` and `sts`. -/
def oneLane (x : StreamReg) (o : Int) : List LaneAt := [⟨0, x.tuple o⟩]

def execLds (h : Hdr) (f : FmtM) (s : State) : Out :=
  .next (issue h false [sR f.d, sR f.ix] (fun s => s.bump f.as 1) (fun s =>
    let a := s.app
    let x := a.getA f.as.toNat
    let ty := f.ty.toNat
    let o := elemOff a f
    tileAccess s f.as.toNat x ty o (oneLane x o) false (
      let (_, els, _) := loadPlan x.rc ty (oneLane x o) VecVal.zero
      let (v, pz) := (s.cellAt s.cur).loadEls ty VecVal.zero els
      let w := v.bits.toNat % 2 ^ tyWidth ty
      match a.flagged (if pz then fPZ else 0) 0 (fun a =>
          (a.setS f.d.toNat (if isIntTy ty then widenTy ty w else BitVec.ofNat 64 w)).bump f.as 1) with
      | .ok a => .ok (s.putApp a)
      | .trap c b i => .trap c b i
      | _ => .wait)) s)

def execSts (h : Hdr) (f : FmtM) (s : State) : Out :=
  .next (issue h false [sR f.d, sR f.ix] (fun s => s.bump f.as 1) (fun s =>
    let a := s.app
    let x := a.getA f.as.toNat
    let ty := f.ty.toNat
    let o := elemOff a f
    tileAccess s f.as.toNat x ty o (oneLane x o) true (
      let (els, _) := storePlan x.rc ty (oneLane x o) ⟨(a.getS f.d.toNat).setWidth 1024, 0⟩
      .ok ((s.modCell s.cur (fun c => c.storeEls els)).bump f.as 1))) s)

/-- Checks of a global access (R166): the traps in order, then the access itself. -/
def globalAccess (s : State) (x : StreamReg) (acc : Accepts) (ty : Nat) (o : Int) (ls : List LaneAt) (k : Res) : Res :=
  match streamCheck x acc ty (x.cursor 0 + o) badFIELD with
  | some b => b.res
  | none =>
    match (if x.rc.ts then none else addrCheck s.area.priv (formed x.rc ls)) with
    | some b => b.res
    | none =>
      match alignCheck (elBytes (tyWidth ty)) (ls.filterMap (fun l => match x.rc.loc l.tup with | .at p _ => some p | _ => none)) with
      | some b => b.res
      | none => k

/-- Waits while the token's count is full (R105). -/
def tokGate (a : AppCell) (tv : BitVec 1) (tok : BitVec 3) (k : Res) : Res := if a.tokRoom tv tok then k else .wait

def execLdg (h : Hdr) (f : FmtM) (s : State) : Out :=
  .next (issue h true [vR f.d, sR f.ix] id (fun s =>
    let a := s.app
    let x := a.getA f.as.toNat
    let ty := f.ty.toNat
    let o := elemOff a f
    let ls := laneTuples x o (lanes ty) (a.guard h)
    tokGate a f.tv f.tok (globalAccess s x .global ty o ls (
      let (b, els, pz) := loadPlan x.rc ty ls (a.getV f.d.toNat)
      .ok ((s.push .stream f.as.toNat (tokOf f.tv f.tok) [vR f.d] (.gload f.d.toNat ty b els pz false f.pol.toNat)).bump f.as (lanes ty))))) s)

def execStg (h : Hdr) (f : FmtM) (s : State) : Out :=
  .next (issue h true [vR f.d, sR f.ix] id (fun s =>
    let a := s.app
    let x := a.getA f.as.toNat
    let ty := f.ty.toNat
    let o := elemOff a f
    let ls := laneTuples x o (lanes ty) (a.guard h)
    tokGate a f.tv f.tok (globalAccess s x .global ty o ls (
      let (els, pz) := storePlan x.rc ty ls (a.getV f.d.toNat)
      (s.effect .stream f.as.toNat (tokOf f.tv f.tok) (ls.length * tyWidth ty / 8 + 8) (if pz then fPZ else 0) (.gstore els pz false f.pol.toNat)).then
        (fun s => s.bump f.as (lanes ty))))) s)

/-- The lanes of a gather or scatter with their tuples (R175). -/
def gatherTuples (x : StreamReg) (o : Int) (idx : List Nat) (mask : BitVec 256) : List LaneAt :=
  ((upto 0 32).filter (fun j => mask.getLsbD j)).map (fun j => ⟨j, x.tuple (o + signed 32 (idx.getD j 0))⟩)

def execLdx (h : Hdr) (f : FmtM) (s : State) : Out :=
  .next (issue h true [vR f.d, vR f.ix] id (fun s =>
    let a := s.app
    let x := a.getA f.as.toNat
    let ty := f.ty.toNat
    let o := f.off.toInt
    let ls := gatherTuples x o ((a.getV f.ix.toNat).lanes 32) (a.guard h)
    tokGate a f.tv f.tok (globalAccess s x .either ty o ls (
      let old := (a.getV f.d.toNat).lanes (tyWidth ty)
      let base := VecVal.ofLanes (tyWidth ty) (old.take 32 ++ List.replicate (lanes ty - 32) 0)
      let (b, els, pz) := loadPlan x.rc ty ls base
      if x.rc.ts then
        tileGate s f.as.toNat true (
          let (v, pz') := (s.cellAt s.cur).loadEls ty b els
          .ok (s.pushDone (tokOf f.tv f.tok) [vR f.d] [.v f.d.toNat v] (if pz || pz' then fPZ else 0) 0))
      else .ok (s.push .stream f.as.toNat (tokOf f.tv f.tok) [vR f.d] (.gload f.d.toNat ty b els pz true f.pol.toNat))))) s)

def execStx (h : Hdr) (f : FmtM) (s : State) : Out :=
  .next (issue h true [vR f.d, vR f.ix] id (fun s =>
    let a := s.app
    let x := a.getA f.as.toNat
    let ty := f.ty.toNat
    let o := f.off.toInt
    let ls := gatherTuples x o ((a.getV f.ix.toNat).lanes 32) (a.guard h)
    tokGate a f.tv f.tok (globalAccess s x .either ty o ls (
      let (els, pz) := storePlan x.rc ty ls (a.getV f.d.toNat)
      if x.rc.ts then
        (s.recWrite x.rc).res (tileGate s f.as.toNat false (
          let s := s.modCell s.cur (fun c => c.storeEls els)
          .ok (match tokOf f.tv f.tok with
            | none => s
            | some t => s.pushDone (some t) [] [] (if pz then fPZ else 0) 0)))
      else s.effect .stream f.as.toNat (tokOf f.tv f.tok) (ls.length * (tyWidth ty / 8 + 8)) (if pz then fPZ else 0) (.gstore els pz true f.pol.toNat)))) s)

/-! ### Shape records (R165, R176) -/

/-- The lowest and one past the highest byte address of a record's elements. -/
def ShapeRec.span (r : ShapeRec) : Int × Int :=
  let corner (hi : Bool) : Int := (upto 0 r.ndim).foldl (fun a k =>
    let n : Int := (r.extN k : Int) - 1
    let d := if r.ty = 9 && r.baxis.toNat = k then n / 2 else n * r.strI k
    if hi then a + max 0 d else a + min 0 d) (r.base.toNat : Int)
  (corner false, corner true + elBytes (tyWidth r.ty))

/-- The bytes of the header plane. -/
def ShapeRec.hdrLen (r : ShapeRec) : Nat :=
  4 * (upto 0 r.ndim).foldl (fun p k => p * (if k = r.baxis.toNat then r.extN k / 32 else r.extN k)) 1

/-- A number lies in the context range, or in the system range for a privileged microprogram (R165). -/
def rangeOk (priv : Bool) (a : Nat) : Bool := vaOk priv a

/-- The checks of R42 on a record as it stands. -/
def ShapeRec.r42 (r : ShapeRec) : Bool :=
  let t := r.ty
  let es := elBytes (tyWidth t)
  tileTy t && decide (1 ≤ r.ndim) && decide (r.ndim ≤ 5) &&
    (upto 0 r.ndim).all (fun k => decide (1 ≤ r.extN k) && r.strI k % (es : Int) == 0) && r.base.toNat % es == 0 &&
    (if isBX t then
      decide (r.baxis.toNat < r.ndim) && r.strI r.baxis.toNat == 1 && r.extN r.baxis.toNat % 32 == 0 &&
        r.hdr != 0 && r.hdr.toNat % 4 == 0
     else r.baxis == 0xFF)

/-- R42's last check: a record whose base lies in a DATA section keeps its whole footprint there (assumption 100). -/
def ShapeRec.inData (r : ShapeRec) (ss : List Sect) : Bool :=
  let (lo, hi) := r.span
  ss.all (fun x => !(x.kind == 5 && decide (x.vaddr ≤ r.base.toNat) && decide (r.base.toNat < x.vaddr + x.size)) ||
    (decide ((x.vaddr : Int) ≤ lo) && decide (hi ≤ ((x.vaddr + x.size : Nat) : Int))))

/-- R42 with the limits of R163. `clean` says that the reserved bits of the bytes were zero. -/
def ShapeRec.ruleOk (r : ShapeRec) (clean : Bool) : Bool :=
  clean && r.r42 && decide (r.bnd.toNat ≤ 2) && (upto r.ndim (5 - r.ndim)).all (fun k => r.extN k == 0 && r.strI k == 0) &&
    (!r.ts || decide (r.base.toNat < 2 ^ 19)) && (isBX r.ty || r.hdr == 0)

/-- FIELD of R165. -/
def ShapeRec.fieldOk (r : ShapeRec) (clean priv : Bool) : Bool :=
  let t := r.ty
  r.ruleOk clean &&
    (r.ts || (rangeOk priv r.base.toNat && (!isBX t || rangeOk priv r.hdr.toNat)))

/-- TILE of R165: elements and headers inside one live tile that the application may read. -/
def State.tileFits (s : State) (r : ShapeRec) : Bool :=
  let (lo, hi) := r.span
  if lo < 0 then false
  else
    match (s.cellAt s.cur).runOver lo.toNat (hi - lo).toNat with
    | none => false
    | some t => s.mayRead t && (!isBX r.ty || (decide (t.off ≤ r.hdr.toNat) && decide (r.hdr.toNat + r.hdrLen ≤ t.off + t.len)))

/-- The sections of the acting context's image. -/
def State.mySects (s : State) : List Sect := ((s.ctxAt s.desc).image.map Image.sects).getD []

/-- The first failing check of R165 on a record being made. -/
def State.recordCheck (s : State) (r : ShapeRec) (clean : Bool) : Option Bad :=
  if !r.fieldOk clean s.area.priv || !(r.ts || r.inData s.mySects) then some ⟨clsShape, 2, 0⟩
  else if r.ts && !s.tileFits r then some ⟨clsShape, 3, 0⟩
  else none

/-- Puts a checked record into a stream register: translation entry emptied, cursor 0 (R176). -/
def State.makeRecord (s : State) (as : Nat) (r : ShapeRec) (clean : Bool) : Res :=
  match s.recordCheck r clean with
  | some b => b.res
  | none => .ok (s.putApp (s.app.setA as { valid := true, rc := r, cur := [], ent := none }))

/-- The record `shp.sym` makes of a `TILE` symbol. -/
def tileRecord (w : Word) : ShapeRec :=
  let t := tileFmt w
  let cols := tileCols w
  let rows := tileRows w
  { base := BitVec.ofNat 64 (tileOff w), ety := BitVec.ofNat 4 t, ndim := 2,
    baxis := if isBX t then 0 else 0xFF, bnd := 0, ts := true,
    ext := tsetRun 0 [] 0 [BitVec.ofNat 32 cols, BitVec.ofNat 32 rows],
    str := tsetRun 0 [] 0 [BitVec.ofNat 32 (elBytes (tyWidth t)), BitVec.ofNat 32 (cols * tyWidth t / 8)],
    hdr := if isBX t then BitVec.ofNat 64 (tileOff w + elemBytes t rows cols) else 0 }

/-- The SHAPE section of the acting context's image (R36): base address and number of records. -/
def State.shapeTable (s : State) : Nat × Nat :=
  match (s.ctxAt s.desc).image with
  | none => (0, 0)
  | some im =>
    match im.sects.find? (fun x => x.kind == 4) with
    | none => (0, 0)
    | some x => (x.vaddr, x.size / 64)

/-- The record of an `ARRAY` in the bay's shape cache (R176). -/
def State.shapeHit (s : State) (shx : Nat) : Option (ShapeRec × Bool) :=
  ((s.bayAt (bayOf s.cur)).shapes.find? (fun h => h.desc == s.desc && h.shx == shx)).map (fun h => (h.rc, h.clean))

/-- A record that has arrived stands in the bay's shape cache, the oldest of 256 giving way. -/
def State.shapeKeep (s : State) (shx : Nat) (r : ShapeRec × Bool) : State :=
  s.modBay (bayOf s.cur) (fun b => { b with shapes := (⟨s.desc, shx, r.1, r.2⟩ :: b.shapes).take 256 })

/-- The table is fetched as an unprivileged read, a privileged microprogram's too, from level 3 (R176; assumption 107, DESIGN
CHOICE). -/
def execShpSym (h : Hdr) (f : FmtM) (s : State) : Out :=
  .next (issue h false [sR f.d] id (fun s =>
    let w := s.app.getS f.d.toNat
    if isTile w then s.makeRecord f.as.toNat (tileRecord w) true
    else if symTag w = tagARRAY then
      let shx := (w.extractLsb' 49 11).toNat
      let (base, n) := s.shapeTable
      if n ≤ shx then .trap clsShape 2 0
      else
        let put (s : State) (q : ShapeRec × Bool) : Res :=
          s.makeRecord f.as.toNat { q.1 with base := (w.extractLsb' 0 49).setWidth 64 <<< 6 } q.2
        match s.shapeHit shx with
        | some q => put s q
        | none =>
          match s.transEnts s.home ⟨s.desc, false⟩ false (upto (base + 64 * shx) 64) with
          | .error va => .stay (s.askWalk s.home ⟨s.desc, false⟩ va false .hub s.cur s.here [.cellOp s.cur 0])
          | .ok l =>
            let q := ShapeRec.ofBytes ((l.map paOf).map (s.readByte Party.reel 0))
            put ((s.touchedHome s.home false l).shapeKeep shx q) q
    else .trap clsShape 4 0) s)

def execShpVec (h : Hdr) (f : FmtM) (s : State) : Out :=
  .next (issue h false [vR f.d] id (fun s =>
    let (r, clean) := ShapeRec.ofBytes (leBytes 64 (s.app.getV f.d.toNat).bits.toNat)
    s.makeRecord f.as.toNat r clean) s)

def execShpExt (h : Hdr) (f : FmtM) (s : State) : Out :=
  .next (issue h false [sR f.ix] id (fun s =>
    let x := s.app.getA f.as.toNat
    let k := f.d.toNat
    if !x.valid then .trap clsShape 1 0
    else if x.rc.ndim ≤ k then .trap clsShape 5 0
    else s.makeRecord f.as.toNat { x.rc with ext := tset 0 x.rc.ext k ((s.app.getS f.ix.toNat).setWidth 32) } true) s)

/-- `sadv` (R177). -/
def execSadv (h : Hdr) (f : FmtM) (s : State) : Out :=
  .next (issueReg h false [sR f.ix] (fun a =>
    let x := a.getA f.as.toNat
    let k := f.d.toNat
    if !x.valid then .trap clsShape 1 0
    else if x.rc.ndim ≤ k then .trap clsShape 5 0
    else .ok (a.setA f.as.toNat (x.advance k (elemOff a f)))) s)

/-- `pfg` (R178): lines of the in-range elements; no register, no cursor. -/
def execPfg (h : Hdr) (f : FmtM) (s : State) : Out :=
  .next (issue h false [sR f.ix] id (fun s =>
    let a := s.app
    let x := a.getA f.as.toNat
    let ty := f.ty.toNat
    let o := elemOff a f
    let ls := laneTuples x o (lanes ty) (BitVec.allOnes 256)
    tokGate a f.tv f.tok (globalAccess s x .global ty o ls (
      .ok (s.push .stream f.as.toNat (tokOf f.tv f.tok) [] (.pfg ((formed x.rc ls).map Int.toNat) f.pol.toNat))))) s)

/-! ### Tile space (R190 to R192) -/

def execTalloc (h : Hdr) (f : FmtM) (s : State) : Out :=
  .next (issue h false [sR f.d, sR f.ix] id (fun s =>
    let a := s.app
    let w := a.getS f.ix.toNat
    let ty := f.ty.toNat
    let rows := (w.extractLsb' 0 9).toNat + 1
    let cols := (w.extractLsb' 9 9).toNat + 1
    let len := footprint ty rows cols
    if (isBX ty && cols % 32 != 0) || decide (Config.tileBytes < len) then .trap clsMemory 6 0
    else if s.area.tileb < a.held + len then .trap clsBudget 2 0
    else
      match (s.cellAt s.cur).freeRun len with
      | none => .trap clsMemory 4 0
      | some off =>
        let s := s.modCell s.cur (fun c => { c.tzero off len with
          tiles := c.tiles ++ [{ off := off, len := len, alloc := some s.here, emitted := false, pin := 0 }] })
        .ok (s.putApp ({ s.app with held := a.held + len }.setS f.d.toNat (tileWord cols rows ty len off)))) s)

/-- The run a handle names: BADTILE when it breaks R11 or names none of the cell. -/
def State.runNamed (s : State) (w : Word) : Option TileRun :=
  if isTile w && tileOk w then
    (match (s.cellAt s.cur).runAt (tileOff w) with
     | some r => if r.len = tileLen w then some r else none
     | none => none)
  else none

/-- Frees a tile the application allocated: its bytes leave the budget, records over it become invalid (R191). The run and its
pin go at once, also where a copy in flight still writes it (assumption 112, DESIGN CHOICE). -/
def State.dropTile (s : State) (r : TileRun) : State :=
  let s := s.modCell s.cur (fun c => c.freeTile r.off)
  let a := s.app
  let a := { a with held := a.held - r.len }
  s.putApp ((upto 0 8).foldl (fun a n =>
    let x := a.getA n
    if x.valid && x.rc.ts && decide (r.off ≤ x.rc.base.toNat) && decide (x.rc.base.toNat < r.off + r.len)
    then a.setA n StreamReg.invalid else a) a)

def execTfree (h : Hdr) (f : FmtM) (s : State) : Out :=
  .next (issue h false [sR f.d] id (fun s =>
    match s.runNamed (s.app.getS f.d.toNat) with
    | none => .trap clsMemory 6 0
    | some r => if r.alloc != some s.here || r.emitted then .trap clsMemory 5 0 else .ok (s.dropTile r)) s)

/-- `tshr` (R192): it checks that both handles name tiles, then that the first is the application's own, then that the shapes agree (assumption 110,
DESIGN CHOICE). -/
def execTshr (h : Hdr) (f : FmtM) (s : State) : Out :=
  .next (issue h false [sR f.d, sR f.ix] id (fun s =>
    let wa := s.app.getS f.d.toNat
    let wb := s.app.getS f.ix.toNat
    match s.runNamed wa, s.runNamed wb with
    | some ra, some rb =>
      if ra.alloc != some s.here || ra.emitted then .trap clsMemory 5 0
      else if withOff wa 0 != withOff wb 0 then .trap clsMemory 6 0
      else if (s.cellAt s.cur).tread ra.off ra.len == (s.cellAt s.cur).tread rb.off rb.len then
        .ok (let s := s.dropTile ra; s.putApp (s.app.setS f.d.toNat wb))
      else .ok s
    | _, _ => .trap clsMemory 6 0) s)

end Sys2Proof.Machine
end

