-- ==== Sys2Proof/Machine/Bridles.lean ====
section
/-! DEFINITION. Operations in flight found by their identity, and bridles: handles, records, evaluation
(R255 to R260, R263). -/

namespace Sys2Proof.Machine

open Sys2Proof

/-! ### Operations by identity -/

/-- The cell whose queue holds an operation. -/
def State.cellOfOp (s : State) (id : Nat) : Option Nat :=
  (s.cells.find? (fun p => p.2.pend.any (fun o => o.id == id))).map (·.1)

def State.opAt (s : State) (c id : Nat) : Option PendOp := (s.cellAt c).pend.find? (fun o => o.id == id)

/-- An operation in the row or in a saved context. -/
def State.opAnywhere (s : State) (id : Nat) : Option PendOp :=
  let all := s.cells.flatMap (fun p => p.2.pend) ++ s.ctxs.flatMap (fun p => p.2.saved.flatMap (fun q => q.2.pend))
  all.find? (fun o => o.id == id)

/-- A completion for a cell: the operation leaves the queue list for the completed ones. -/
def Cell.opDone (x : Cell) (id : Nat) (w : List RegWrite) (failed : Bool) : Cell :=
  match x.pend.find? (fun o => o.id == id) with
  | none => x
  | some o => { x with pend := x.pend.filter (fun p => p.id != id)
                       done := x.done ++ [{ id := o.id, area := o.area, desc := o.desc, tok := o.tok, det := o.det,
                                            writes := w, fflags := 0, mflags := 0, failed := failed,
                                            hnd := o.kind.graphOf }] }

/-- Completes an operation wherever it stands, in the row or in a saved context: there the completion is kept beside
the saved cells, with no byte of the envelope (R263; assumption 112, DESIGN CHOICE). -/
def State.finishOp (s : State) (id : Nat) (w : List RegWrite) (failed : Bool) : State :=
  match s.cellOfOp id with
  | some c => s.modCell c (fun x => x.opDone id w failed)
  | none =>
    { s with ctxs := s.ctxs.map (fun p => (p.1, { p.2 with saved := p.2.saved.map (fun q => (q.1, q.2.opDone id w failed)) })) }

/-- Changes an operation wherever it stands, in the row or in a saved context. -/
def State.opChange (s : State) (id : Nat) (f : PendOp → PendOp) : State :=
  let g (x : Cell) : Cell := { x with pend := x.pend.map (fun o => if o.id == id then f o else o) }
  match s.cellOfOp id with
  | some c => s.modCell c g
  | none => { s with ctxs := s.ctxs.map (fun p => (p.1, { p.2 with saved := p.2.saved.map (fun q => (q.1, g q.2)) })) }

/-! ### Bridle records (R255) -/

def Bridle.pack (b : Bridle) : Nat :=
  (if b.phase then 1 else 0) + (if b.fault then 2 else 0) + b.apend % 2 ^ 15 * 4 + b.areset % 2 ^ 15 * 2 ^ 17 +
    b.bpend % 2 ^ 40 * 2 ^ 32

/-- A record read from the 16 bytes of a memory home, keeping the waiters of the old one. -/
def Bridle.ofBits (x : Nat) (b : Bridle) : Bridle :=
  { b with phase := x.testBit 0, fault := x.testBit 1, apend := bits x 16 2, areset := bits x 31 17, bpend := bits x 71 32 }

def State.bridleAt (s : State) (h : BridleHome) : Bridle :=
  match h with
  | .slot c i => tget Bridle.blank (s.cellAt c).bridles i
  | .memory pa => Bridle.ofBits (s.peekNat pa 16) (tget Bridle.blank s.mbridles pa)

/-- Stores waiters and updates; a memory home's record goes to its bytes. -/
def State.putBridle (s : State) (h : BridleHome) (b : Bridle) : State :=
  match h with
  | .slot c i => s.modCell c (fun x => { x with bridles := tset Bridle.blank x.bridles i b })
  | .memory pa =>
    let b' : Bridle := { b with phase := false, fault := false, apend := 0, areset := 0, bpend := 0 }
    { s with mbridles := tset Bridle.blank s.mbridles pa b' }

/-- An update reaches the home (R256): it counts at the next evaluation. -/
def State.bridleUpd (s : State) (h : BridleHome) (u : BrUpd) (w : Option BrWaiter) : State :=
  let b := s.bridleAt h
  s.putBridle h { b with upd := b.upd ++ [(u, w)] }

/-! ### Handles (R255, R259) -/

/-- Where a handle leads: a slot of a cell, or a virtual address. -/
inductive Handle where
  | slot (cell idx : Nat)
  | mem (va : Nat)
  deriving DecidableEq, Repr

def Handle.path : Handle → Path
  | .slot _ _ => .tree
  | .mem _ => .stream

def Handle.que : Handle → Nat
  | .slot _ _ => 0
  | .mem _ => 8

def Handle.home : Handle → BridleHome
  | .slot c i => .slot c i
  | .mem _ => .memory 0

def Handle.va : Handle → Nat
  | .slot _ _ => 0
  | .mem va => va

/-- HANDLE and SCOPE of R259; `init` lets a slot be named for the first time. -/
def State.handle (s : State) (w : Word) (scp : Nat) (init : Bool) : Except Bad Handle :=
  if w.getLsbD 63 then
    let ai := (w.extractLsb' 4 13).toNat
    let i := (w.extractLsb' 0 4).toNat
    let ar := s.area
    if w.extractLsb' 17 46 != 0 || decide (ar.alen ≤ ai) then .error ⟨clsSync, 1, 0⟩
    else
      let c := ar.cells.getD ai 0
      if !init && (tget Bridle.blank (s.cellAt c).bridles i).area != some s.here then .error ⟨clsSync, 1, 0⟩
      else if (scp = 0 && c != s.cur) || (scp = 1 && bayOf c != bayOf s.cur) || decide (2 ≤ scp) then .error ⟨clsSync, 2, 0⟩
      else .ok (.slot c i)
  else if !vaOk s.area.priv w.toNat || w.toNat % 16 != 0 then .error ⟨clsSync, 1, 0⟩
  else if scp < 2 then .error ⟨clsSync, 2, 0⟩
  else .ok (.mem w.toNat)

/-! ### Evaluation (R256) -/

/-- The status word of `brwait` (R258). -/
def brStatus (phase faulted reset : Bool) : Word :=
  (if phase then 1 else 0) + (if faulted then 2 else 0) + (if reset then 4 else 0)

/-- Releases every waiter with a status; the operation is still a `brWait`, whose register takes the status. -/
def State.releaseWaiters (s : State) (ws : List (Bool × BrWaiter)) (st : Word) : State :=
  ws.foldl (fun s w =>
    let d := match s.opAnywhere w.2.op with
      | some o => (match o.kind with | .brWait d _ _ _ _ _ => d | _ => 0)
      | none => 0
    s.finishOp w.2.op [.s d st] false) s

/-- Counts of R256 over a list of updates: arrivals, drops, bytes added, bytes landed, a failed copy. -/
def brCount (us : List BrUpd) : Nat × Nat × Nat × Nat × Bool :=
  us.foldl (fun (q : Nat × Nat × Nat × Nat × Bool) u =>
    let (a, d, p, l, x) := q
    match u with
    | .init _ => (a, d, p, l, x)
    | .arr => (a + 1, d, p, l, x)
    | .drop => (a + 1, d + 1, p, l, x)
    | .exp n => (a, d, p + n, l, x)
    | .issue n => (a, d, p + n, l, x)
    | .land n => (a, d, p, l + n, x)
    | .fail => (a, d, p, l, true)) (0, 0, 0, 0, false)

/-- What an evaluation makes of a record, with how its waiters are released: by RESET, FAULTED, OK. -/
structure BrEval where
  rc  : Bridle
  rst : Bool
  flt : Bool
  ok  : Bool
  deriving DecidableEq, Repr

def evalBridle (b : Bridle) (us : List BrUpd) (pick : Nat) : BrEval :=
  let inits := us.filterMap (fun u => match u with | .init n => some n | _ => none)
  let b0 := match inits with
    | [] => b
    | n :: _ => let n := inits.getD (pick % inits.length) n
                { b with phase := false, fault := false, apend := n, areset := n, bpend := 0 }
  let (arr, drp, add, land, failed) := brCount us
  let ap : Int := (b0.apend : Int) - arr
  let ar : Int := (b0.areset : Int) - drp
  let bp : Int := (b0.bpend : Int) + add - land
  let bad := decide (ap < 0) || decide (ar < 0) || decide (bp < 0) || decide ((2 ^ 40 : Int) ≤ bp) || failed
  let cl (x : Int) (m : Nat) : Nat := min x.toNat m
  let b1 := { b0 with apend := cl ap 32767, areset := cl ar 32767, bpend := cl bp (2 ^ 40 - 1), fault := b0.fault || bad }
  if !b1.fault && b1.apend = 0 && b1.bpend = 0 && !us.isEmpty then
    ⟨{ b1 with phase := !b1.phase, apend := b1.areset }, !inits.isEmpty, bad, true⟩
  else ⟨b1, !inits.isEmpty, bad, false⟩

/-- The evaluation of a bridle in a cycle, over every update that has reached its home; updates after it wait for the next cycle's.
A waiter that a `brinit` releases gets the phase after the whole evaluation (assumption 112, DESIGN CHOICE). -/
def State.bridleEval (s : State) (h : BridleHome) : State :=
  let b := s.bridleAt h
  if b.upd.isEmpty || b.once then s
  else
    let (pick, s) := s.free 16
    let ev := evalBridle b (b.upd.map (·.1)) pick.toNat
    let s := s.putBridle h { ev.rc with upd := [], once := true, wait := if ev.rst || ev.flt || ev.ok then [] else b.wait }
    let s := match h with
      | .memory pa => s.pokeNat pa 16 (Bridle.pack { ev.rc with upd := [], wait := [] })
      | .slot _ _ => s
    let s := if ev.rst || ev.flt || ev.ok then
        s.releaseWaiters b.wait (brStatus ev.rc.phase (ev.flt && !ev.rst) ev.rst) else s
    -- an arrival returns the phase that stood before its evaluation
    b.upd.foldl (fun s u =>
      match u.2 with
      | none => s
      | some w =>
        let d := match s.opAnywhere w.op with
          | some o => (match o.kind with | .brSent d => d | _ => 0)
          | none => 0
        s.finishOp w.op [.s d (if b.phase then 1 else 0)] false) s

/-- The bridles with an update that waits, or that have been evaluated in this cycle. -/
def State.bridlesBusy (s : State) : List BridleHome :=
  let busy (b : Bridle) : Bool := !b.upd.isEmpty || b.once
  s.cells.flatMap (fun p => (p.2.bridles.filter (fun q => busy q.2)).map (fun q => .slot p.1 q.1)) ++
    (s.mbridles.filter (fun q => busy q.2)).map (fun q => .memory q.1)

/-- A clock cycle ends: every bridle that an update has reached is evaluated, once (R256), and the next cycle begins. -/
def State.cycle (s : State) : State :=
  let s := s.bridlesBusy.foldl (fun s h =>
    let s := s.bridleEval h
    s.putBridle h { s.bridleAt h with once := false }) s
  { s with cyc := s.cyc + 1 }

end Sys2Proof.Machine
end

