-- ==== Sys2Proof/Machine/Sync.lean ====
section
/-! DEFINITION. Fences and stream barriers (R247 to R249), atomics (R251 to R254), bridle instructions (R258 to R260)
and landing-flag instructions (R261, R262), as a cell issues them. -/

namespace Sys2Proof.Machine

open Sys2Proof

/-- The operations among the effects that a cell holds. -/
def State.heldIds (s : State) (c : Nat) : List Nat := (s.heldIn c).map (·.op.id)

/-- A marker in the queue list: it issues at once and holds what it names (R248). Before commit it acts on the operations that are not
held, and is kept in the ballast buffer in its place, to act again at release on the held effects before and after it (R242). -/
def State.fenceMark (s : State) (k : Option (Bool × List Nat) → OpKind) : State :=
  if s.app.cmt then s.push .portal 0 none [] (k none)
  else
    let t := s.push .portal 0 none [] (k (some (false, s.heldIds s.cur)))
    let op : PendOp := { s.newOp (t.nextOp + 1) .portal 0 none (k (some (true, s.app.ballast.map (·.op.id)))) with held := true }
    { t.putApp { t.app with ballast := t.app.ballast ++ [⟨op, 0⟩] } with nextOp := t.nextOp + 1 }

def execFence (h : Hdr) (f : FmtF) (s : State) : Out :=
  .next (issue h false [] id (fun s => .ok (s.fenceMark (.fence f.pb f.pa f.scp.toNat f.kind.toNat none))) s)

def execSbar (h : Hdr) (f : FmtF) (s : State) : Out :=
  .next (issue h false [] id (fun s => .ok (s.fenceMark (.fence 1 1 f.scp.toNat f.kind.toNat (some f.str)))) s)

/-! ### Atomics -/

/-- Access size of an `atom` (R252). -/
def atomBytes (aop ty : Nat) : Nat := if aop = 12 then 16 else tyWidth ty / 8

/-- What an `atom` writes: the new value where a write occurs, and the flags of `fadd` (R251, R253). -/
def atomNew (aop ty old b c : Nat) : Option Nat × BitVec 6 :=
  let w := 8 * atomBytes aop ty
  let m := 2 ^ w
  let b := b % m
  let c := c % m
  match aop with
  | 0 => (some ((old + b) % m), 0)
  | 1 => (some (Nat.land old b), 0)
  | 2 => (some (Nat.lor old b), 0)
  | 3 => (some (Nat.xor old b), 0)
  | 4 => (some (if signed w old ≤ signed w b then old else b), 0)
  | 5 => (some (if signed w b ≤ signed w old then old else b), 0)
  | 6 => (some (min old b), 0)
  | 7 => (some (max old b), 0)
  | 8 => (some b, 0)
  | 9 => (if old = c then some b else none, 0)
  | 10 =>
    let r := (evAdd 0 (fdec ty old) (fdec ty b)).round ty 0 false 0
    (some r.bits, r.fl)
  | 11 => (none, 0)
  | _ => (if old = c then some b else none, 0)

/-- The register writes of an `atom`'s result. -/
def atomWrites (d aop ty old : Nat) : List RegWrite :=
  if d = 0 then []
  else if aop = 12 then [.s d (BitVec.ofNat 64 old), .s (d + 1) (BitVec.ofNat 64 (old / 2 ^ 64))]
  else if aop = 10 then [.s d (BitVec.ofNat 64 old)]
  else [.s d (BitVec.ofInt 64 (signed (8 * atomBytes aop ty) old))]

/-- What each target accepts (R252): sub-cause 7 ATOMOP, 8 ATOMSCP. -/
def atomAccepts (sp : Option Space) (aop scp : Nat) : Option Nat :=
  match sp with
  | none => if aop ≤ 9 || aop = 11 then (if scp = 0 then none else some 8) else some 7
  | some .hbm => if 1 ≤ scp then none else some 8
  | some .host => if aop = 0 || aop = 8 || aop = 9 || aop = 12 then (if scp = 4 then none else some 8) else some 7
  | some .peer => if aop = 0 || aop = 8 || aop = 9 then (if scp = 4 then none else some 8) else some 7

/-- The operands B and C: register pairs for `cas128`. -/
def atomOperand (a : AppCell) (aop n : Nat) : Nat :=
  if aop = 12 then (a.getS n).toNat + (a.getS (n + 1)).toNat * 2 ^ 64 else (a.getS n).toNat

/-- The destination registers of an `atom`. -/
def atomDst (d aop : Nat) : List Reg := if d = 0 then [] else if aop = 12 then [.s d, .s (d + 1)] else [.s d]

/-- An `atom` on the cell's own tile store: performed in program order, never held (R254). -/
def State.atomTile (s : State) (f : FmtA) (off : Nat) : Res :=
  let aop := f.aop.toNat
  let ty := f.ty.toNat
  let n := atomBytes aop ty
  let c := s.cellAt s.cur
  if off % n != 0 then .trap clsMemory 2 (s.app.getS f.a.toNat)
  else
    match c.runOver off n with
    | none => .trap clsMemory 6 (s.app.getS f.a.toNat)
    | some r =>
      if !s.mayRead r then .trap clsMemory 6 (s.app.getS f.a.toNat)
      else
        let go : Res :=
          match atomAccepts none aop f.scp.toNat with
          | some sub => .trap clsMemory sub (s.app.getS f.a.toNat)
          | none =>
            let a := s.app
            let old := leNat (c.tread off n)
            let s' := match (atomNew aop ty old (atomOperand a aop f.b.toNat) (atomOperand a aop f.c.toNat)).1 with
              | some v => s.modCell s.cur (fun x => x.twrite off (leBytes n v))
              | none => s
            .ok (match tokOf f.tv f.tok with
              | none => s'
              | some t => s'.pushDone (some t) (atomDst f.d.toNat aop) (atomWrites f.d.toNat aop ty old) 0 0)
        if aop = 11 then tileGate s 8 false go else (s.mayWrite r).res (tileGate s 8 false go)

/-- An `atom` on a virtual address: translated at issue; held, or committing, or queued (R252, R254). -/
def State.atomVirt (s : State) (f : FmtA) (va : Nat) : Res :=
  let aop := f.aop.toNat
  let ty := f.ty.toNat
  let n := atomBytes aop ty
  if !vaOk s.area.priv va then .trap clsMemory 3 (BitVec.ofNat 64 va)
  else if va % n != 0 then .trap clsMemory 2 (BitVec.ofNat 64 va)
  else
    match s.lookup s.home s.me va (aop != 11) with
    | none => .stay (s.askWalk s.home s.me va (aop != 11) .atomic s.cur s.here [.cellOp s.cur 0])
    | some e =>
      let pa := e.pa + (va - e.va)
      match spaceOf pa with
      | none => .wait
      | some sp =>
        match atomAccepts (some sp) aop f.scp.toNat with
        | some sub => .trap clsMemory sub (BitVec.ofNat 64 va)
        | none =>
          let a := s.app
          let k : OpKind := .atom f.d.toNat pa aop ty f.scp.toNat e.sc (atomOperand a aop f.b.toNat) (atomOperand a aop f.c.toNat)
          if f.d == 0 && aop != 11 then s.effect .stream 8 (tokOf f.tv f.tok) (n + 8) 0 k
          else needCommit s (fun s => .ok (s.push .stream 8 (tokOf f.tv f.tok) (atomDst f.d.toNat aop) k))

def execAtom (h : Hdr) (f : FmtA) (s : State) : Out :=
  let aop := f.aop.toNat
  let pair (x : BitVec 6) : List Reg := if aop = 12 then [.s x.toNat, .s (x.toNat + 1)] else [.s x.toNat]
  .next (issue h false (pair f.d ++ pair f.b ++ (if aop = 9 || aop = 12 then pair f.c else []) ++ [sR f.a]) id (fun s =>
    let w := s.app.getS f.a.toNat
    tokGate s.app f.tv f.tok (
      if w.getLsbD 63 then
        if w.extractLsb' 19 44 != 0 then .trap clsMemory 3 w else s.atomTile f (w.extractLsb' 0 19).toNat
      else s.atomVirt f w.toNat)) s)

/-! ### Bridle instructions -/

/-- An update of a bridle: at once for a slot home, held until commit for a memory home (R260). An update that returns
the phase keeps its token outstanding while it is held. -/
def State.bridleSend (s : State) (hd : Handle) (tok : Option Nat) (d : Nat) (u : BrUpd) (scp : Nat) : Res :=
  let k : OpKind := .brUpd d hd.home hd.va u scp
  match hd with
  | .slot _ _ => .ok (s.push hd.path hd.que tok (if d = 0 then [] else [.s d]) k)
  | .mem _ =>
    if s.app.cmt then .ok (s.push hd.path hd.que tok (if d = 0 then [] else [.s d]) k)
    else if d = 0 then s.effect hd.path hd.que tok 24 0 k
    else if s.ballastUsed s.cur + 24 ≤ Config.ballastBytes then
      let id := s.nextOp + 1
      let op : PendOp := { s.newOp id hd.path hd.que tok k with held := true }
      let s := s.putApp (s.app.take tok [.s d])
      .ok { s.putApp { s.app with ballast := s.app.ballast ++ [⟨op, 24⟩] } with nextOp := id }
    else .stay (s.putApp { s.app with force := true })

/-- Resolves a handle, then does the rest. -/
def State.withHandle (s : State) (w : Word) (scp : Nat) (init : Bool) (k : Handle → Res) : Res :=
  match s.handle w scp init with
  | .error b => b.res
  | .ok hd => k hd

/-- COUNT of R259. -/
def brCountBad : Res := .trap clsSync 3 0

/-- `brinit` names its slot for this application as it issues. -/
def execBrinit (h : Hdr) (f : FmtA) (s : State) : Out :=
  .next (issue h false [sR f.a, sR f.b] id (fun s =>
    tokGate s.app f.tv f.tok (s.withHandle (s.app.getS f.a.toNat) f.scp.toNat true (fun hd =>
      let n := (s.app.getS f.b.toNat).toNat
      if n = 0 || 32767 < n then brCountBad
      else
        (s.bridleSend hd (tokOf f.tv f.tok) 0 (.init n) f.scp.toNat).then (fun t =>
          match hd with
          | .slot c i => t.modCell c (fun x => { x with bridles := tmod Bridle.blank x.bridles i (fun b => { b with area := some s.here }) })
          | .mem _ => t)))) s)

def execBrarr (h : Hdr) (f : FmtA) (s : State) : Out :=
  .next (issue h false [sR f.d, sR f.a] id (fun s =>
    tokGate s.app f.tv f.tok (s.withHandle (s.app.getS f.a.toNat) f.scp.toNat false (fun hd =>
      s.bridleSend hd (tokOf f.tv f.tok) f.d.toNat .arr f.scp.toNat))) s)

def execBrdrop (h : Hdr) (f : FmtA) (s : State) : Out :=
  .next (issue h false [sR f.d, sR f.a] id (fun s =>
    tokGate s.app f.tv f.tok (s.withHandle (s.app.getS f.a.toNat) f.scp.toNat false (fun hd =>
      s.bridleSend hd (tokOf f.tv f.tok) f.d.toNat .drop f.scp.toNat))) s)

def execBrexp (h : Hdr) (f : FmtA) (s : State) : Out :=
  .next (issue h false [sR f.a, sR f.b] id (fun s =>
    tokGate s.app f.tv f.tok (s.withHandle (s.app.getS f.a.toNat) f.scp.toNat false (fun hd =>
      let n := (s.app.getS f.b.toNat).toNat
      if n = 0 || 2 ^ 40 ≤ n then brCountBad
      else s.bridleSend hd (tokOf f.tv f.tok) 0 (.exp n) f.scp.toNat))) s)

/-- A wait or test on a memory home commits the application first (R260). -/
def State.bridleRead (s : State) (hd : Handle) (k : State → Res) : Res :=
  match hd with
  | .slot _ _ => k s
  | .mem _ => needCommit s k

def execBrwait (h : Hdr) (f : FmtA) (s : State) : Out :=
  .next (issue h false [sR f.d, sR f.a, sR f.b] id (fun s =>
    tokGate s.app f.tv f.tok (s.withHandle (s.app.getS f.a.toNat) f.scp.toNat false (fun hd =>
      s.bridleRead hd (fun s => .ok (s.push hd.path hd.que (tokOf f.tv f.tok) [sR f.d]
        (.brWait f.d.toNat hd.home hd.va ((s.app.getS f.b.toNat).getLsbD 0) f.scp.toNat false)))))) s)

def execBrtest (h : Hdr) (f : FmtA) (s : State) : Out :=
  .next (issue h false [sR f.d, sR f.a] id (fun s =>
    tokGate s.app f.tv f.tok (s.withHandle (s.app.getS f.a.toNat) f.scp.toNat false (fun hd =>
      s.bridleRead hd (fun s => .ok (s.push hd.path hd.que (tokOf f.tv f.tok) [sR f.d]
        (.brTest f.d.toNat hd.home hd.va f.scp.toNat)))))) s)

/-! ### Landing flags -/

/-- The entries of the watch table that are taken: those that have not fired (R262). -/
def State.watching (s : State) : List Watch := s.watch.filter (fun w => w.hit.isNone)

/-- An entry that a waiter for a flag and an expected value shares. -/
def Watch.shares (w : Watch) (idx : Nat) (exp : BitVec 32) : Bool := w.hit.isNone && w.idx == idx && w.exp == exp

/-- Room in the watch table for an entry (R262): shared, or one of 1,024. -/
def State.watchRoom (s : State) (idx : Nat) (exp : BitVec 32) : Bool :=
  s.watch.any (fun w => w.shares idx exp) || decide (s.watching.length < 1024)

/-- Enters a waiter; the flag word is read once (R262). -/
def State.watchAdd (s : State) (idx : Nat) (exp : BitVec 32) (who : WatchWho) : State :=
  let now := if flagReached (s.flag idx) exp then some (s.flag idx) else none
  if s.watch.any (fun w => w.shares idx exp) then
    { s with watch := s.watch.map (fun w => if w.shares idx exp then { w with who := w.who ++ [who], hit := now } else w) }
  else { s with watch := s.watch ++ [{ idx := idx, exp := exp, hit := now, who := [who] }] }

def execFlwait (h : Hdr) (f : FmtA) (s : State) : Out :=
  .next (issue h false [sR f.d, sR f.a, sR f.b] id (fun s =>
    tokGate s.app f.tv f.tok (
      let w := s.app.getS f.a.toNat
      let idx := flagIdx w
      let exp := if f.b == 0 then flagExp w else (s.app.getS f.b.toNat).setWidth 32
      needCommit s (fun s =>
        if s.watchRoom idx exp then
          let s := s.push .stream 8 (tokOf f.tv f.tok) [sR f.d] (.flwait f.d.toNat idx exp f.scp.toNat false none)
          .ok (s.watchAdd idx exp (.cell s.cur s.nextOp))
        else .wait))) s)

def execFlset (h : Hdr) (f : FmtA) (s : State) : Out :=
  .next (issue h false [sR f.a, sR f.b] id (fun s =>
    tokGate s.app f.tv f.tok (s.effect .stream 8 (tokOf f.tv f.tok) 16 0
      (.flset (flagIdx (s.app.getS f.a.toNat)) (f.aop == 1) (s.app.getS f.b.toNat) f.scp.toNat))) s)

end Sys2Proof.Machine
end

