-- ==== Sys2Proof/Machine/Copies.lean ====
section
/-! DEFINITION. Copies (R182 to R189, R257): the packet, its validation, the movement of runs, completion, `cpq`. -/

namespace Sys2Proof.Machine

open Sys2Proof

/-! ### The packet (R182, R183) -/

def copyPkt (bits : Nat) : CopyPkt :=
  let bs := leBytes 128 bits
  let rd (o n : Nat) : Nat := leNat ((bs.drop o).take n)
  { sadr := BitVec.ofNat 64 (rd 0 8), dadr := BitVec.ofNat 64 (rd 8 8), hadr := BitVec.ofNat 64 (rd 16 8),
    run := rd 24 4, n1 := rd 28 4, n2 := rd 32 4, n3 := rd 36 4,
    ss1 := signed 64 (rd 40 8), ss2 := signed 64 (rd 48 8), ss3 := signed 64 (rd 56 8),
    ds1 := signed 64 (rd 64 8), ds2 := signed 64 (rd 72 8), ds3 := signed 64 (rd 80 8),
    badr := BitVec.ofNat 64 (rd 88 8), ctl := BitVec.ofNat 32 (rd 96 4), rsvd := rd 100 28 == 0 }

def CopyPkt.sts (p : CopyPkt) : Bool := p.ctl.getLsbD 0
def CopyPkt.dts (p : CopyPkt) : Bool := p.ctl.getLsbD 1
def CopyPkt.phy (p : CopyPkt) : Bool := p.ctl.getLsbD 2
def CopyPkt.cv (p : CopyPkt) : Nat := (p.ctl.extractLsb' 3 3).toNat
def CopyPkt.tr (p : CopyPkt) : Bool := p.ctl.getLsbD 6
def CopyPkt.brv (p : CopyPkt) : Bool := p.ctl.getLsbD 7

/-- Runs of a copy, and the bytes each lands: out(run) of R185 and R186. -/
def CopyPkt.runs (p : CopyPkt) : Nat := p.n1 * p.n2 * p.n3
def CopyPkt.out (p : CopyPkt) : Nat :=
  match p.cv with
  | 1 => 2 * p.run
  | 2 => 4 * p.run
  | 3 => p.run / 2
  | 4 => p.run / 4
  | _ => p.run

/-- The bytes of headers a run reads or writes. -/
def CopyPkt.hdrBytes (p : CopyPkt) : Nat :=
  match p.cv with
  | 1 => p.run / 32 * 4
  | 2 => p.run / 32 * 4
  | 3 => p.run / 64 * 4
  | 4 => p.run / 128 * 4
  | _ => 0

/-- Source and destination address of run `r` (R185). -/
def CopyPkt.srcAt (p : CopyPkt) (r : Nat) : Int :=
  (p.sadr.toNat : Int) + (r % p.n1 : Nat) * p.ss1 + (r / p.n1 % p.n2 : Nat) * p.ss2 + (r / p.n1 / p.n2 : Nat) * p.ss3
def CopyPkt.dstAt (p : CopyPkt) (r : Nat) : Int :=
  (p.dadr.toNat : Int) + (r % p.n1 : Nat) * p.ds1 + (r / p.n1 % p.n2 : Nat) * p.ds2 + (r / p.n1 / p.n2 : Nat) * p.ds3

/-- The extent of a nest of strides: lowest address, and one past the highest of `len` bytes. -/
def nestSpan (base : Int) (ns : List (Nat × Int)) (len : Nat) : Int × Int :=
  let lo := ns.foldl (fun a p => a + min 0 (((p.1 : Int) - 1) * p.2)) base
  let hi := ns.foldl (fun a p => a + max 0 (((p.1 : Int) - 1) * p.2)) base
  (lo, hi + len)

def CopyPkt.srcSpan (p : CopyPkt) : Int × Int :=
  nestSpan p.sadr.toNat [(p.n1, p.ss1), (p.n2, p.ss2), (p.n3, p.ss3)] p.run
/-- The destination's extent; a transpose lands granule g of row i at `dadr` + g × `ds1` + 16 i (R187). -/
def CopyPkt.dstSpan (p : CopyPkt) : Int × Int :=
  if p.tr then nestSpan p.dadr.toNat [(p.run / 16, p.ds1), (p.n1, 16)] 16
  else nestSpan p.dadr.toNat [(p.n1, p.ds1), (p.n2, p.ds2), (p.n3, p.ds3)] p.out

/-- The virtual addresses of a nest obey R146: its lowest and its highest do. -/
def spanVa (priv : Bool) (q : Int × Int) : Bool :=
  decide (0 ≤ q.1) && vaOk priv q.1.toNat && vaOk priv (q.2 - 1).toNat

/-- A tile-store span inside one run. -/
def State.spanRun (s : State) (q : Int × Int) : Option TileRun :=
  if q.1 < 0 then none else (s.cellAt s.cur).runOver q.1.toNat (q.2 - q.1).toNat

/-- Bytes of the source and of the destination in one piece: the elements that are read and written as one (R239): a byte, a
16-byte granule of a transpose, a block of a conversion. -/
def CopyPkt.unit (p : CopyPkt) : Nat :=
  if p.tr then 16 else match p.cv with | 1 => 32 | 2 => 32 | 3 => 64 | 4 => 128 | _ => 1
def CopyPkt.outUnit (p : CopyPkt) : Nat :=
  if p.tr then 16 else match p.cv with | 1 => 64 | 2 => 128 | 3 => 32 | 4 => 32 | _ => 1

/-- Pieces of a run and of the copy, and where piece `i` is read, is written, and has its header (R185 to R187). -/
def CopyPkt.perRun (p : CopyPkt) : Nat := p.run / p.unit
def CopyPkt.pieces (p : CopyPkt) : Nat := p.runs * p.perRun
def CopyPkt.from (p : CopyPkt) (i : Nat) : Int := p.srcAt (i / p.perRun) + p.unit * (i % p.perRun : Nat)
def CopyPkt.to (p : CopyPkt) (i : Nat) : Int :=
  let r := i / p.perRun
  let k := i % p.perRun
  if p.tr then (p.dadr.toNat : Int) + k * p.ds1 + 16 * (r : Int) else p.dstAt r + p.outUnit * (k : Int)
def CopyPkt.hdrAt (p : CopyPkt) (i : Nat) : Nat := p.hadr.toNat + 4 * i

/-- A copy of which nothing has been read. -/
def CopyPkt.start (p : CopyPkt) (mem : Option (Nat × Nat)) : CopyProg :=
  { left := if p.pieces = 0 then [] else [(0, p.pieces)], got := [], del := 0, mem := mem, old := [] }

/-- The header plane's span over every run. -/
def CopyPkt.hdrSpan (p : CopyPkt) : Int × Int := ((p.hadr.toNat : Int), (p.hadr.toNat : Int) + p.hdrBytes * p.runs)

/-- Validation at issue (R184), a tile-store destination in a tile of the application's own (R18, R162): the first failure in the order of the table, 0 when there is none; `brOk` says that a bound
bridle's handle is well formed. A tr copy whose run is no multiple of 16 gets ALIGN (assumption 107, DESIGN CHOICE). -/
def State.copyStatus (s : State) (p : CopyPkt) (brOk : Bool) : Nat :=
  let priv := s.area.priv
  let cv := p.cv
  let conv := cv != 0
  let packet : Bool :=
    !p.rsvd || p.ctl.extractLsb' 8 24 != 0 || decide (4 < cv) || (!conv && p.hadr != 0) || (!p.brv && p.badr != 0) ||
      p.run == 0 || decide (16777216 < p.run) || p.n1 == 0 || p.n2 == 0 || p.n3 == 0 || (conv && p.tr) ||
      (p.tr && (p.n2 != 1 || p.n3 != 1)) ||
      (p.brv && !brOk) ||
      (!p.phy && !p.sts && !spanVa priv p.srcSpan) || (!p.phy && !p.dts && !spanVa priv p.dstSpan) ||
      (conv && !p.phy && !(if cv ≤ 2 then p.sts else p.dts) && !spanVa priv p.hdrSpan)
  let al (i : Int) : Bool := i % 16 != 0
  let align : Bool :=
    (conv || p.tr) &&
      (al p.sadr.toNat || al p.dadr.toNat || al p.ss1 || al p.ss2 || al p.ss3 || al p.ds1 || al p.ds2 || al p.ds3 ||
        p.hadr.toNat % 4 != 0 || (p.tr && p.run % 16 != 0) || (decide (cv = 1) && p.run % 32 != 0) ||
        (decide (cv = 2) && p.run % 32 != 0) || (decide (cv = 3) && p.run % 64 != 0) || (decide (cv = 4) && p.run % 128 != 0))
  let rd (q : Int × Int) : Bool := match s.spanRun q with | some r => s.mayRead r | none => false
  let wr (q : Int × Int) : Bool := match s.spanRun q with | some r => s.mayRead r && s.mayWrite r == .ok | none => false
  let tile : Bool :=
    (p.sts && !rd p.srcSpan) || (p.dts && !wr p.dstSpan) ||
      (conv && decide (cv ≤ 2) && p.sts && !rd p.hdrSpan) || (conv && decide (3 ≤ cv) && p.dts && !wr p.hdrSpan)
  if packet then 1 else if align then 2 else if tile then 3 else if p.phy && !priv then 6 else 0

/-- A copy bound to a bridle: its handle, when it is well formed. A slot handle without its brinit or of another scope, or an address
that is no multiple of 16, makes the packet malformed (R184; assumption 107, DESIGN CHOICE). -/
def State.copyBridle (s : State) (p : CopyPkt) (scp : Nat) : Option Handle :=
  if p.brv then (match s.handle p.badr (if p.badr.getLsbD 63 then (if scp = 0 then 0 else 1) else 2) false with
    | .ok hd => some hd
    | .error _ => none)
  else none

/-- The home of a bridle with the translation of its memory address; none while the walk is missing. `badr` is a handle of R255, virtual under
`phy` = 1 too (R183; assumption 112, DESIGN CHOICE). -/
def State.bridleHome (s : State) (hd : Handle) : Option (BridleHome × List (Nat × TlbEnt)) :=
  match hd with
  | .slot c i => some (.slot c i, [])
  | .mem va => (s.lookup s.home s.me va true).map (fun e => (.memory (e.at va), [(va, e)]))

/-- The physical address of a bridle in memory. -/
def BridleHome.inMemory : BridleHome → Option Nat
  | .slot _ _ => none
  | .memory pa => some pa

/-- What a copy keeps of the home of its bridle: a memory address with its page's `sc`. -/
def homeMem (q : BridleHome × List (Nat × TlbEnt)) : Option (Nat × Nat) :=
  (BridleHome.inMemory q.1).map (fun pa => (pa, ((q.2.head?).map (fun (x : Nat × TlbEnt) => x.2.sc)).getD 0))

/-- Pins or unpins the tiles that a copy writes: its destination's, and its header plane's (R116, R188). -/
def CopyPkt.onTiles (p : CopyPkt) (f : Cell → Nat → Cell) (x : Cell) : Cell :=
  if !p.dts then x
  else
    let x := f x p.dstSpan.1.toNat
    if 3 ≤ p.cv then f x p.hadr.toNat else x

/-- `cpy` (R188): commits first where its destination or its bridle lies in memory; pins the tiles it writes; counts its
bytes on the bridle at issue (R257), an access that keeps the line of a bridle in memory (R159). A refused packet moves nothing and
fails its bridle (R184). R188 has the `dts` bit alone decide the commit and R257 lets a bridle in memory commit as well: both commit
(assumption 110, DESIGN CHOICE). -/
def execCpy (h : Hdr) (f : FmtM) (s : State) : Out :=
  .next (issue h false [vR f.d] id (fun s =>
    tokGate s.app f.tv f.tok (
      let p := copyPkt (s.app.getV f.d.toNat).bits.toNat
      let hd := s.copyBridle p f.scp.toNat
      let memBr := match hd with | some (.mem _) => true | _ => false
      let go (s : State) : Res :=
        let st := s.copyStatus p hd.isSome
        let home := match hd with | none => none | some x => s.bridleHome x
        match hd, home with
        | some (.mem va), none => .stay (s.askWalk s.home s.me va true .copy s.cur s.here [.cellOp s.cur 0])
        | _, _ =>
          let s := match home with
            | some (hm, l) =>
              let s := if l.isEmpty then s else s.touched (bayOf s.cur) 0 true l
              let s := s.bridleUpd hm (.issue (p.out * p.runs)) none
              if st = 0 then s else s.bridleUpd hm .fail none
            | none => s
          let s := if st = 0 then s.modCell s.cur (p.onTiles (fun c a => c.pinOver a 1)) else s
          .ok (s.push .copy 0 (tokOf f.tv f.tok) [] (.copy p f.scp.toNat f.pol.toNat (p.start (home.bind homeMem)) st 0))
      if !p.dts || memBr then needCommit s go else go s)) s)

/-- `cpq` (R189): reads and clears the kept status of a token. -/
def execCpq (h : Hdr) (f : FmtM) (s : State) : Out :=
  .next (issueReg h false [sR f.d] (fun a =>
    let t := f.ix.toNat
    let c := tget (⟨0, 0⟩ : CopyStat) a.cstat t
    .ok { a.setS f.d.toNat (BitVec.ofNat 64 (c.code.toNat + c.bytes % 2 ^ 32 * 2 ^ 8)) with
          cstat := tset ⟨0, 0⟩ a.cstat t ⟨0, 0⟩ }) s)

/-! ### Movement -/

/-- The address a copy's byte stands at: strides can carry a physical one below 0, where no byte exists. -/
def byteAt (a : Int) : Nat := if a < 0 then 2 ^ 64 else a.toNat

/-- The addresses of a copy's access with their translations: every byte of a tile store and of a physical address stands for
itself. -/
def State.copyTrans (s : State) (c : Nat) (ts phy : Bool) (w : Who) (write : Bool) (a : Int) (n : Nat) : Except Nat (List (Nat × TlbEnt)) :=
  let l := (upto 0 n).map (fun (k : Nat) => byteAt (a + k))
  if ts || phy then
    .ok (l.map (fun x => (x, { asid := 0, gen := 0, va := 0, size := 2 ^ 52, pa := 0, w := true, pv := false, mig := false, sc := 0 })))
  else s.transEnts (.bay (bayOf c)) w write l

/-- What a copy's access leaves in caches and counters (R159, R188). A physical copy has no page: its `sc` counts as 0 (assumption 111,
DESIGN CHOICE). -/
def State.copyAccess (s : State) (c : Nat) (ts phy : Bool) (w : Who) (pol : Nat) (wr : Bool) (l : List (Nat × TlbEnt)) : State :=
  if ts then s
  else if phy then ((l.map (fun q => paOf q / 128)).eraseDups).foldl (fun s n => s.keepLine (some (bayOf c)) pol 0 (128 * n) wr) s
  else s.accessed (bayOf c) w pol wr l

/-- Bytes of a copy's source; a byte at a physical address that does not exist is a free value. -/
def State.copyBytes (s : State) (c : Nat) (ts : Bool) : List (Nat × TlbEnt) → List Byte × State
  | [] => ([], s)
  | q :: l =>
    let (b, s) := if ts then (tget 0 (s.cellAt c).ts q.1, s)
      else if (spaceOf (paOf q)).isNone then s.free 8
      else (s.readByte (Party.ofCell c 1) 0 (paOf q), s)
    let (bs, s) := State.copyBytes s c ts l
    (b :: bs, s)

/-- A byte of a copy's source has an uncorrectable error (R184, R380). -/
def State.copyBad (s : State) (c : Nat) (ts : Bool) (l : List (Nat × TlbEnt)) : Bool :=
  l.any (fun q => if ts then (s.cellAt c).bad.contains q.1 else s.bad.contains (paOf q))

/-- Writes a copy's bytes at translated addresses. -/
def State.copyPut (s : State) (c op desc : Nat) (ts : Bool) (l : List (Nat × TlbEnt)) (bs : List Byte) : State :=
  if ts then (l.zip bs).foldl (fun s q => s.modCell c (fun x => x.twrite q.1.1 [q.2])) s
  else s.writeAll (Party.ofCell c 1) .copy 0 c op desc (((l.map paOf).zip bs).filter (fun q => (spaceOf q.1).isSome))

/-- The values of BX8 blocks as exact numbers, block by block. -/
def bx8Vals (hdrs els : List Nat) : List EV :=
  (els.zip (upto 0 els.length)).map (fun p => bxVal true (hdrs.getD (p.2 / 32) 0) p.1)

/-- Source bytes of a run or piece converted (R186): destination bytes, header bytes to write, flags. -/
def convertRun (cv : Nat) (src hdrs : List Byte) : List Byte × List Byte × BitVec 6 :=
  let ws (n : Nat) (bs : List Byte) : List Nat := splitN (8 * n) (bs.length / n) (leNat bs)
  let deq (ty n : Nat) : List Byte × List Byte × BitVec 6 :=
    let rs := (bx8Vals (ws 4 hdrs) (ws 1 src)).map (fun v => roundEV ty 0 false 0 v)
    (rs.flatMap (fun r => leBytes n r.bits), [], rs.foldl (fun f r => f ||| r.fl) 0)
  let quant (ty n : Nat) : List Byte × List Byte × BitVec 6 :=
    let xs := (ws n src).map (fdec ty)
    let bl := (upto 0 (xs.length / 32)).map (fun b => bxQuant true 6 0 (List.replicate 32 0) ((xs.drop (32 * b)).take 32))
    (bl.flatMap (fun b => b.els.map (BitVec.ofNat 8)), bl.flatMap (fun b => leBytes 4 b.hdr), bl.foldl (fun f b => f ||| b.fl) 0)
  match cv with
  | 1 => deq 6 2
  | 2 => deq 8 4
  | 3 => quant 6 2
  | 4 => quant 8 4
  | _ => (src, [], 0)

/-- A byte address that the source of a copy covers (R185, R187). Overlap is judged by the packet's addresses, not by what they translate to
(assumption 111, DESIGN CHOICE). -/
def CopyPkt.covers (p : CopyPkt) (a : Int) : Bool :=
  decide (p.srcSpan.1 ≤ a) && decide (a < p.srcSpan.2) &&
    (upto 0 p.runs).any (fun r => decide (p.srcAt r ≤ a) && decide (a < p.srcAt r + p.run))

/-- A destination byte that the source covers too is unpredictable (R185): a free value. -/
def State.overlapFree (s : State) (p : CopyPkt) (a : Int) : List Byte → List Byte × State
  | [] => ([], s)
  | b :: bs =>
    let (v, s') := if p.sts == p.dts && p.covers a then s.free 8 else (b, s)
    let (vs, s'') := State.overlapFree s' p (a + 1) bs
    (v :: vs, s'')

/-- A source byte as the rest of a copy sees it: what stood there before the copy wrote it (R185). -/
def CopyProg.seen (g : CopyProg) (a : Nat) (b : Byte) : Byte := ((g.old.find? (fun q => q.1 == a)).map (·.2)).getD b

/-- Before destination bytes that the source covers are written, what stands there is kept for the reads still to come. -/
def State.keepOld (s : State) (c : Nat) (p : CopyPkt) (l : List (Nat × TlbEnt)) (g : CopyProg) : State × CopyProg :=
  let m := l.filter (fun q => p.sts == p.dts && p.covers q.1 && !g.old.any (fun o => o.1 == q.1))
  let (bs, s) := s.copyBytes c p.dts m
  (s, { g with old := g.old ++ (m.map (·.1)).zip bs })

/-- Why a piece could not be moved. -/
inductive CopyStop where
  | miss (va : Nat) (write : Bool)
  | data
  deriving DecidableEq, Repr

/-- Reads piece `i` of a copy with its header: what the engine holds of it then, with its flags. The header plane lies in the
source's space for cv 1 and 2, in the destination's for cv 3 and 4 (R186; assumption 107, DESIGN CHOICE). -/
def State.pieceIn (s : State) (c : Nat) (p : CopyPkt) (w : Who) (pol : Nat) (g : CopyProg) (i : Nat) : Except CopyStop (CopyPiece × BitVec 6 × State) :=
  let hn := if p.cv = 1 || p.cv = 2 then 4 else 0
  match s.copyTrans c p.sts p.phy w false (p.from i) p.unit, s.copyTrans c p.sts p.phy w false (p.hdrAt i) hn with
  | .error va, _ => .error (.miss va false)
  | _, .error va => .error (.miss va false)
  | .ok l, .ok hl =>
    if s.copyBad c p.sts (l ++ hl) then .error .data
    else
      let (src, s) := s.copyBytes c p.sts l
      let src := ((l.map (·.1)).zip src).map (fun q => g.seen q.1 q.2)
      let (hs, s) := s.copyBytes c p.sts hl
      let (out, hout, fl) := convertRun p.cv src hs
      .ok (⟨i, out, hout⟩, fl, s.copyAccess c p.sts p.phy w pol false (l ++ hl))

/-- Writes a piece that the engine holds, and its header where it has one; it leaves the engine. -/
def State.pieceOut (s : State) (c : Nat) (op : PendOp) (p : CopyPkt) (w : Who) (pol : Nat) (g : CopyProg) (q : CopyPiece) :
    Except CopyStop (State × CopyProg) :=
  let a := p.to q.idx
  match s.copyTrans c p.dts p.phy w true a q.out.length, s.copyTrans c p.dts p.phy w true (p.hdrAt q.idx) q.hdr.length with
  | .error va, _ => .error (.miss va true)
  | _, .error va => .error (.miss va true)
  | .ok l, .ok hl =>
    let (s, g) := s.keepOld c p l g
    let (bs, s) := s.overlapFree p a q.out
    let s := s.copyPut c op.id op.desc p.dts l bs
    let s := if q.hdr.isEmpty then s else s.copyPut c op.id op.desc p.dts hl q.hdr
    .ok (s.copyAccess c p.dts p.phy w pol true (l ++ hl),
      { g with got := g.got.filter (fun x => x.idx != q.idx), del := g.del + q.out.length })

/-- Runs of numbers without number `i`. -/
def without (i : Nat) (l : List (Nat × Nat)) : List (Nat × Nat) :=
  (l.flatMap (fun r => if r.1 ≤ i && i < r.1 + r.2 then [(r.1, i - r.1), (i + 1, r.1 + r.2 - (i + 1))] else [r])).filter (fun r => r.2 != 0)

def CopyProg.awaits (g : CopyProg) (i : Nat) : Bool := g.left.any (fun r => decide (r.1 ≤ i) && decide (i < r.1 + r.2))

/-- Pieces read one after another, until one cannot be. -/
def State.piecesIn (s : State) (c : Nat) (p : CopyPkt) (w : Who) (pol : Nat) : List Nat → CopyProg → Nat → State × CopyProg × Nat × Option CopyStop
  | [], g, fl => (s, g, fl, none)
  | i :: is, g, fl =>
    match s.pieceIn c p w pol g i with
    | .error e => (s, g, fl, some e)
    | .ok (q, f, s) => s.piecesIn c p w pol is { g with left := without i g.left, got := g.got ++ [q] } (Nat.lor fl f.toNat)

/-- Pieces written one after another, until one cannot be. -/
def State.piecesOut (s : State) (c : Nat) (op : PendOp) (p : CopyPkt) (w : Who) (pol : Nat) : List CopyPiece → CopyProg → State × CopyProg × Option CopyStop
  | [], g => (s, g, none)
  | q :: qs, g =>
    match s.pieceOut c op p w pol g q with
    | .error e => (s, g, some e)
    | .ok (s, g) => s.piecesOut c op p w pol qs g

/-- The bridle of a copy in flight: its slot, or the address its memory home translated to at issue. -/
def State.copyHome (s : State) (c : Nat) (op : PendOp) (p : CopyPkt) (g : CopyProg) : Option BridleHome :=
  if !p.brv then none
  else if p.badr.getLsbD 63 then
    let ar := s.areaAt op.area
    let hc := ar.cells.getD (p.badr.extractLsb' 4 13).toNat c
    let i := (p.badr.extractLsb' 0 4).toNat
    if (tget Bridle.blank (s.cellAt hc).bridles i).area == some op.area then some (.slot hc i) else none
  else g.mem.map (fun q => .memory q.1)

/-- An update of a copy's bridle on its way, an access that keeps the line of one in memory (R159, R257). -/
def State.copyUpd (s : State) (c : Nat) (op : PendOp) (p : CopyPkt) (g : CopyProg) (u : BrUpd) : State :=
  match s.copyHome c op p g with
  | some hm =>
    let s := match hm with
      | .memory pa => s.keepLine (some (bayOf c)) 0 ((g.mem.map (fun (q : Nat × Nat) => q.2)).getD 0) pa true
      | .slot _ _ => s
    s.bridleUpd hm u none
  | none => s

/-- What a stop makes of a copy: the walk of a missing translation is asked for, an uncorrectable error fails it and its
bridle. -/
def State.copyStopped (s : State) (c : Nat) (op : PendOp) (w : Who) : Option CopyStop → State
  | none => s
  | some (.miss va wr) => s.askWalk (.bay (bayOf c)) w va wr .copy c op.area [.cellOp c op.id]
  | some .data =>
    match op.kind with
    | .copy p scp pol g _ fl =>
      let s := match s.opAt c op.id with
        | some o => s.opPut c { o with kind := .copy p scp pol { g with left := [], got := [] } 5 fl }
        | none => s
      s.copyUpd c op p g .fail
    | _ => s

/-- A burst (R161, R239): of the pieces named, at most 64 KiB, those that the engine holds are written, or else those still to be
read are read. Bytes that land leave the bridle (R257). -/
def State.copyLand (s : State) (c : Nat) (op : PendOp) (w : Who) (first n : Nat) : State :=
  match op.kind with
  | .copy p scp pol g 0 fl =>
    let is := upto first (min n (65536 / p.outUnit))
    let held := g.got.filter (fun q => is.contains q.idx)
    if held.isEmpty then
      let (s, g', fl', e) := s.piecesIn c p w pol (is.filter g.awaits) g fl
      let k : OpKind := .copy p scp pol g' 0 fl'
      (s.opPut c { op with kind := k }).copyStopped c { op with kind := k } w e
    else
      let (s, g', e) := s.piecesOut c op p w pol held g
      let k : OpKind := .copy p scp pol g' 0 fl
      let s := s.opPut c { op with kind := k }
      let s := if g'.over then s.landOp op.desc op.id else s
      let s := if g'.del = g.del then s else s.copyUpd c op p g (.land (g'.del - g.del))
      s.copyStopped c { op with kind := k } w e
  | _ => s

/-- A copy may complete: every run has landed and its writes stand at its scope, or it has failed (R188). -/
def State.copyReady (s : State) (c : Nat) (op : PendOp) : Bool :=
  match op.kind with
  | .copy _ scp _ g st _ =>
    st != 0 || (g.over &&
      s.bufs.all (fun b => !(b.cell == c && b.op == op.id) || (decide (scp ≤ b.level) && decide (scp < 4))))
  | _ => false

/-- Completes a copy: its status is kept for `cpq`, its tile is unpinned, its flags wait for the token (R186, R189). One that moved
all its bytes has counted for `eland` with the last of them (R364). -/
def State.copyFinish (s : State) (c : Nat) (op : PendOp) : State :=
  match op.kind with
  | .copy p _ _ g st fl =>
    let s := if st == 0 || st == 4 || st == 5 then s.modCell c (p.onTiles (fun x a => x.unpinOver a 1)) else s
    let a := s.appOf op.area c
    let s := match op.tok, op.det with
      | some t, none =>
        if st != 0 && (tget (⟨0, 0⟩ : CopyStat) a.cstat t).code == 0 then
          s.putAppOf op.area c { a with cstat := tset ⟨0, 0⟩ a.cstat t ⟨BitVec.ofNat 8 st, g.del⟩ }
        else s
      | _, _ => s
    let s := if st == 0 then s else s.landOp op.desc op.id
    s.opDone c op [] (if op.tok.isSome then BitVec.ofNat 6 fl else 0) 0 (st != 0)
  | _ => s

end Sys2Proof.Machine
end

