-- ==== Sys2Proof/Machine/Matrix.lean ====
section
/-! DEFINITION. The matrix unit: banks, accumulators, K steps, the matrix group (R216 to R231) and multicast bank loads
(R232, R233, R266). -/

namespace Sys2Proof.Machine

open Sys2Proof

/-! ### Values of rows and columns -/

/-- The elements of a row or column as exact values (R198, R216). -/
def rowVals (ty : Nat) (v : VecVal) : List EV :=
  let w := tyWidth ty
  if isBX ty then
    ((v.lanes w).zip (upto 0 (1024 / w))).map (fun p => bxVal (ty == 11) (v.hdrs.getD (p.2 / 32) 0) p.1)
  else (v.lanes w).map (fdec ty)

/-- The integer kind's elements. -/
def rowInts (ty : Nat) (v : VecVal) : List Int := (v.lanes 8).map (extTy ty)

/-- The kind of a pair (R217): FP32 unless the row type is an integer. -/
def pairFp (tya : Nat) : Bool := !isIntTy tya

/-- Column `j` of a bank with its headers. -/
def Bank.column (b : Bank) (j : Nat) : VecVal :=
  { bits := tget 0 b.col j, side := BitVec.ofNat 256 (joinN 32 ((upto 0 8).map (fun h => (tget 0 b.hdr (8 * j + h)).toNat))) }

def Bank.putColumn (b : Bank) (j : Nat) (v : VecVal) : Bank :=
  { b with col := tset 0 b.col j v.bits
           hdr := tsetRun 0 b.hdr (8 * j) (v.hdrs.map (BitVec.ofNat 32)) }

/-- A bank of a type from its first columns; the others are zero (R226). -/
def Bank.ofRows (ty : BitVec 4) (rows : List VecVal) : Bank :=
  (rows.zip (upto 0 rows.length)).foldl (fun b p => b.putColumn p.2 p.1) { ty := ty, col := [], hdr := [] }

def Acc.get (m : Acc) (i j : Nat) : BitVec 32 := tget 0 m.el (16 * i + j)
def Acc.put (m : Acc) (i j : Nat) (x : Nat) : Acc := { m with el := tset 0 m.el (16 * i + j) (BitVec.ofNat 32 x) }

/-- R218: with `zc` = 1 the type bit becomes the pair's kind, and a change of type clears every element. -/
def Acc.forKind (m : Acc) (fp zc : Bool) : Acc := if zc && m.fp != fp then { fp := fp, el := [] } else m

/-- One K step of accumulator row `i` against the 16 columns (R219 to R221, R227). -/
def kRow (m : Acc) (i : Nat) (zc : Bool) (tya tyb : Nat) (x : VecVal) (b : Bank) : Acc × BitVec 3 :=
  let fp := pairFp tya
  let m := m.forKind fp zc
  if fp then
    let xs := rowVals tya x
    (upto 0 16).foldl (fun (q : Acc × BitVec 3) j =>
      let ys := rowVals tyb (b.column j)
      let c : EV := if zc then .fin ⟨false, 0, 1⟩ else fdec 8 (m.get i j).toNat
      let ts := (xs.zip ys).map (fun p => evMul p.1 p.2)
      let psn := xs.any EV.psn || ys.any EV.psn || c.psn
      let (r, f) := kStepF ts psn c
      (q.1.put i j r, q.2 ||| f)) (m, 0)
  else
    let xs := rowInts tya x
    (upto 0 16).foldl (fun (q : Acc × BitVec 3) j =>
      let ys := rowInts tyb (b.column j)
      let c : Int := if zc then 0 else (m.get i j).toInt
      let (r, f) := kStepI ((xs.zip ys).map (fun p => p.1 * p.2)) c
      (q.1.put i j r, q.2 ||| f)) (m, 0)

/-- The rows of an `mmt` in order, row q into accumulator row q (R228). -/
def kRows (m : Acc) (zc : Bool) (tya tyb : Nat) (b : Bank) (rows : List VecVal) : Acc × BitVec 3 :=
  (rows.zip (upto 0 rows.length)).foldl (fun (q : Acc × BitVec 3) p =>
    let (m, f) := kRow q.1 p.2 zc tya tyb p.1 b
    (m, q.2 ||| f)) (m.forKind (pairFp tya) zc, 0)

/-! ### Faults of R223 -/

def badAXIS : Bad := ⟨clsOperand, 1, 0⟩
def badBANKTY : Bad := ⟨clsOperand, 2, 0⟩
def badACCTYPE : Bad := ⟨clsOperand, 3, 0⟩

/-- The checks on a stream that supplies rows (R166 with AXIS, R224): the first failure. -/
def rowsCheck (s : State) (x : StreamReg) (acc : Accepts) (ty n : Nat) : Option Bad :=
  match streamCheck x acc ty (x.cursor 0) badAXIS with
  | some b => some b
  | none =>
    let vas := (upto 0 n).flatMap (fun q => formed x.rc (rowLanes x ty q).1)
    match (if x.rc.ts then none else addrCheck s.area.priv vas) with
    | some b => some b
    | none => none

/-- TRANGE and ALIGN of the rows, judged at the access (R167, R169, R224). -/
def rowsRange (x : StreamReg) (ty n : Nat) : Option Bad :=
  let ls := (upto 0 n).flatMap (fun q => (rowLanes x ty q).1)
  match (if x.rc.ts then ls.find? (fun l => !x.rc.inRange l.tup) else none) with
  | some l => some ⟨clsMemory, 1, BitVec.ofInt 64 (x.rc.addr l.tup).1⟩
  | none => alignCheck (elBytes (tyWidth ty)) (ls.filterMap (fun l => match x.rc.loc l.tup with | .at p _ => some p | _ => none))

/-- A first failure, or the rest. -/
def orBad (b : Option Bad) (k : Res) : Res := match b with | some x => x.res | none => k

/-- Rows of a tile-store stream are accesses of its memory stream (R180, R224). -/
def rowGate (s : State) (as : Nat) (x : StreamReg) (k : Res) : Res := if x.rc.ts then tileGate s as true k else k

/-- Rows of a tile-store stream, read in program order (R180, R224). -/
def State.tileRows (s : State) (x : StreamReg) (ty n : Nat) : List VecVal × Bool :=
  (upto 0 n).foldl (fun (q : List VecVal × Bool) i =>
    let (rr, _) := rowPlan x ty i
    let (v, pz) := (s.cellAt s.cur).loadEls ty rr.base rr.els
    (q.1 ++ [v], q.2 || pz)) ([], false)

/-- Rows still to be fetched from memory, and whether poison stands in them already. -/
def rowPlans (x : StreamReg) (ty n : Nat) : List RowRead × Bool :=
  let rs := (upto 0 n).map (fun q => rowPlan x ty q)
  (rs.map (·.1), rs.any (·.2))

/-- The stream moved past the rows (R224). -/
def AppCell.rowsDone (a : AppCell) (as n : Nat) : AppCell := a.setA as ((a.getA as).advance 1 n)

/-! ### The matrix group -/

/-- An earlier `mmt` of the application still reads a bank: its rows are not all fetched (R226). -/
def State.bankRead (s : State) (bk : Nat) : Bool :=
  (s.cellAt s.cur).pend.any (fun o => o.area == s.here && (match o.kind with | .mmt _ bn _ _ _ _ _ => bn == bk | _ => false))

/-- An instruction that loads a bank: its unit is free once nothing reads the bank any more (R226, check 4 of R102), which one whose
guard is false does not wait for. -/
def bankGate (h : Hdr) (bk : Nat) (k : State → State) (s : State) : State :=
  if s.app.guardBit h && s.bankRead bk then s else k s

def execBld (h : Hdr) (f : FmtX) (s : State) : Out :=
  .next (bankGate h f.bk.toNat (issue h false [.b f.bk.toNat] id (fun s =>
    let a := s.app
    let x := a.getA f.src.toNat
    let ty := f.tya.toNat
    let n := f.nrow.toNat + 1
    tokGate a f.tv f.tok (orBad (rowsCheck s x .either ty n) (orBad (rowsRange x ty n) (rowGate s f.src.toNat x (
      let s1 := s.putApp (a.rowsDone f.src.toNat n)
      if x.rc.ts then
        let (rows, pz) := s.tileRows x ty n
        .ok (s1.pushDone (tokOf f.tv f.tok) [.b f.bk.toNat] [.b f.bk.toNat (Bank.ofRows f.tya rows)] (if pz then fPZ else 0) 0)
      else
        .ok (s1.push .matrix 0 (tokOf f.tv f.tok) [.b f.bk.toNat] (.bld f.bk.toNat f.tya n (rowPlans x ty n).1)))))))) s)

def execMma (h : Hdr) (f : FmtX) (s : State) : Out :=
  .next (issueReg h false [.m f.acc.toNat, .b f.bk.toNat, vR f.src] (fun a =>
    let b := a.getB f.bk.toNat
    let m := a.getM f.acc.toNat
    let zc := f.zc == 1
    if b.ty != f.tyb then .trap clsOperand 2 0
    else if !zc && m.fp != pairFp f.tya.toNat then .trap clsOperand 3 0
    else
      let (m', fl) := kRow m f.nrow.toNat zc f.tya.toNat f.tyb.toNat (a.getV f.src.toNat) b
      a.flagged 0 fl (fun a => a.setM f.acc.toNat m')) s)

def execMmt (h : Hdr) (f : FmtX) (s : State) : Out :=
  .next (issue h false [.m f.acc.toNat, .b f.bk.toNat] id (fun s =>
    let a := s.app
    let x := a.getA f.src.toNat
    let ty := f.tya.toNat
    let n := f.nrow.toNat + 1
    let b := a.getB f.bk.toNat
    let m := a.getM f.acc.toNat
    let zc := f.zc == 1
    tokGate a f.tv f.tok (orBad (rowsCheck s x .either ty n) (
      if b.ty != f.tyb then badBANKTY.res
      else if !zc && m.fp != pairFp ty then badACCTYPE.res
      else orBad (rowsRange x ty n) (rowGate s f.src.toNat x (
        let s1 := s.putApp (a.rowsDone f.src.toNat n)
        if x.rc.ts then
          let (rows, pz) := s.tileRows x ty n
          let (m', fl) := kRows m zc ty f.tyb.toNat b rows
          .ok (s1.pushDone (tokOf f.tv f.tok) [.m f.acc.toNat] [.m f.acc.toNat m'] (if pz then fPZ else 0) fl)
        else
          .ok (s1.push .matrix 0 (tokOf f.tv f.tok) [.m f.acc.toNat]
            (.mmt f.acc.toNat f.bk.toNat b f.tya f.tyb zc (rowPlans x ty n).1))))))) s)

def execMzero (h : Hdr) (f : FmtX) (s : State) : Out :=
  .next (issueReg h false [.m f.acc.toNat] (fun a => .ok (a.setM f.acc.toNat { fp := f.tya == 8, el := [] })) s)

/-- One element of `mscl` (R229). -/
def msclEl (x f : Nat) : Nat × BitVec 3 :=
  let p := evMul (fdec 8 x) (fdec 8 f)
  let r := roundEV 8 0 false 0 p.v
  (r.bits, (if p.v.isNaN then mMNV else 0) ||| (if r.fl &&& fOF != 0 then mMOF else 0))

def execMscl (h : Hdr) (f : FmtX) (s : State) : Out :=
  .next (issueReg h false [.m f.acc.toNat, vR f.src] (fun a =>
    let m := a.getM f.acc.toNat
    if !m.fp then .trap clsOperand 3 0
    else
      let fs := (a.getV f.src.toNat).lanes 32
      let (m', fl) := (upto 0 256).foldl (fun (q : Acc × BitVec 3) k =>
        let (r, g) := msclEl (m.get (k / 16) (k % 16)).toNat (fs.getD (k / 16) 0)
        (q.1.put (k / 16) (k % 16) r, q.2 ||| g)) (m, 0)
      a.flagged 0 fl (fun a => a.setM f.acc.toNat m')) s)

/-- The conversions of R230; none where the type is not allowed for the accumulator. -/
def accConv (fp : Bool) (ty : Nat) (store : Bool) (x : BitVec 32) : Option FR :=
  if fp then
    if ty = 6 || ty = 7 || ty = 8 then some (roundEV ty 0 false 0 (fdec 8 x.toNat))
    else if store && (ty = 4 || ty = 5) then some (roundEV ty 0 true 0 (fdec 8 x.toNat))
    else none
  else if ty = 0 || ty = 1 || ty = 2 then some ⟨wrapNat (tyWidth ty) (clampTy ty x.toInt), 0⟩
  else none

def execMrd (h : Hdr) (f : FmtX) (s : State) : Out :=
  .next (issueReg h false [.m f.acc.toNat, vR f.src] (fun a =>
    let m := a.getM f.acc.toNat
    let ty := f.tya.toNat
    let rs := (upto 0 16).map (fun j => accConv m.fp ty false (m.get f.nrow.toNat j))
    if rs.any Option.isNone then .trap clsOperand 3 0
    else
      let xs := rs.filterMap id
      a.flagged (xs.foldl (fun g r => g ||| r.fl) 0) 0 (fun a =>
        a.setV f.src.toNat (VecVal.ofLanes (tyWidth ty) (xs.map FR.bits)))) s)

/-- The 16 elements of each row `mst` writes. -/
def mstLanes (x : StreamReg) (n : Nat) : List LaneAt :=
  (upto 0 n).flatMap (fun q => (upto 0 16).map (fun j => ⟨16 * q + j, x.rowTuple j q⟩))

def execMst (h : Hdr) (f : FmtX) (s : State) : Out :=
  .next (issue h false [.m f.acc.toNat] id (fun s =>
    let a := s.app
    let x := a.getA f.src.toNat
    let ty := f.tya.toNat
    let n := f.nrow.toNat + 1
    let m := a.getM f.acc.toNat
    let ls := mstLanes x n
    orBad (streamCheck x .tile ty (x.cursor 0) badAXIS) ((s.recWrite x.rc).res (
      let rs := ls.map (fun l => accConv m.fp ty true (m.get (l.lane / 16) (l.lane % 16)))
      if rs.any Option.isNone then badACCTYPE.res
      else
        match ls.find? (fun l => !x.rc.inRange l.tup) with
        | some l => .trap clsMemory 1 (BitVec.ofInt 64 (x.rc.addr l.tup).1)
        | none =>
          orBad (alignCheck (elBytes (tyWidth ty)) (ls.map (fun l => (x.rc.addr l.tup).1))) (tileGate s f.src.toNat false (
            let xs := rs.filterMap id
            let els := (ls.zip xs).map (fun p => ({ va := (x.rc.addr p.1.tup).1.toNat, bits := tyWidth ty, sh := 0, val := p.2.bits } : ElWrite))
            match a.flagged (xs.foldl (fun g r => g ||| r.fl) 0) 0 (fun a => a.rowsDone f.src.toNat n) with
            | .ok a => .ok ((s.putApp a).modCell s.cur (fun c => c.storeEls els))
            | .trap c b i => .trap c b i
            | _ => .wait))))) s)

/-! ### Multicast (R232, R233, R266) -/

/-- The send whose rows the root takes now: the first not wholly sent (R232). -/
def Area.mcCurrent (a : Area) (g : Nat) : Option McJoin :=
  (a.joins.filter (fun j => j.grp == g && j.role == 0 && decide (j.sent < j.nrow + 1))).foldl
    (fun b j => match b with | none => some j | some x => if j.k < x.k then some j else some x) none

def Area.putJoin (a : Area) (j : McJoin) : Area :=
  { a with joins := a.joins.map (fun x => if x.grp == j.grp && x.k == j.k && x.cell == j.cell then j else x) }

/-- `bldm` roles: 0 `snd`, 1 `rt`, 2 `rb`. -/
def mcRole (f : FmtX) : Nat := if f.zc == 1 then 2 else if f.bk == 1 then 1 else 0

/-- A join disagrees with the others of its send, or is a second sender (R232). -/
def Area.mcClash (a : Area) (j : McJoin) : Bool :=
  a.joins.any (fun x => x.grp == j.grp && x.k == j.k &&
    (x.ty != j.ty || x.nrow != j.nrow || (x.role == 0 && j.role == 0)))

/-- The checks of an `rt` destination at issue (R224, R232): lanes beyond `ext0` are dropped, all else is in range. -/
def rtCheck (x : StreamReg) (ty n : Nat) : Option Bad :=
  match ((upto 0 n).flatMap (fun q => (rowLanes x ty q).1)).find? (fun l => !x.rc.inRange l.tup) with
  | some l => some ⟨clsMemory, 1, BitVec.ofInt 64 (x.rc.addr l.tup).1⟩
  | none => none

/-- Enters a `bldm` in its group. One that disagrees with the others of its send, or is its second sender, raises MISMATCH and has no other
effect (R117, R232, R336): in every cell that has not ended, as R134 has it for collectives (assumption 112, DESIGN CHOICE). -/
def State.mcJoin (s : State) (f : FmtX) (role : Nat) (x : StreamReg) (rows : List VecVal) : Res :=
  let a := s.app
  let g := f.acc.toNat
  let k := tget 0 a.nmc g
  let n := f.nrow.toNat + 1
  let j : McJoin := { cell := s.cur, grp := g, k := k, role := role, ty := f.tya, nrow := f.nrow.toNat, op := s.nextOp + 1,
                      bank := f.bk.toNat, strm := x, rows := rows, sent := 0,
                      pz := role == 0 && (if x.rc.ts then (s.tileRows x f.tya.toNat n).2 else (rowPlans x f.tya.toNat n).2) }
  if s.area.mcClash j then .stay (s.raiseAll s.here clsArea 5)
  else
  let a := if role = 2 then a else a.rowsDone f.src.toNat n
  let s := s.putApp { a with nmc := tset 0 a.nmc g (k + 1) }
  let dst : List Reg := if role = 2 then [.b f.bk.toNat] else []
  let kind : OpKind := if role = 0 then .msend g k f.tya (if x.rc.ts then [] else (rowPlans x f.tya.toNat n).1) else .mrecv g k (role == 1)
  let s := s.push .tree (20 + g) (tokOf f.tv f.tok) dst kind
  let s := if role = 1 then s.modCell s.cur (fun c => c.pinOver x.rc.base.toNat 1) else s
  .ok (s.modArea s.here (fun a => { a with joins := a.joins ++ [j] }))

def execBldm (h : Hdr) (f : FmtX) (s : State) : Out :=
  let role := mcRole f
  .next ((if role = 2 then bankGate h f.bk.toNat else id) (issue h false (if role = 2 then [.b f.bk.toNat] else []) id (fun s =>
    let a := s.app
    let x := a.getA f.src.toNat
    let ty := f.tya.toNat
    let n := f.nrow.toNat + 1
    tokGate a f.tv f.tok (
      if role = 0 then
        if s.area.joins.any (fun j => j.cell == s.cur && j.role == 0 && decide (j.sent < j.nrow + 1)) then .wait
        else orBad (rowsCheck s x .either ty n) (orBad (rowsRange x ty n) (rowGate s f.src.toNat x (
          s.mcJoin f 0 x (if x.rc.ts then (s.tileRows x ty n).1 else []))))
      else if role = 1 then
        orBad (rowsCheck s x .tile ty n) ((s.recWrite x.rc).res (orBad (rtCheck x ty n) (s.mcJoin f 1 x [])))
      else s.mcJoin f 2 StreamReg.invalid []))) s)

/-- One global row of a matrix fetch: its value and whether poison came with it, and the entries that translated it; or the
address that misses. `own` are the translations found so far (R153). -/
def State.fetchRow (s : State) (c : Nat) (w : Who) (own : List TlbEnt) (ty : Nat) (r : RowRead) : Except Nat ((VecVal × Bool) × List (Nat × TlbEnt)) :=
  match s.transFrom (.bay (bayOf c)) w own false (r.els.map (·.va)) with
  | .error va => .error va
  | .ok l =>
    let xs := r.els.zip (l.map paOf)
    let v := overlay r.base (xs.map (fun p =>
      (p.1.pos, p.1.bits, s.readNat (Party.ofCell c 1) 0 p.2 (elBytes p.1.bits) / 2 ^ p.1.sh)))
    let bd := (xs.filter (fun p => s.bad.any (fun q => decide (p.2 ≤ q) && decide (q < p.2 + elBytes p.1.bits)))).map (·.1)
    .ok (if bd.isEmpty then (v, false) else (poisonEls v ty bd, true), l)

/-- A sender's operation may fetch or send its next row: it stands at the head of its cell's TREE queue, and, while it has global rows,
of its MATRIX queue, and nothing holds it back (R224, R237, R239). -/
def State.sendFree (s : State) (c id : Nat) : Bool :=
  match (s.cellAt c).pend.findIdx? (fun o => o.id == id) with
  | none => true
  | some k => (s.ready c k).isSome

/-- A row leaves the sender for the links the root serves (R233, R266). -/
def State.mcFromSender (s : State) (i g : Nat) : State :=
  let a := (s.areaAt i).mcClean
  match a.mcCurrent g with
  | none => s
  | some j =>
    let below := a.mcBelow g j.k j.cell a.level a.rootNode
    if !(below.all (fun n => decide ((a.bufOf g (a.level - 1) n).rows.length < 8))) || !s.sendFree j.cell j.op then s
    else
      let w : Who := ⟨a.desc, a.priv⟩
      let plan := (rowPlan j.strm j.ty.toNat j.sent).1
      let own := ((s.opAt j.cell j.op).map PendOp.pages).getD []
      let row := if j.strm.rc.ts then .ok ((j.rows.getD j.sent VecVal.zero, false), [])
        else s.fetchRow j.cell w own j.ty.toNat plan
      match row with
      | .error va => (s.keepFound j.cell j.op w own false (plan.els.map (·.va))).askWalk (.bay (bayOf j.cell)) w va false .matrix j.cell i [.cellOp j.cell j.op]
      | .ok ((v, bad), l) =>
        let pz := j.pz || bad
        let a := (a.mcReach g (a.level - 1) j.k (j.nrow + 1) below).mcEnter g (a.level - 1) ⟨j.k, j.sent, v, []⟩ below
        let a := a.putJoin { j with sent := j.sent + 1, pz := pz }
        let s := s.accessed (bayOf j.cell) w 0 false l
        let s := s.putArea i { a with moved := s.cyc }
        if j.sent + 1 = j.nrow + 1 then
          (match s.opAt j.cell j.op with
           | some op => s.opDone j.cell op [] (if pz then fPZ else 0) 0 false
           | none => s)
        else s

/-- The link with its lower end at a level and node takes the next row for it out of the buffer above, where its own buffer has
a place. -/
def State.mcFromBuffer (s : State) (i g level node : Nat) : State :=
  let a := (s.areaAt i).mcClean
  let up := a.bufOf g (level + 1) (node / 2)
  match a.mcNext up node with
  | none => s
  | some r =>
    if decide (8 ≤ (a.bufOf g level node).rows.length) then s
    else
      let took (x : McRow) : McRow := if x.send == r.send && x.row == r.row then { x with taken := x.taken ++ [node] } else x
      let a := (a.putBuf { up with rows := up.rows.map took }).mcEnter g level r [node]
      s.putArea i { (a.mcReached g (level + 1) (node / 2)).mcClean with moved := s.cyc }

/-- A receiving cell takes the oldest row out of its own buffer and lands it (R224, R226, R233). -/
def State.mcLand (s : State) (i g c : Nat) : State :=
  let a := (s.areaAt i).mcClean
  let b := a.bufOf g 0 c
  match b.rows with
  | [] => s
  | r :: rest =>
    match a.joins.find? (fun j => j.grp == g && j.k == r.send && j.cell == c && j.role != 0) with
    | none => s
    | some j =>
      if !s.opFree c j.op then s else
      let a := a.putBuf { b with rows := rest }
      let j := { j with sent := j.sent + 1, rows := if j.role = 2 then j.rows ++ [r.val] else j.rows }
      let a := a.putJoin j
      let s := s.putArea i { a with moved := s.cyc }
      let s := if j.role = 1 then
          let (els, _) := storePlan j.strm.rc j.ty.toNat (rowLanes j.strm j.ty.toNat r.row).1 r.val
          s.modCell c (fun x => x.storeEls els)
        else s
      if j.sent = j.nrow + 1 then
        let s := if j.role = 1 then s.modCell c (fun x => x.unpinOver j.strm.rc.base.toNat 1) else s
        match s.opAt c j.op with
        | some op => s.opDone c op (if j.role = 2 then [.b j.bank (Bank.ofRows j.ty j.rows)] else []) 0 0 false
        | none => s
      else s

def execMulticastRowMove (i g : Nat) (l : McLink) (s : State) : Out :=
  .next (match l with
    | .fromSender => s.mcFromSender i g
    | .fromBuffer level node => s.mcFromBuffer i g level node)

def execMulticastRowLand (i g c : Nat) (s : State) : Out := .next (s.mcLand i g c)

end Sys2Proof.Machine
end

