-- ==== Sys2Proof/Machine/Area.lean ====
section
/-! DEFINITION. The area group: reading the application and writing the replacement (R129 to R133), area collectives
(R134 to R137), area channels (R138), with the events of the area root they lead to: a channel message delivered, STALL
(R139), commit (R141, R142), and the end of a sleep (R119). -/

namespace Sys2Proof.Machine

open Sys2Proof

/-! ### Reading the application (R129, R130) -/

/-- The word `syrd` reads: the p-th symbol of the area held in the cell, or operand position p held in the cell. -/
def Area.readSym (a : Area) (c fn p : Nat) : Option Word :=
  if fn = 0 then (a.syms.filter (fun y => y.cell == c))[p]?.map SymAt.word
  else
    match (a.operandIn c).find? (fun q => q.1 == p) with
    | some q => some q.2.word
    | none => none

def execSyrd (h : Hdr) (f : FmtS) (s : State) : Out :=
  .next (issueReg h false [sR f.d, sR f.a] (fun a =>
    match s.area.readSym s.cur f.fn.toNat ((a.getS f.a.toNat).toNat + f.sl.toNat) with
    | some w => .ok (a.setS f.d.toNat w)
    | none => .trap clsArea 1 0) s)

/-- The number of words of the element that starts a list: one, or up to the closer that matches its opener. -/
def elemLen : Nat → List Word → Nat
  | _, [] => 0
  | d, w :: ws =>
    if isOpener w then elemLen (d + 1) ws + 1
    else if isCloser w then (if d ≤ 1 then 1 else elemLen (d - 1) ws + 1)
    else if d = 0 then 1 else elemLen d ws + 1

/-- Position and length of the e-th element of a list, its words starting at position `p`; none when the list ends. -/
def elemAt : Nat → Nat → Nat → List Word → Option (Nat × Nat)
  | 0, _, _, _ => none
  | fuel + 1, e, p, ws =>
    match ws with
    | [] => none
    | w :: _ =>
      if isCloser w then none
      else
        let n := elemLen 0 ws
        if e = 0 then some (p, n) else elemAt fuel (e - 1) (p + n) (ws.drop n)

/-- The operand's element e: the top-level elements of a sequence, or the operand itself (R130). -/
def operandElem (ws : List Word) (e : Nat) : Option (Nat × Nat) :=
  match ws with
  | [] => none
  | w :: rest =>
    if symTag w = tagSEQ then elemAt (ws.length + 1) e 1 rest
    else if e = 0 then some (0, elemLen 0 ws) else none

/-- The root's answer to `opnd`. -/
def Area.opndWord (a : Area) (e : Nat) : Word :=
  let op := a.operand
  match operandElem (op.map SymAt.word) e with
  | none => BitVec.allOnes 64
  | some (p, n) =>
    let c := (op[p]?.map SymAt.cell).getD 0
    BitVec.ofNat 64 (a.aidx c % 2 ^ 14 + p % 2 ^ 17 * 2 ^ 14 + n % 2 ^ 17 * 2 ^ 31)

def execOpnd (h : Hdr) (f : FmtS) (s : State) : Out :=
  .next (issue h false [sR f.d, sR f.a] id (fun s =>
    tokGate s.app f.tv f.tok (
      .ok (s.push .tree 11 (tokOf f.tv f.tok) [sR f.d]
        (.opnd f.d.toNat (s.area.opndWord (s.app.getS f.a.toNat).toNat))))) s)

/-! ### Writing the replacement (R131, R133) -/

/-- The budgets of a good word: the slot budget, then the out-slot share (R46, R79); system operators are bound by neither (R234). -/
def State.outRoom (s : State) (k : Res) : Res :=
  if s.area.sys then k
  else if s.area.slotb ≤ s.app.out.length then .trap clsBudget 1 0
  else if 16 ≤ s.app.out.length then .trap clsBudget 3 0
  else k

/-- Appends a word to the out-slot buffer. -/
def AppCell.append (a : AppCell) (w : Word) (c : Nat) : AppCell := { a with out := a.out ++ [⟨w, c⟩] }

/-- What `emit` refuses: malformed words, and the tags it may not write. -/
def emitBad (w : Word) : Bool :=
  malformed w || symTag w == tagTILE || symTag w == tagTOKEN || symTag w == tagSPILL

/-- `OPER` in an unprivileged microprogram is written with `sys` = 0 (R23, R131). -/
def emitWord (priv : Bool) (w : Word) : Word :=
  if symTag w == tagOPER && !priv then w &&& ~~~((1 : Word) <<< 59) else w

def execEmit (h : Hdr) (f : FmtS) (s : State) : Out :=
  .next (issue h false [sR f.a] id (fun s =>
    let w := s.app.getS f.a.toNat
    if emitBad w then .trap clsArea 2 0
    else s.outRoom (.ok (s.putApp (s.app.append (emitWord s.area.priv w) s.cur)))) s)

/-- The symbols of the application stay: it waits for a later sweep, or it was voided or trapped and is kept as a held one, or voided
with no token id free and left as it stood. -/
def State.keepsSyms (s : State) (a : Area) : Bool :=
  a.phase == .waiting || (a.phase == .over && a.fate == .none) ||
    (match a.fate with
     | .awaitTok _ => true
     | .trapped _ => ((s.ctxAt a.desc).image.map (fun im => im.trapid)).getD 0 != 0
     | _ => false)

/-- The symbols of a cell that survive the applications of this sweep. -/
def State.standing (s : State) (c : Nat) : List Word :=
  let x := s.cellAt c
  let used : List Nat := s.areas.flatMap (fun p =>
    if p.2.live && !s.keepsSyms p.2 then (p.2.syms.filter (fun y => y.cell == c)).map SymAt.slot else [])
  ((upto 0 x.slots.length).zip x.slots).filterMap (fun p => if used.contains p.1 then none else some p.2)

/-- The words an area has emitted in a cell: of a microprogram through its out-slot buffer, of a system operator as its replacement,
those that name a tile of the cell. -/
def Area.emittedIn (a : Area) (c : Nat) : List Word :=
  (a.appAt c).out.map OutSym.word ++
    (match a.fate with
     | .sysRepl l => (l.filter (fun q => q.1 == c && q.2.tcell == c)).map (fun q => q.2.word)
     | _ => [])

/-- Sharers of a tile among the cell's emitted and surviving symbols (R131); what a system operator emits there counts as well (R22). -/
def State.sharers (s : State) (c off : Nat) : Nat :=
  let names (w : Word) : Bool := isTile w && tileOff w == off
  ((s.standing c).filter names).length +
    ((s.areas.flatMap (fun p => if p.2.live then (p.2.emittedIn c).filter names else [])).length)

def execEmitt (h : Hdr) (f : FmtS) (s : State) : Out :=
  .next (issue h false [sR f.a] id (fun s =>
    let w := s.app.getS f.a.toNat
    match s.runNamed w with
    | none => .trap clsArea 3 0
    | some r =>
      if !s.mayRead r then .trap clsArea 3 0
      else if 8 ≤ s.sharers s.cur r.off then .trap clsArea 4 0
      else s.outRoom (.ok ((s.modCell s.cur (fun c => c.modRun r.off (fun x => { x with emitted := true }))).putApp
        (s.app.append w s.cur)))) s)

/-- The lowest free token id of a context below 0xFFFC. -/
def Ctx.freeTid (c : Ctx) : Option Nat := (upto 0 0xFFFC).find? (fun t => !c.tids.contains t)

/-- Posts a completion to the context's matching store (R27). -/
def Ctx.post (c : Ctx) (x : Compl) : Ctx := { c with compl := c.compl ++ [x], told := [] }

/-- What a token turns into: `err.FAULTED` or `nil` (R27, R133). -/
def tokSym (failed : Bool) : Word := if failed then symError errFAULTED 0 else symNil

/-- Moves the operations under a token of an area's application to the detached set of a token id. -/
def Cell.detach (x : Cell) (i t tid : Nat) : Cell :=
  let hit (ar : Nat) (tk det : Option Nat) : Bool := ar == i && tk == some t && det == none
  { x with pend := x.pend.map (fun o => if hit o.area o.tok o.det then { o with det := some tid } else o)
           done := x.done.map (fun o => if hit o.area o.tok o.det then { o with det := some tid } else o) }

def Cell.underToken (x : Cell) (i t : Nat) : Nat :=
  (x.pend.filter (fun o => o.area == i && o.tok == some t && o.det == none)).length +
    (x.done.filter (fun o => o.area == i && o.tok == some t && o.det == none)).length

/-- Detaches what is outstanding under token `t` as token id `tid` (R133). -/
def State.detachTok (s : State) (t tid : Nat) : State :=
  let i := s.here
  let n := (s.cellAt s.cur).underToken i t
  let s := s.modCell s.cur (fun x => x.detach i t tid)
  let a := s.app
  let s := s.putApp { a.setT t 0 with
    marks := a.marks.map (fun m => if m.tok == t && m.det == none then { m with det := some tid } else m) }
  s.modCtx s.desc (fun c =>
    let c := { c with tids := c.tids ++ [tid] }
    if n = 0 then c.post { flag := false, id := tid, exp := 0, sym := tokSym false }
    else { c with detached := c.detached ++ [(tid, n, false)] })

def execTok (h : Hdr) (f : FmtS) (s : State) : Out :=
  .next (issue h false [sR f.d] id (fun s =>
    match (s.ctxAt s.desc).freeTid with
    | none => .wait
    | some tid =>
      s.outRoom (needCommit s (fun s =>
        let s := s.detachTok f.ch.toNat tid
        let w := symToken tid
        .ok (s.putApp ((s.app.append w s.cur).setS f.d.toNat w))))) s)

/-! ### Collectives (R134 to R137) -/

/-- The values of one combine over lanes, and its flags (R135). -/
def combLane (rop ty x y : Nat) : FR :=
  if isFloatTy ty then
    (match rop with
     | 0 => (evAdd 0 (fdec ty x) (fdec ty y)).round ty 0 false 0
     | 1 => ⟨fminmaxN ty true x y, 0⟩
     | _ => ⟨fminmaxN ty false x y, 0⟩)
  else
    let w := tyWidth ty
    (match rop with
     | 0 => ⟨(x + y) % 2 ^ w, 0⟩
     | 1 => ⟨wrapNat w (max (extTy ty x) (extTy ty y)), 0⟩
     | 2 => ⟨wrapNat w (min (extTy ty x) (extTy ty y)), 0⟩
     | 3 => ⟨Nat.land x y, 0⟩
     | 4 => ⟨Nat.lor x y, 0⟩
     | _ => ⟨Nat.xor x y, 0⟩)

def combLanes (rop ty : Nat) (a b : List Nat) : List Nat × BitVec 6 :=
  let rs := (a.zip b).map (fun p => combLane rop ty p.1 p.2)
  (rs.map FR.bits, rs.foldl (fun f r => f ||| r.fl) 0)

/-- Combines two partials; empty leaves the other unchanged (R136). -/
def combOpt (rop ty : Nat) (a b : Option (List Nat)) : Option (List Nat) × BitVec 6 :=
  match a, b with
  | some x, some y => let (r, f) := combLanes rop ty x y; (some r, f)
  | some x, none => (some x, 0)
  | none, y => (y, 0)

/-- The partial of node `nd` of level `n` over the cells' values, and the flags of its combines (R136). -/
def partialOf (rop ty : Nat) (val : Nat → Option (List Nat)) : Nat → Nat → Option (List Nat) × BitVec 6
  | 0, c => (val c, 0)
  | n + 1, nd =>
    let (l, f) := partialOf rop ty val n (2 * nd)
    let (r, g) := partialOf rop ty val n (2 * nd + 1)
    let (x, e) := combOpt rop ty l r
    (x, f ||| g ||| e)

/-- The results of a scan below node `nd` with an in-value: cell and result, in row order (R136). -/
def scanOf (rop ty : Nat) (excl : Bool) (val : Nat → Option (List Nat)) :
    Nat → Nat → Option (List Nat) → List (Nat × Option (List Nat)) × BitVec 6
  | 0, c, inv =>
    match val c with
    | none => ([], 0)
    | some x => if excl then ([(c, inv)], 0) else let (r, f) := combOpt rop ty inv (some x); ([(c, r)], f)
  | n + 1, nd, inv =>
    let (l, _) := partialOf rop ty val n (2 * nd)
    let (inr, e) := if (partialOf rop ty val n (2 * nd + 1)).1.isSome then combOpt rop ty inv l else (inv, 0)
    let (a, f) := scanOf rop ty excl val n (2 * nd) inv
    let (b, g) := scanOf rop ty excl val n (2 * nd + 1) inr
    (a ++ b, e ||| f ||| g)

/-- A part's lanes: every lane of a `v` register, or the one lane of a scalar. -/
def CollPart.lanesOf (p : CollPart) : List Nat :=
  if p.fn % 2 = 0 then p.val.lanes (tyWidth p.ty) else [p.val.bits.toNat % 2 ^ tyWidth p.ty]

/-- The register write of a combined result. -/
def CollPart.result (p : CollPart) (l : List Nat) : RegWrite :=
  match p.dst with
  | .v d => .v d (VecVal.ofLanes (tyWidth p.ty) l)
  | .s d => .s d (if isFloatTy p.ty then BitVec.ofNat 64 (l.headD 0) else widenTy p.ty (l.headD 0))
  | _ => .s 0 0

/-- A whole register delivered. -/
def CollPart.whole (p : CollPart) (v : VecVal) : RegWrite :=
  match p.dst with
  | .v d => .v d v
  | .s d => .s d (v.bits.setWidth 64)
  | _ => .s 0 0

/-- Whose register cell `i` of `n` receives from `nbr` (R137). -/
def nbrFrom (fn i n : Nat) : Option Nat :=
  match fn with
  | 0 => if i = 0 then none else some (i - 1)
  | 1 => if i + 1 < n then some (i + 1) else none
  | 2 => if i = 0 then some (n - 1) else some (i - 1)
  | _ => if i + 1 < n then some (i + 1) else some 0

/-- The results of a collective that every running cell has joined, with the flags its combines raise. -/
def Area.collResults (a : Area) (ps : List CollPart) : List (CollPart × RegWrite) × BitVec 6 :=
  let part (c : Nat) : Option CollPart := ps.find? (fun p => p.cell == c)
  let val (c : Nat) : Option (List Nat) := (part c).map CollPart.lanesOf
  let ofIdx (i : Nat) : VecVal := ((part (a.cells.getD i 0)).map CollPart.val).getD VecVal.zero
  match ps with
  | [] => ([], 0)
  | p0 :: _ =>
    if p0.code = 0xD3 then (ps.map (fun p => (p, p.whole (ofIdx p0.src))), 0)
    else if p0.code = 0xD8 then
      (ps.map (fun p => (p, p.whole (match nbrFrom p0.fn (a.aidx p.cell) a.alen with
        | none => VecVal.zero
        | some j => ofIdx j))), 0)
    else if p0.code = 0xD4 then
      let (r, f) := partialOf p0.rop p0.ty val a.level a.rootNode
      (ps.map (fun p => (p, p.result (r.getD []))), f)
    else
      let (_, f0) := partialOf p0.rop p0.ty val a.level a.rootNode
      let (rs, f) := scanOf p0.rop p0.ty (decide (2 ≤ p0.fn)) val a.level a.rootNode none
      (ps.map (fun p => (p, p.result (((rs.find? (fun q => q.1 == p.cell)).bind (·.2)).getD
        (List.replicate p.lanesOf.length 0)))), f0 ||| f)

/-- Two parts of one collective agree (R134). -/
def CollPart.agrees (p q : CollPart) : Bool :=
  p.code == q.code && p.rop == q.rop && p.ty == q.ty && p.fn == q.fn && p.src == q.src

/-- A cell joins its next collective: MISMATCH, or the part is entered. -/
def State.joinColl (s : State) (code : Nat) (f : FmtS) (src : Nat) (dst : Reg) (val : VecVal) : Res :=
  let i := s.here
  let a := s.app
  let k := a.ncoll
  let p : CollPart := { cell := s.cur, op := s.nextOp + 1, code := code, rop := f.rop.toNat, ty := f.ty.toNat,
                        fn := f.fn.toNat, src := src, dst := dst, val := val, id := k, tok := tokOf f.tv f.tok, on := false }
  let same := s.area.colls.filter (fun q => q.id == k)
  if same.any (fun q => !q.agrees p) ||
      s.area.cells.any (fun c => (s.area.appAt c).ended && decide ((s.area.appAt c).ncoll ≤ k)) then
    .stay (s.raiseAll i clsArea 5)
  else
    let s := s.putApp { a with ncoll := k + 1 }
    let s := s.push .tree 1 (tokOf f.tv f.tok) [dst] (.coll k)
    .ok (s.modArea i (fun ar => { ar with colls := ar.colls ++ [p] }))

/-- A part of a collective is performed; the last part of all completes it. -/
def State.collPerform (s : State) (i c k : Nat) : State :=
  let s := s.modArea i (fun ar => { ar with moved := s.cyc, colls := ar.colls.map (fun p =>
    if p.id == k && p.cell == c then { p with on := true } else p) })
  let ar := s.areaAt i
  let ps := ar.colls.filter (fun p => p.id == k && p.on)
  if ps.length < ar.alen then s
  else
    let (rs, fl) := ar.collResults ps
    let s := s.putArea i { ar with colls := ar.colls.filter (fun q => q.id != k), collN := ar.collN + 1, moved := s.cyc }
    rs.foldl (fun s r =>
      match s.opAt r.1.cell r.1.op with
      | some op => s.opDone r.1.cell op [r.2] fl 0 false
      | none => s) s

/-- The source register of a collective: a `v` register, or the 64 bits of an `s` register. -/
def AppCell.collVal (a : AppCell) (fn n : Nat) : VecVal :=
  if fn % 2 = 0 then a.getV n else { bits := (a.getS n).setWidth 1024, side := 0 }

/-- The registers a collective names. -/
def collReg (fn n : Nat) : Reg := if fn % 2 = 0 then .v n else .s n

def execAbc (h : Hdr) (f : FmtS) (s : State) : Out :=
  let fn := f.fn.toNat
  .next (issue h false [collReg fn f.d.toNat, collReg fn f.a.toNat, sR f.b] id (fun s =>
    tokGate s.app f.tv f.tok (
      let src := (s.app.getS f.b.toNat).toNat
      if s.area.alen ≤ src then .trap clsArea 6 0
      else s.joinColl 0xD3 f src (collReg fn f.d.toNat) (s.app.collVal fn f.a.toNat))) s)

def execArd (h : Hdr) (f : FmtS) (s : State) : Out :=
  let fn := f.fn.toNat
  .next (issue h false [collReg fn f.d.toNat, collReg fn f.a.toNat] id (fun s =>
    tokGate s.app f.tv f.tok (s.joinColl 0xD4 f 0 (collReg fn f.d.toNat) (s.app.collVal fn f.a.toNat))) s)

def execAscn (h : Hdr) (f : FmtS) (s : State) : Out :=
  let fn := f.fn.toNat
  .next (issue h false [collReg fn f.d.toNat, collReg fn f.a.toNat] id (fun s =>
    tokGate s.app f.tv f.tok (s.joinColl 0xD5 f 0 (collReg fn f.d.toNat) (s.app.collVal fn f.a.toNat))) s)

def execNbr (h : Hdr) (f : FmtS) (s : State) : Out :=
  .next (issue h false [vR f.d, vR f.a] id (fun s =>
    tokGate s.app f.tv f.tok (s.joinColl 0xD8 f 0 (vR f.d) (s.app.getV f.a.toNat))) s)

/-! ### Area channels (R138) -/

def execAsnd (h : Hdr) (f : FmtS) (s : State) : Out :=
  .next (issue h false [vR f.a, sR f.b] id (fun s =>
    tokGate s.app f.tv f.tok (
      let dst := (s.app.getS f.b.toNat).toNat
      if s.area.alen ≤ dst then .trap clsArea 6 0
      else if 8 ≤ s.app.outq.length then .wait
      else
        let m : ChanMsg := { seq := s.nextOp + 1, sender := s.area.aidx s.cur, dest := dst, ch := f.ch.toNat,
                             val := s.app.getV f.a.toNat, op := none }
        match tokOf f.tv f.tok with
        | none => .ok ({ s with nextOp := s.nextOp + 1 }.putApp { s.app with outq := s.app.outq ++ [m] })
        | some t =>
          let s := s.push .tree 2 (some t) [] (.asnd f.ch.toNat)
          .ok (s.putApp { s.app with outq := s.app.outq ++ [{ m with op := some s.nextOp }] }))) s)

def execArcv (h : Hdr) (f : FmtS) (s : State) : Out :=
  .next (issue h false [vR f.d, sR f.a] id (fun s =>
    tokGate s.app f.tv f.tok (
      .ok (s.push .tree (3 + f.ch.toNat) (tokOf f.tv f.tok) [vR f.d, sR f.a]
        (.arcv f.d.toNat f.a.toNat f.ch.toNat)))) s)

/-- The receive buffer of a channel in a cell of an area. -/
def Area.recvBuf (a : Area) (c ch : Nat) : List ChanMsg := tget [] (a.appAt c).recvq ch

/-- The first message of an outbound queue whose receive buffer has room and that no earlier message for the same
buffer stands before. -/
def Area.deliverable (a : Area) : List (Nat × Nat) → List ChanMsg → Option ChanMsg
  | _, [] => none
  | blocked, m :: ms =>
    let key := (m.dest, m.ch)
    if blocked.contains key || decide (8 ≤ (a.recvBuf (a.cells.getD m.dest 0) m.ch).length) then
      a.deliverable (key :: blocked) ms
    else some m

/-- A message leaves the outbound queue of cell `c` for its receive buffer; a token of its `asnd` completes (R138). -/
def execChannelMessageDelivery (i c : Nat) (s : State) : Out :=
  let ar := s.areaAt i
  .next (
    if !ar.live then s
    else
      match ar.deliverable [] ((ar.appAt c).outq.filter (fun m => s.msgFree c m.seq)) with
      | none => s
      | some m =>
        let d := ar.cells.getD m.dest 0
        let src := ar.appAt c
        let ar := ar.putApp c { src with outq := src.outq.erase m }
        let dst := ar.appAt d
        let ar := ar.putApp d { dst with recvq := tmod [] dst.recvq m.ch (fun q => q ++ [{ m with op := none }]) }
        let s := s.putArea i { ar with moved := s.cyc }
        match m.op with
        | none => s
        | some id =>
          match (s.cellAt c).pend.find? (fun o => o.id == id) with
          | some op => s.opDone c op [] 0 0 false
          | none => s)

/-! ### Events of the area root -/

/-- An operation that does not hold off STALL: channel receives and sends, collectives, multicast. -/
def OpKind.waits : OpKind → Bool
  | .arcv _ _ _ => true
  | .coll _ => true
  | .msend _ _ _ _ => true
  | .mrecv _ _ _ => true
  | _ => false

def OpKind.idle : OpKind → Bool
  | .asnd _ => true
  | .fence _ _ _ _ _ _ => true
  | k => k.waits

/-- A cell stands at an `asnd` that finds its outbound queue full (R308), or at a `bldm` whose group still sends (R139): it waits for
nothing else. -/
def State.heldAtIssue (s : State) (i c : Nat) : Bool :=
  let a := s.appOf i c
  let w := s.wordIn i c a.pc
  let ready (h : Hdr) (tv : BitVec 1) (tok : BitVec 3) : Bool :=
    a.sleep.isNone && waitOver h.wm a && a.guardBit h && a.tokRoom tv tok
  match decodeCell true w with
  | .ok (.asnd h f) => ready h f.tv f.tok && decide (8 ≤ a.outq.length)
  | .ok (.bldm h f) =>
    ready h f.tv f.tok && mcRole f == 0 && (s.areaAt i).joins.any (fun j => j.cell == c && j.role == 0 && decide (j.sent < j.nrow + 1))
  | _ => false

/-- Some running cell of an area waits on a channel, a collective or a multicast (R139). -/
def State.someWaits (s : State) (i : Nat) : Bool :=
  (s.areaAt i).cells.any (fun c => !((s.areaAt i).appAt c).ended &&
    ((s.cellAt c).pend.any (fun o => o.area == i && o.kind.waits) || s.heldAtIssue i c))

/-- R139 for an area. A token that a held effect keeps outstanding (R260) holds the trap off as an operation in a queue does. -/
def State.stalled (s : State) (i : Nat) : Bool :=
  let a := s.areaAt i
  let ops (c : Nat) : List PendOp := (s.cellAt c).pend.filter (fun o => o.area == i)
  a.live && a.phase == .running && decide (a.moved + Config.stallCycles ≤ s.cyc) &&
    a.cells.all (fun c => (ops c).all (fun o => o.kind.idle) && (s.cellAt c).done.all (fun o => o.area != i) &&
      (a.appAt c).ballast.all (fun h => h.op.tok.isNone) && (a.appAt c).fault.isNone) &&
    s.someWaits i

def execAreaStall (s : State) : Out := .next (if s.stalled s.unit then s.raiseAll s.unit clsArea 7 else s)

/-- Commit at the area root; a void that arrives with it wins (R141). -/
def execCommit (s : State) : Out :=
  let i := s.unit
  let a := s.areaAt i
  .next (if a.live && a.phase == .running && !a.cmt && !a.trapped && a.commitDue then s.commitArea i else s)

/-- Sleeps of an area end: where no cell of it waited, the 4,096 cycles of R139 begin now. -/
def State.woken (s : State) (i : Nat) (a : Area) : Area := { a with moved := if s.someWaits i then a.moved else s.cyc }

/-- A sleep ends when its cycles have passed (R119). -/
def execSleepExpiry (s : State) : Out :=
  let c := s.unit
  match (s.cellAt c).serve with
  | [] => .next s
  | i :: _ =>
    let a := s.appOf i c
    match a.sleep with
    | some t => .next (if t ≤ s.cyc then s.putArea i (s.woken i ((s.areaAt i).putApp c { a with sleep := none })) else s)
    | none => .next s

end Sys2Proof.Machine
end

