-- ==== Sys2Proof/Machine/Signals.lean ====
section
/-! DEFINITION. What the module signals to its hosts: MSI-X vectors (R372), refused accesses in PORT.ERRLOG (R55, R372),
queue errors (R59), and the soft-error log (R381). -/

namespace Sys2Proof.Machine

open Sys2Proof

/-! ### MSI-X (R372) -/

/-- A word of the MSI-X table: entry `n / 2`, its low or high half. The mask bit, [32] of the high word, is stored
inverted, so that an unwritten entry is masked. -/
def PortRegs.tableWord (p : PortRegs) (n : Nat) : Word :=
  let w := tget 0 p.table n
  if n % 2 = 1 then w ^^^ ((1 : Word) <<< 32) else w

def PortRegs.putTableWord (p : PortRegs) (n : Nat) (w : Word) : PortRegs :=
  { p with table := tset 0 p.table n (if n % 2 = 1 then w ^^^ ((1 : Word) <<< 32) else w) }

/-- Vector `v` may be sent: MSI-X is enabled and the entry is not masked. -/
def PortRegs.mayRaise (p : PortRegs) (v : Nat) : Bool := p.msix && !(p.tableWord (2 * v + 1)).getLsbD 32

/-- Raises a vector on a port: sent, or pending until it may be sent. -/
def State.raiseVec (s : State) (p : Port) (v : Nat) : State :=
  let r := s.portAt p
  if r.mayRaise v then { s with irqs := s.irqs ++ [(p, v)] }
  else if r.pend.contains v then s
  else s.putPort p { r with pend := r.pend ++ [v] }

/-- Raises a vector on both ports (assumption 10). -/
def State.raiseBoth (s : State) (v : Nat) : State := (s.raiseVec .A v).raiseVec .B v

/-- Sends the pending vectors that may now be sent. -/
def State.sendPending (s : State) (p : Port) : State :=
  let r := s.portAt p
  let go := r.pend.filter r.mayRaise
  { s.putPort p { r with pend := r.pend.filter (fun v => !r.mayRaise v) } with irqs := s.irqs ++ go.map (fun v => (p, v)) }

/-- The machine-check vector (R372). -/
def State.machineCheck (s : State) : State := s.raiseBoth 0

/-! ### Refused accesses and queue errors -/

/-- A refused access is recorded in the port's `PORT.ERRLOG` (R55, R372). -/
def State.logRefusal (s : State) (a : HostAcc) (off : Nat) (write : Bool) : State :=
  let r := s.portAt a.port
  if r.ev then s.putPort a.port { r with eovf := true }
  else s.putPort a.port { r with eoff := BitVec.ofNat 22 off, ewin := a.user, ewr := write, ev := true }

/-- A queue error (R59): only the first cause is kept; the queue's vector is raised. -/
def State.queueError (s : State) (q cause : Nat) : State :=
  let x := s.queueAt q
  let s := if x.errv then s else s.putQueue q { x with ecause := BitVec.ofNat 4 cause, errv := true }
  s.raiseBoth x.vec.toNat

/-! ### The soft-error log (R381) -/

def errUnitCode : ErrUnit → Nat
  | .register => 0
  | .slot => 1
  | .tileStore => 2
  | .stageCache => 3
  | .programCache => 4
  | .hbm => 5
  | .outSlot => 6
  | .directory => 7

/-- Writes one 32-byte record and, for an uncorrectable error, raises vector 1 (field widths: assumption 5). -/
def State.softError (s : State) (u : ErrUnit) (idx addr : Nat) (uncorrectable : Bool) : State :=
  let n := s.board.elogN
  let rec_ := leBytes 4 n.toNat ++ leBytes 4 (errUnitCode u) ++ leBytes 4 idx ++ leBytes 4 0 ++ leBytes 8 addr ++
    leBytes 4 (if uncorrectable then 1 else 0) ++ leBytes 4 0
  let s := s.poke (Config.errorLogBase + 32 * (n.toNat % 4096)) rec_
  let s := { s with board := { s.board with
    elogN := n + 1
    softC := if uncorrectable then s.board.softC else s.board.softC + 1
    softU := if uncorrectable then s.board.softU + 1 else s.board.softU } }
  if uncorrectable then
    [Port.A, Port.B].foldl (fun s p => if (s.portAt p).msix then s.raiseVec p 1 else s) s
  else s

end Sys2Proof.Machine
end

