-- ==== Sys2Proof/Machine/Faults.lean ====
section
/-! DEFINITION. Page-table walks as they end (R155, R156), fault records (R343 to R346), voiding (R128, R339, R341,
R342), and the trap or page fault an area root takes (R337 to R341). -/

namespace Sys2Proof.Machine

open Sys2Proof

/-! ### The fault table (R343) -/

def faultSrcCode : FaultSrc → Nat
  | .stream => 0
  | .atomic => 1
  | .copy => 2
  | .matrix => 3
  | .fabric => 4
  | .reel => 5
  | .hub => 6

/-- A waiter is a voided application; otherwise it is committed or paused. -/
def Waiter.isVoid : Waiter → Bool
  | .voided _ _ _ => true
  | .voiding _ _ => true
  | _ => false

/-- `fcell`: the cell of the first waiter, 0xFFFF for none. -/
def FaultEnt.cell (e : FaultEnt) : Nat :=
  match e.who with
  | .cellOp c _ :: _ => c
  | .voided _ _ c :: _ => c
  | .voiding _ c :: _ => c
  | _ => 0xFFFF

/-- `fflg`. -/
def FaultEnt.flags (e : FaultEnt) : Nat :=
  (if e.write then 1 else 0) + (if e.who.any (fun w => !w.isVoid) then 2 else 0) + (if e.who.any Waiter.isVoid then 4 else 0)

/-- The 64 bytes of a fault record. -/
def FaultEnt.bytes (e : FaultEnt) : List Byte :=
  leBytes 4 e.fseq.toNat ++ leBytes 1 e.kind ++ leBytes 1 (faultSrcCode e.src) ++ leBytes 1 e.flags ++ leBytes 1 e.lev ++
  leBytes 2 e.desc ++ leBytes 2 (e.asid % 1024 + e.gen % 16 * 1024) ++ leBytes 4 e.nw ++ leBytes 8 e.va ++
  leBytes 8 e.ent.toNat ++ leBytes 8 e.epa ++ leBytes 2 e.cell ++ leBytes 1 e.chan ++ leBytes 21 0

/-- Stores an entry and writes its record at the point of coherence. -/
def State.writeFault (s : State) (q : Nat) (e : FaultEnt) : State :=
  (s.putFault q e).poke (Config.faultBase + 64 * q) e.bytes

/-- A free entry of the table. -/
def State.freeFault (s : State) : Option Nat := (upto 0 4096).find? (fun q => !(s.faultAt q).live)

/-- The pending entry a fault merges into (R344). -/
def State.sameFault (s : State) (asid gen va kind : Nat) : Option Nat :=
  (s.faults.find? (fun p => p.2.live && p.2.asid == asid && p.2.gen == gen && p.2.va / 65536 == va / 65536 &&
    p.2.kind == kind)).map (·.1)

/-- Adds waiters to an entry; each new one is counted. -/
def FaultEnt.join (e : FaultEnt) (ws : List Waiter) : FaultEnt :=
  let new := ws.filter (fun w => !e.who.contains w)
  { e with who := e.who ++ new, nw := e.nw + new.length }

/-- A waiter leaves every entry that names it, and its record no longer counts it (R337). -/
def State.dropWaiter (s : State) (w : Waiter) : State :=
  (s.faults.filter (fun p => p.2.live && p.2.who.contains w)).foldl (fun s p =>
    let e := s.faultAt p.1
    s.writeFault p.1 { e with who := e.who.filter (· != w), nw := e.nw - 1 }) s

/-- An application that waits to be voided leaves every entry (R337). -/
def State.dropVoiding (s : State) (i : Nat) : State :=
  (s.areaAt i).cells.foldl (fun s c => s.dropWaiter (.voiding i c)) s

/-- What a waiter of a walk becomes once its fault is confirmed (R344): an application that has not committed is voided
by its root; a committed one stalls its cell or pauses its operation; one that waits no longer is none. -/
def State.faultWaiter (s : State) (r : WalkAsk) (q : Nat) (w : Waiter) : State × List Waiter :=
  match w with
  | .cellOp c id =>
    let op := s.opAt c id
    let i := match op with | some o => o.area | none => r.area
    let loose := match op with | some o => o.det.isSome | none => false
    let ar := s.areaAt i
    let runs := ar.live && ar.phase == .running
    if op.isNone && !runs then (s, [])
    else if r.src == .hub then (s, [.hubCtx r.desc])
    else if runs && !ar.cmt && !loose then (s.putAppOf i c { ar.appAt c with fault := some q }, [.voiding i c])
    else
      let s := match op with
        | some o => s.opPut c { o with paused := true }
        | none => s
      let stall := ar.live && !loose && (op.isNone || r.src == .stream || r.src == .atomic)
      (if stall then s.putAppOf i c { ar.appAt c with fault := some q } else s, [.cellOp c id])
  | .chan rl ch =>
    if (s.chanAt rl ch).st == .running then (s.modChan rl ch (fun x => { x with st := .paused, pcs := 1 }), [w]) else (s, [])
  | w => (s, [w])

def State.faultWaiters (s : State) (r : WalkAsk) (q : Nat) : List Waiter → State × List Waiter
  | [] => (s, [])
  | w :: ws =>
    let (s, x) := s.faultWaiter r q w
    let (s, xs) := s.faultWaiters r q ws
    (s, x ++ xs)

/-- Reports a confirmed fault (R343, R344, R347): none where it waits at its source. -/
def State.reportFault (s : State) (r : WalkAsk) (asid gen kind lev : Nat) (ent : Word) (epa : Nat) : Option State :=
  if !s.pagerUp then none
  else if r.desc = 0 then some ({ s with pagerUp := false }.machineCheck)
  else
    match s.sameFault asid gen r.va kind with
    | some q =>
      let (s, ws) := s.faultWaiters r q r.who
      some (s.writeFault q ((s.faultAt q).join ws))
    | none =>
      match s.freeFault with
      | none => none
      | some q =>
        let chan := match r.who with
          | .chan rl ch :: _ => ch + 16 * rl
          | .cellOp c id :: _ => (match (s.opAt c id).map PendOp.kind with
            | some (.rlload rl ch _) => ch + 16 * rl
            | _ => 0)
          | _ => 0
        let (s, ws) := s.faultWaiters r q r.who
        let e : FaultEnt := { FaultEnt.blank with
          live := true, fseq := s.fseq, kind := kind, src := r.src, write := r.write, lev := lev, desc := r.desc,
          asid := asid, gen := gen, va := r.va, ent := ent, epa := epa, chan := chan }
        some (({ s with fseq := s.fseq + 1 }.writeFault q (e.join ws)).modBay 15 (fun b => { b with due := true }))

/-- The hub's own access to a context address meets a fault (R344): reported with the waiter, or waiting while an entry
holds that waiter already. A table entry with an uncorrectable error is a machine check each time the hub reads it, and the access waits
(R380, assumption 91). -/
def State.hubFault (s : State) (d va : Nat) (write : Bool) (w : Waiter) : State :=
  if s.faults.any (fun p => p.2.live && p.2.who.contains w) then s
  else
    match s.walk [] ⟨d, false⟩ va write with
    | .ok _ => s
    | .torn => s.machineCheck
    | .bad kind lev ent epa =>
      (s.reportFault { home := .bay 0, desc := d, va := va, write := write, priv := false, src := .hub, cell := 0xFFFF,
                       area := 0, who := [w] }
        (s.asidOf d) (s.genOf (s.asidOf d)) kind lev ent epa).getD s

/-- The first byte of a run that does not translate for the hub. -/
def State.hubMiss (s : State) (d va n : Nat) (write : Bool) : Option Nat :=
  (upto va n).find? (fun a => (s.hubWalk d a write).isNone)

/-! ### Walks (R155, R156) -/

def State.walkCacheOf (s : State) (die : Nat) : List WalkEnt := tget [] s.walkC die

/-- On whose behalf a requester asks. -/
def WalkAsk.by (a : WalkAsk) : Who := ⟨a.desc, a.priv⟩

def Walk.found : Walk → Option TlbEnt
  | .ok e => some e
  | .bad _ _ _ _ => none
  | .torn => none

def WalkEnt.sameTag (x y : WalkEnt) : Bool := x.asid == y.asid && x.gen == y.gen && x.level == y.level && x.va == y.va

/-- A walk leaves the table entries it has read in its die's walk cache (R155): entries of levels 1 and 2, no block leaf, the newest first, the
last of 2,048 giving way (assumption 110, DESIGN CHOICE). -/
def State.keepTrail (s : State) (die : Nat) (trail : List WalkEnt) : State :=
  let kept := (s.walkCacheOf die).filter (fun w => !trail.any w.sameTag)
  { s with walkC := tset [] s.walkC die ((trail ++ kept).take 2048) }

/-- The request at place `k`, when its die's walker works on it: one of the 16 oldest of the die (R155). -/
def walkPick (k : Nat) (l : List WalkReq) (confirm : Bool) : Option WalkReq :=
  match l[k]? with
  | some r => if r.confirm == confirm && decide (((l.take k).filter (fun x => x.die == r.die)).length < 16) then some r else none
  | none => none

/-- A request keeps the requesters that are not served; with none left it is over. -/
def State.keepAsks (s : State) (k : Nat) (r : WalkReq) (asks : List WalkAsk) : State :=
  { s with walks := if asks.isEmpty then s.walks.eraseIdx k else s.walks.set k { r with confirm := true, asks := asks } }

/-- A walk of the request named: every requester whose access its translation serves receives it; the others' faults are to be
confirmed. -/
def execTableWalk (s : State) : Out :=
  .next (match walkPick s.unit s.walks false with
    | none => s
    | some r =>
      let cache := s.walkCacheOf r.die
      let result (a : WalkAsk) : Option TlbEnt := (s.walk cache a.by a.va a.write).found
      let t := r.asks.foldl (fun t a =>
        let t := t.keepTrail r.die (s.walkTrail cache a.by a.va)
        match result a with
        | some e => t.install a.home e
        | none => t) s
      t.keepAsks s.unit r (r.asks.filter (fun a => (result a).isNone)))

/-- A waiter is a prefetch. -/
def State.prefetches (s : State) (w : Waiter) : Bool :=
  match w with
  | .cellOp c id => (match s.opAt c id with | some o => (match o.kind with | .pfg _ _ => true | _ => false) | none => false)
  | _ => false

/-- A prefetch that meets a fault is dropped: its lines in the page are brought in no more (R157). -/
def State.dropLines (s : State) (page : Nat) (w : Waiter) : State :=
  match w with
  | .cellOp c id =>
    (match s.opAt c id with
     | some o =>
       (match o.kind with
        | .pfg vas pol => s.opPut c { o with kind := .pfg (vas.filter (fun va => va / 65536 != page)) pol }
        | _ => s)
     | none => s)
  | _ => s

/-- One requester's share of a confirming walk: the state, and the requester where its fault waits at its source. A table entry with an
uncorrectable error is a machine check, and the requester stays with the walker (R380, assumption 91). -/
def State.confirmAsk (s : State) (r : WalkReq) (a : WalkAsk) : State × List WalkAsk :=
  match s.walk [] a.by a.va a.write with
  | .ok e => ((s.keepTrail r.die (s.walkTrail [] a.by a.va)).install a.home e, [])
  | .torn => (s.machineCheck, [a])
  | .bad kind lev ent epa =>
    let t := (a.who.filter s.prefetches).foldl (fun t w => t.dropLines (a.va / 65536) w) s
    let b : WalkAsk := { a with who := a.who.filter (fun w => !s.prefetches w) }
    if b.who.isEmpty then (t, [])
    else
      match t.reportFault b r.asid r.gen kind lev ent epa with
      | none => (t, [b])
      | some u => (u, if a.desc = 0 then [b] else [])

def State.confirmAsks (s : State) (r : WalkReq) : List WalkAsk → State × List WalkAsk
  | [] => (s, [])
  | a :: as =>
    let (s, x) := s.confirmAsk r a
    let (s, xs) := s.confirmAsks r as
    (s, x ++ xs)

/-- The confirming walk of the request named: its own outcome decides (R156). -/
def execConfirmingWalk (s : State) : Out :=
  .next (match walkPick s.unit s.walks true with
    | none => s
    | some r =>
      let (t, left) := s.confirmAsks r r.asks
      t.keepAsks s.unit r left)

/-! ### SAMPLE (R346) -/

/-- The entries of largest count, at most `n`. -/
def topCounts : Nat → List (Nat × Nat) → List (Nat × Nat)
  | 0, _ => []
  | _, [] => []
  | n + 1, x :: xs =>
    let m := xs.foldl (fun a b => if a.2 < b.2 then b else a) x
    m :: topCounts n ((x :: xs).erase m)

/-- Bytes 16 to 63 of a SAMPLE record. -/
def sampleBytes (l : List (Nat × Nat)) : List Byte :=
  let one (p : Nat × Nat) : List Byte := leBytes 8 (p.1 % 2 ^ 39) ++ leBytes 2 (p.1 / 2 ^ 39) ++ leBytes 2 (min p.2 65535)
  (l.flatMap one ++ List.replicate 48 0).take 48

def execSampleReport (s : State) : Out :=
  let b := s.unit
  let x := s.bayAt b
  .next (
    if s.cyc < x.sampled + Config.countCycles then s
    else if x.counts.all (fun p => decide (p.2 ≤ 256)) then s.putBay b { x with sampled := s.cyc }
    else if !s.pagerUp then s
    else
      match s.freeFault with
      | none => s
      | some q =>
        let e : FaultEnt := { FaultEnt.blank with live := true, fseq := s.fseq, kind := 5, src := .hub, desc := b }
        let s := { s with fseq := s.fseq + 1 }.putFault q e
        let s := s.poke (Config.faultBase + 64 * q) (e.bytes.take 16 ++ sampleBytes (topCounts 4 x.counts))
        let s := s.putBay b { x with sampled := s.cyc, counts := [] }
        s.modBay 15 (fun y => { y with due := true }))

/-! ### Voiding and stopping an application -/

/-- Takes operations out of the watch table and frees the entries left without a waiter (R263). -/
def State.unwatch (s : State) (gone : WatchWho → Bool) : State :=
  { s with watch := (s.watch.map (fun w => { w with who := w.who.filter (fun x => !gone x) })).filter (fun w => !w.who.isEmpty) }

/-- Takes operations off the waiter lists of every bridle. -/
def State.unbridle (s : State) (ids : List Nat) : State :=
  let f (b : Bridle) : Bridle := { b with wait := b.wait.filter (fun w => !ids.contains w.2.op),
                                          upd := b.upd.map (fun u => match u.2 with
                                            | some w => if ids.contains w.op then (u.1, none) else u
                                            | none => u) }
  { s with cells := s.cells.map (fun p => (p.1, { p.2 with bridles := p.2.bridles.map (fun q => (q.1, f q.2)) }))
           mbridles := s.mbridles.map (fun q => (q.1, f q.2)) }

/-- Cancels graph operations (R303). -/
def State.cancelGraphOps (s : State) (ids : List Nat) : State :=
  { s with graphs := s.graphs.map (fun p => (p.1, { p.2 with ops := p.2.ops.map (fun o =>
      if ids.contains o.op then { o with cancelled := true } else o) })) }

/-- The cell's share of ending an area: its bridle slots, its allocated tiles that no operation pins, its place in the
cell's order. -/
def Cell.leave (x : Cell) (i : Nat) : Cell :=
  { x with serve := x.serve.filter (· != i)
           tiles := x.tiles.filter (fun r => !(r.alloc == some i && r.pin == 0))
           bridles := x.bridles.filter (fun q => q.2.area != some i) }

/-- Every cell of an area by its change. -/
def State.overCells (s : State) (cs : List Nat) (f : Cell → Cell) : State := cs.foldl (fun s c => s.modCell c f) s

/-- The walkers know no more of cancelled operations. -/
def State.cancelAsks (s : State) (ids : List Nat) : State :=
  let gone (w : Waiter) : Bool := match w with | .cellOp _ op => ids.contains op | _ => false
  let keep (a : WalkAsk) : Option WalkAsk :=
    if !a.who.any gone then some a
    else
      let who := a.who.filter (fun w => !gone w)
      if who.isEmpty then none else some { a with who := who }
  { s with walks := s.walks.filterMap (fun r =>
      let asks := r.asks.filterMap keep
      if asks.isEmpty then none else some { r with asks := asks }) }

/-- A copy whose last element has been performed: it counts as landed, or its writes do (R364). -/
def OpKind.copied : OpKind → Bool
  | .copy _ _ _ g st _ => st == 0 && g.over
  | _ => false

/-- Cancels operations of an area by their kinds. -/
def State.cancelOps (s : State) (i : Nat) (k : PendOp → Bool) : State :=
  let cs := (s.areaAt i).cells
  let gone (o : PendOp) : Bool := o.area == i && o.det.isNone && k o
  let out := cs.flatMap (fun c => (s.cellAt c).pend.filter gone)
  let ids := out.map PendOp.id
  let s := (out.filter (fun o => o.kind.counted && !o.kind.copied)).foldl (fun s o => s.landed o.desc) s
  let s := s.overCells cs (fun x => { x with pend := x.pend.filter (fun o => !gone o) })
  let s := s.unwatch (fun w => match w with | .cell _ op => ids.contains op | _ => false)
  ((s.unbridle ids).cancelGraphOps ids).cancelAsks ids

/-- R128 and R342: an application that has not committed loses everything it held, in every cell. -/
def State.voidArea (s : State) (i : Nat) : State :=
  let cs := (s.areaAt i).cells
  let s := s.cancelOps i (fun _ => true)
  let s := s.overCells cs (fun x => { x with
    done := x.done.filter (fun o => !(o.area == i && o.det.isNone))
    tiles := x.tiles.filter (fun r => r.alloc != some i) })
  let s := s.overCells cs (fun x => x.leave i)
  s.modArea i (fun a => { a with apps := [], colls := [], joins := [], bufs := [], phase := .over })

/-- An operation whose end nothing will bring once its application has stopped: it waits for other cells, which issue no more, or for a
word, a phase or a message that only a register would take (assumption 29, DEDUCED). -/
def State.endless (s : State) (o : PendOp) : Bool :=
  match o.kind with
  | .arcv _ _ _ => true
  | .coll _ => true
  | .mrecv g k _ => ((s.areaAt o.area).mcSender g k).isNone
  | .flwait _ _ _ _ _ _ => true
  | .brWait _ _ _ _ _ _ => true
  | .brSent _ => true
  | _ => false

/-- R340, steps 1 to 3: a committed application stops; its outstanding operations go on, the rows of its multicast sends, fences and all;
emitted symbols and allocated tiles go. -/
def State.stopArea (s : State) (i : Nat) : State :=
  let a := s.areaAt i
  let cs := a.cells
  let lost (j : McJoin) : Bool := (a.mcSender j.grp j.k).isNone
  let s := (a.joins.filter (fun j => j.role == 1 && lost j)).foldl
    (fun s j => s.modCell j.cell (fun x => x.unpinOver j.strm.rc.base.toNat 1)) s
  let s := (s.cancelOps i s.endless).endSends i
  let s := s.overCells cs (fun x => x.leave i)
  s.modArea i (fun a => { a with
    phase := .over, colls := [], joins := a.joins.filter (fun j => !lost j)
    apps := a.apps.map (fun p => (p.1, { p.2 with stopped := true, out := [], fault := none, recvq := [], outq := [] })) })

/-- The application of an area ends without its own replacement: voided or, once committed, stopped. -/
def State.haltArea (s : State) (i : Nat) : State := if (s.areaAt i).cmt then s.stopArea i else s.voidArea i

/-! ### The trap record (R338) -/

/-- What a trap record holds. -/
structure TrapRec where
  tseq   : BitVec 32
  cls    : Nat
  sub    : Nat
  cmt    : Bool
  cell   : Nat
  aidx   : Nat
  pc     : Nat
  opid   : Nat
  parm   : BitVec 32
  word   : Word
  info   : Word
  fseq   : Option (BitVec 32)
  deriving DecidableEq, Repr

def TrapRec.bytes (r : TrapRec) : List Byte :=
  leBytes 4 r.tseq.toNat ++ leBytes 1 r.cls ++ leBytes 1 r.sub ++
  leBytes 2 ((if r.cmt then 1 else 0) + (if r.fseq.isSome then 2 else 0)) ++ leBytes 2 r.cell ++ leBytes 2 r.aidx ++
  leBytes 2 r.pc ++ leBytes 2 0 ++ leBytes 4 r.opid ++ leBytes 4 r.parm.toNat ++ leBytes 8 r.word.toNat ++
  leBytes 8 r.info.toNat ++ leBytes 4 ((r.fseq.map BitVec.toNat).getD 0) ++ leBytes 20 0

/-- Where record number n of a context lies. -/
def State.trapSlot (s : State) (d : Nat) (n : BitVec 32) : Nat := (s.descUse d).envbase.toNat + 0x100 + 64 * (n.toNat % 256)

/-- The hub writes the next trap record of a context: its number and the state, or none where the ring does not
translate, with the address that misses. -/
def State.writeTrap (s : State) (d : Nat) (mk : BitVec 32 → TrapRec) : Except Nat (Nat × State) :=
  let n := (s.ctxAt d).etnext
  let va := s.trapSlot d n
  match s.hubWrite d va (mk n).bytes with
  | some t => .ok (n.toNat, t.modCtx d (fun c => { c with etnext := n + 1 }))
  | none => .error ((s.hubMiss d va 64 true).getD va)

/-! ### The area root (R337, R339 to R341) -/

/-- What the root takes of a cell: its trap, or the page fault that voids. -/
inductive Taken where
  | trap (c : Nat) (t : TrapInfo)
  | page (c q : Nat)
  deriving DecidableEq, Repr

/-- The event from the cell with the lowest `x.AIDX`. -/
def Area.taken (a : Area) : Option Taken :=
  a.cells.findSome? (fun c =>
    match (a.appAt c).trap with
    | some t => some (.trap c t)
    | none =>
      match (a.appAt c).fault with
      | some q => if a.cmt then none else some (.page c q)
      | none => none)

/-- The fate of an application a page fault met in cell `c` has voided: it waits on a token, or, with none free, stands as
it was. Its faults in other cells lose. -/
def State.voidFor (s : State) (i c q : Nat) : State :=
  let d := (s.areaAt i).desc
  let cells := (s.areaAt i).cells
  let s := s.voidArea i
  let lose (s : State) (cs : List Nat) : State := cs.foldl (fun s c => s.dropWaiter (.voiding i c)) s
  match (s.ctxAt d).freeTid with
  | none => (lose s cells).modArea i (fun a => { a with fate := .none })
  | some tid =>
    let e := s.faultAt q
    let s := s.modCtx d (fun c => { c with tids := c.tids ++ [tid] })
    let s := s.modArea i (fun a => { a with fate := .awaitTok tid })
    if e.live && e.who.contains (.voiding i c) then
      lose (s.writeFault q { e with who := e.who.map (fun w => if w == .voiding i c then .voided d tid c else w) }) cells
    else (lose s cells).modCtx d (fun c => c.post { flag := false, id := tid, exp := 0, sym := tokSym false })

/-- The root of an area takes its first trap or voiding page fault; every other is discarded. -/
def State.rootTakes (s : State) (i : Nat) : State :=
  let a := s.areaAt i
  if !a.live || a.phase != .running then s
  else
    match a.taken with
    | none => s
    | some (.page c q) => s.voidFor i c q
    | some (.trap c t) =>
      if t.cls = clsTileWr then
        ((s.stopArea i).dropVoiding i).modArea i (fun a => { a with fate := .one (symError errTILEWR 0) })
      else
        match s.writeTrap a.desc (fun n => {
            tseq := n, cls := t.cls, sub := t.sub, cmt := a.cmt, cell := c, aidx := a.aidx c, pc := t.pc, opid := a.opid,
            parm := a.parm, word := t.word, info := t.info, fseq := t.fseq }) with
        | .error va => s.hubFault a.desc va true (.hubCtx a.desc)
        | .ok (n, s) => ((s.haltArea i).dropVoiding i).modArea i (fun a => { a with fate := .trapped n })

def execTrapAtRoot (s : State) : Out := .next (s.rootTakes s.unit)

end Sys2Proof.Machine
end

