-- ==== Sys2Proof/Machine/GraphImage.lean ====
section
/-! DEFINITION. The graph image of the weight fabric (R268 to R273, R280 to R285) and its checks (R286). -/

namespace Sys2Proof.Machine

open Sys2Proof

/-- A failed check: the status of R293 and `grec`. -/
structure GBad where
  gst : Nat
  rcd : Nat
  deriving DecidableEq, Repr

def gstNODES : Nat := 1
def gstTRACKS : Nat := 2
def gstPORTS : Nat := 3
def gstWIDTH : Nat := 4
def gstORDER : Nat := 5
def gstBALANCE : Nat := 6
def gstPLANE : Nat := 7
def gstFORMAT : Nat := 8
def gstHANDLE : Nat := 9
def gstFAULT : Nat := 10

/-- The little-endian number of `n` bytes at an offset. -/
def fieldAt (bs : List Byte) (o n : Nat) : Nat := leNat ((bs.drop o).take n)

/-! ### The header (R280) -/

structure GHead where
  nsail : Nat
  nnode : Nat
  nin   : Nat
  nout  : Nat
  ifmt  : Nat
  ofmt  : Nat
  lat   : Nat
  nroute : Nat
  deriving DecidableEq, Repr

def GHead.routeoff (h : GHead) : Nat := 64 + alignUp (2 * (h.nin + h.nout)) 8
def GHead.nodeoff (h : GHead) : Nat := h.routeoff + 8 * h.nroute

def GHead.ofBytes (bs : List Byte) : GHead :=
  { nsail := fieldAt bs 6 1, nnode := fieldAt bs 8 4, nin := fieldAt bs 12 2, nout := fieldAt bs 14 2,
    ifmt := fieldAt bs 16 1, ofmt := fieldAt bs 17 1, lat := fieldAt bs 18 1, nroute := fieldAt bs 20 4 }

/-- The half-words of a run of bytes. -/
def halfWords : List Byte → List Nat
  | a :: b :: r => (a.toNat + 256 * b.toNat) :: halfWords r
  | _ => []

/-- Half-words the first `n` records take (R283): each form is bit 15 of its first half-word. -/
def recordLen : Nat → List Nat → Option Nat
  | 0, _ => some 0
  | _ + 1, [] => none
  | n + 1, w :: ws =>
    if w.testBit 15 then
      (match ws with
       | _ :: _ :: r => (recordLen n r).map (· + 3)
       | _ => none)
    else (recordLen n ws).map (· + 1)

/-- The header of an image: its fields alone. -/
def GHead.fieldsOk (h : GHead) (bs : List Byte) : Bool :=
  fieldAt bs 0 4 == 0x46415247 && fieldAt bs 4 2 == 1 && fieldAt bs 7 1 == 0 && fieldAt bs 19 1 == 0 &&
  fieldAt bs 48 16 == 0 && decide (1 ≤ h.nsail) && decide (h.nsail ≤ 64) && decide (1 ≤ h.nnode) &&
  decide (h.nnode ≤ 4096 * h.nsail) && decide (1 ≤ h.nin) && decide (1 ≤ h.nout) &&
  [0, 1, 9, 11].contains h.ifmt && [8, 6, 1, 2, 11].contains h.ofmt && fieldAt bs 24 4 == 64 &&
  fieldAt bs 32 4 == h.routeoff && fieldAt bs 28 4 == h.nodeoff

/-- `smoff`, `scoff`, `isize` as the header gives them. -/
def smoff (bs : List Byte) : Nat := fieldAt bs 36 4
def scoff (bs : List Byte) : Nat := fieldAt bs 40 4
def isize (bs : List Byte) : Nat := fieldAt bs 44 4

/-- Check 1 of R286 on a whole image: every offset is the one R280 gives. Padding bytes have no stated fate and are
ignored (R6). -/
def GHead.layoutOk (h : GHead) (bs : List Byte) : Bool :=
  let hw := halfWords ((bs.drop h.nodeoff).take (smoff bs - h.nodeoff))
  (match recordLen h.nnode hw with
   | none => false
   | some n => smoff bs == h.nodeoff + alignUp (2 * n) 8) &&
  scoff bs == smoff bs + alignUp ((h.nnode + 7) / 8) 8 && isize bs == scoff bs + alignUp (4 * h.nout) 8 &&
  decide (bs.length = isize bs)

/-! ### The port map (R281) -/

structure GPort where
  sail : Nat
  port : Nat
  deriving DecidableEq, Repr

def portMap (h : GHead) (bs : List Byte) : List GPort :=
  (halfWords ((bs.drop 64).take (2 * (h.nin + h.nout)))).map (fun e => ⟨e / 64 % 64, e % 64⟩)

/-- Check 2 of R286. -/
def portsOk (h : GHead) (ps : List GPort) : Bool :=
  ps.all (fun p => decide (p.sail < h.nsail)) && decide (ps.eraseDups.length = ps.length) &&
  decide (ps.length ≤ 64 * h.nsail) && (!isBX h.ifmt || h.nin % 32 == 0) && (!isBX h.ofmt || h.nout % 32 == 0)

/-! ### Tracks and segments (R269, R282) -/

def trackLen (t : Nat) : Nat := if t < 8 then 1 else if t < 12 then 4 else 16
def trackOff (t : Nat) : Nat := if t < 8 then 0 else if t < 12 then t - 8 else 8 * (t - 12)

/-- A segment: direction, channel, track, where it starts (clipped at the channel's end). -/
structure Seg where
  vert : Bool
  chan : Nat
  trk  : Nat
  pos  : Nat
  deriving DecidableEq, Repr

/-- The segment of a track that covers position `q` of a channel. -/
def segAt (vert : Bool) (chan trk q : Nat) : Seg :=
  let st : Int := (q : Int) - ((q : Int) - trackOff trk) % (trackLen trk : Int)
  ⟨vert, chan, trk, (max 0 st).toNat⟩

/-- The segment of a track at site (X, y). -/
def siteSeg (vert : Bool) (trk x y : Nat) : Seg := if vert then segAt true x trk y else segAt false y trk x

/-- What drives a segment: the node at a site, or another segment through a join. -/
inductive Drive where
  | node (x y : Nat)
  | join (src : Seg) (reg : Bool)
  deriving DecidableEq, Repr

abbrev Drives := List (Seg × Drive)

def driverOf (ds : Drives) (g : Seg) : Option Drive := (ds.find? (fun p => p.1 == g)).map (·.2)

/-- The site at the head of a segment's route, with the registered joins on it. -/
def routeHead (ds : Drives) : Nat → Seg → Nat → Option (Nat × Nat × Nat)
  | 0, _, _ => none
  | fuel + 1, g, r =>
    match driverOf ds g with
    | none => none
    | some (.node x y) => some (x, y, r)
    | some (.join src reg) => routeHead ds fuel src (r + (if reg then 1 else 0))

/-- The segments on the way to a segment's head meet `goal`. -/
def routeMeets (ds : Drives) (goal : Seg) : Nat → Seg → Bool
  | 0, _ => false
  | fuel + 1, g =>
    g == goal ||
      (match driverOf ds g with
       | some (.join src _) => routeMeets ds goal fuel src
       | _ => false)

/-- One routing record (R282), in the order of check 4. -/
def routeRecord (h : GHead) (ds : Drives) (k w : Nat) : Except GBad Drives :=
  let rk := bits w 63 62
  let sail := bits w 61 56
  let y := bits w 55 50
  let x := 64 * sail + bits w 49 44
  let trk := bits w 42 39
  let ttrk := bits w 37 34
  let dir := w.testBit 43
  let tdir := w.testBit 38
  let bad (g : Nat) : Except GBad Drives := .error ⟨g, k + 1⟩
  if rk = 3 || bits w 33 0 != 0 || (rk = 0 && (tdir || ttrk != 0)) then bad gstFORMAT
  else if h.nsail ≤ sail then bad gstNODES
  else if 14 ≤ trk || 14 ≤ ttrk then bad gstTRACKS
  else
    let src := siteSeg dir trk x y
    let dst := if rk = 0 then src else siteSeg tdir ttrk x y
    if (driverOf ds dst).isSome then bad gstTRACKS
    else if rk = 0 then .ok ((dst, .node x y) :: ds)
    else if routeMeets ds dst (ds.length + 1) src then bad gstORDER
    else .ok ((dst, .join src (rk == 2)) :: ds)

def routeRecords (h : GHead) : Nat → List Nat → Drives → Except GBad Drives
  | _, [], ds => .ok ds
  | k, w :: ws, ds =>
    match routeRecord h ds k w with
    | .error e => .error e
    | .ok ds => routeRecords h (k + 1) ws ds

/-- The 64-bit words of a run of bytes. -/
def words64 : Nat → List Byte → List Nat
  | 0, _ => []
  | n + 1, bs => leNat (bs.take 8) :: words64 n (bs.drop 8)

/-! ### Node records (R283, R284) -/

/-- An input field: source selector, shift, lag. -/
structure SelF where
  sel : Nat
  sh  : Nat
  lag : Nat
  deriving DecidableEq, Repr

def SelF.zero : SelF := ⟨29, 0, 0⟩

/-- A record read: kind code of R283, width index, site, inputs, port, and whether its bits are legal. -/
structure GRec where
  kind : Nat
  wd   : Nat
  x    : Nat
  y    : Nat
  a    : SelF
  b    : SelF
  port : Nat
  good : Bool
  deriving DecidableEq, Repr

/-- A node placed so far: its site, stage, bound, width index, and largest sum of lags from an `in` tap. -/
structure Placed where
  x     : Nat
  y     : Nat
  stage : Nat
  bound : Nat
  wd    : Nat
  lags  : Nat
  deriving DecidableEq, Repr

/-- A long record of 48 bits. -/
def longRec (v : Nat) : GRec :=
  let kind := bits v 46 44
  let a : SelF := ⟨bits v 23 19, bits v 18 16, bits v 15 12⟩
  let b : SelF := ⟨bits v 11 7, bits v 6 4, bits v 3 0⟩
  let base : GRec := { kind := kind, wd := bits v 43 42, x := 64 * bits v 41 36 + bits v 29 24, y := bits v 35 30,
                       a := a, b := b, port := 0, good := true }
  if kind = 5 then { base with a := SelF.zero, b := SelF.zero, port := bits v 23 18, good := bits v 17 0 == 0 }
  else if kind = 6 then { base with b := SelF.zero, port := bits v 11 6, good := a.sh == 0 && bits v 5 0 == 0 }
  else if kind = 7 then { base with good := false }
  else if kind = 3 then { base with good := b == SelF.zero }
  else if kind = 4 then { base with good := b == SelF.zero && a.sh == 0 }
  else base

/-- A short record, east of the previous one. -/
def shortRec (v : Nat) (prev : Option Placed) : GRec :=
  let sk := bits v 14 13
  let kind := if sk = 0 then 0 else if sk = 1 then 1 else if sk = 2 then 4 else 7
  let b : SelF := if sk = 2 then SelF.zero else ⟨bits v 8 4, bits v 11 9, bits v 3 0⟩
  match prev with
  | none => { kind := kind, wd := 0, x := 0, y := 0, a := ⟨28, 0, 0⟩, b := b, port := 0, good := false }
  | some p =>
    let wd := p.wd + bits v 12 12
    { kind := kind, wd := wd, x := p.x + 1, y := p.y, a := ⟨28, 0, 0⟩, b := b, port := 0,
      good := sk != 3 && decide (wd ≤ 3) && (sk != 2 || bits v 11 0 == 0) }

/-- The widths of `wd`. -/
def widthOf (wd : Nat) : Nat := 16 + 8 * wd

/-- The bound of an `in` tap (R273). -/
def inBound (ifmt : Nat) : Nat := if ifmt = 0 then 2 ^ 7 else if ifmt = 1 then 2 ^ 15 else 2 ^ 23

/-- A port's tap stands beside it (R268). -/
def besidePort (port x y : Nat) : Bool :=
  let p := port / 8
  let b := port % 8
  (x % 64 == 8 * p + 7 || (decide (p < 7) && x % 64 == 8 * p + 8)) && y / 8 == b

/-- An input traced to its source: none for a zero input, an error for one without an earlier node at its head. -/
def traceInput (ds : Drives) (ns : List Placed) (x y : Nat) (f : SelF) : Except Nat GIn :=
  let at' (q : Nat × Nat) : Option Nat := ns.findIdx? (fun p => p.x == q.1 && p.y == q.2)
  if f.sel = 29 then .ok ⟨none, 0, f.sh, f.lag⟩
  else if f.sel = 28 then
    match (if x = 0 then none else at' (x - 1, y)) with
    | some k => .ok ⟨some k, 1, f.sh, f.lag⟩
    | none => .error gstORDER
  else
    let g := if f.sel < 14 then siteSeg false f.sel x y else siteSeg true (f.sel - 14) x y
    match routeHead ds (ds.length + 1) g 0 with
    | none => .error gstORDER
    | some (sx, sy, r) =>
      match at' (sx, sy) with
      | some k => .ok ⟨some k, 1 + r, f.sh, f.lag⟩
      | none => .error gstORDER

/-- What the node records have come to. -/
structure NodesAt where
  nodes : List GNode
  ns    : List Placed
  ins   : List Nat
  outs  : List Nat
  deriving DecidableEq, Repr

/-- The stages an input asks of its node (R272). -/
def stageBy (ns : List Placed) (i : GIn) : Option Int :=
  match i.src with
  | none => none
  | some k => (ns[k]?).map (fun p => (p.stage : Int) + i.lat - i.lag)

/-- The share of an input in a node's bound (R273). -/
def boundBy (ns : List Placed) (i : GIn) : Nat :=
  match i.src with
  | none => 0
  | some k => ((ns[k]?).map (fun p => p.bound * 2 ^ i.sh)).getD 0

def lagsBy (ns : List Placed) (i : GIn) : Nat :=
  match i.src with
  | none => 0
  | some k => ((ns[k]?).map (fun p => p.lags + i.lag)).getD 0

/-- One node record under check 5 of R286. -/
def nodeRecord (h : GHead) (ps : List GPort) (ds : Drives) (mask : Nat) (q : NodesAt) (r : GRec) : Except GBad NodesAt :=
  let k := q.nodes.length
  let bad (g : Nat) : Except GBad NodesAt := .error ⟨g, h.nroute + k + 1⟩
  let tap := r.kind = 5 || r.kind = 6
  if !r.good || r.a.sel = 30 || r.a.sel = 31 || r.b.sel = 30 || r.b.sel = 31 ||
      (r.kind != 5 && r.a.sel = 29 && r.b.sel = 29) then bad gstFORMAT
  else if h.nsail ≤ r.x / 64 || q.ns.any (fun p => p.x == r.x && p.y == r.y) then bad gstNODES
  else
    let side := if r.kind = 5 then ps.take h.nin else ps.drop h.nin
    let pi := side.findIdx? (fun p => p.sail == r.x / 64 && p.port == r.port)
    let seen := if r.kind = 5 then q.ins else q.outs
    if tap && ((match pi with | none => true | some j => seen.contains j) || !besidePort r.port r.x r.y) then bad gstPORTS
    else
      match traceInput ds q.ns r.x r.y r.a, traceInput ds q.ns r.x r.y r.b with
      | .error e, _ => bad e
      | _, .error e => bad e
      | .ok a, .ok b =>
        let ss := (stageBy q.ns a).toList ++ (stageBy q.ns b).toList
        let st : Int := if r.kind = 5 then 0 else ss.headD 0
        if !ss.all (· == st) || decide (st < 0) || decide (255 < st) then bad gstBALANCE
        else
          let bound := if r.kind = 5 then inBound h.ifmt else boundBy q.ns a + boundBy q.ns b
          if 2 ^ (widthOf r.wd - 1) ≤ bound then bad gstWIDTH
          else
            let j := pi.getD 0
            .ok { nodes := q.nodes ++ [{ kind := r.kind, width := widthOf r.wd, a := a, b := b, port := j,
                                         stage := st.toNat, keep := mask.testBit k }]
                  ns := q.ns ++ [{ x := r.x, y := r.y, stage := st.toNat, bound := bound, wd := r.wd,
                                   lags := max (lagsBy q.ns a) (lagsBy q.ns b) }]
                  ins := if r.kind = 5 then q.ins ++ [j] else q.ins
                  outs := if r.kind = 6 then q.outs ++ [j] else q.outs }

/-- `n` node records from a stream of half-words; what remains of the stream is padding. -/
def nodeRecords (h : GHead) (ps : List GPort) (ds : Drives) (mask : Nat) : Nat → List Nat → NodesAt → Except GBad NodesAt
  | 0, ws, q => if ws.all (· == 0) then .ok q else .error ⟨gstNODES, h.nroute + q.nodes.length + 1⟩
  | _ + 1, [], q => .error ⟨gstFORMAT, h.nroute + q.nodes.length + 1⟩
  | n + 1, w :: ws, q =>
    if w.testBit 15 then
      (match ws with
       | w1 :: w2 :: r =>
         (match nodeRecord h ps ds mask q (longRec (w * 2 ^ 32 + w1 * 2 ^ 16 + w2)) with
          | .error e => .error e
          | .ok q => nodeRecords h ps ds mask n r q)
       | _ => .error ⟨gstFORMAT, h.nroute + q.nodes.length + 1⟩)
    else
      match nodeRecord h ps ds mask q (shortRec w q.ns.getLast?) with
      | .error e => .error e
      | .ok q => nodeRecords h ps ds mask n ws q

/-! ### The whole image -/

/-- Checks 1 and 2: a header and a port map, before any sail is chosen. -/
def graphHead (bs : List Byte) : Except GBad GHead :=
  let h := GHead.ofBytes bs
  if !h.fieldsOk bs || !h.layoutOk bs then .error ⟨gstFORMAT, 0⟩
  else if !portsOk h (portMap h bs) then .error ⟨gstPORTS, 0⟩
  else .ok h

/-- Checks 4 to 6: the graph an image describes, its sails still to be named. -/
def graphOf (h : GHead) (bs : List Byte) : Except GBad Graph :=
  let ps := portMap h bs
  match routeRecords h 0 (words64 h.nroute (bs.drop h.routeoff)) [] with
  | .error e => .error e
  | .ok ds =>
    let hw := halfWords ((bs.drop h.nodeoff).take (smoff bs - h.nodeoff))
    match nodeRecords h ps ds (fieldAt bs (smoff bs) (scoff bs - smoff bs)) h.nnode hw ⟨[], [], [], []⟩ with
    | .error e => .error e
    | .ok q =>
      let outs := (q.nodes.zip q.ns).filter (fun p => p.1.kind == 6)
      let hist : Nat := outs.foldl (fun (m : Nat) p => max m p.2.lags) 0
      if q.ins.length != h.nin || q.outs.length != h.nout then .error ⟨gstPORTS, 0⟩
      else if !outs.all (fun p => p.1.stage == h.lat) || decide (255 < hist) then .error ⟨gstBALANCE, 0⟩
      else .ok { Graph.blank with
        nsail := h.nsail, inFmt := BitVec.ofNat 4 h.ifmt, outFmt := BitVec.ofNat 4 h.ofmt, nin := h.nin, nout := h.nout,
        lat := h.lat, hist := hist, nodes := q.nodes,
        scales := (upto 0 h.nout).map (fun i => BitVec.ofNat 32 (fieldAt bs (scoff bs + 4 * i) 4)) }

end Sys2Proof.Machine
end

