-- ==== Sys2Proof/Machine/Fabric.lean ====
section
/-! DEFINITION. The weight fabric at work: tokens and outputs (R271 to R276, R279), the plane sequencers (R277, R278),
the sail allocator (R288 to R290), and the fabric instructions (R291 to R304). -/

namespace Sys2Proof.Machine

open Sys2Proof

/-! ### Tokens (R274) -/

/-- The exponent a BX element selects, and its fraction. -/
def bxSel (bx8 : Bool) (hdr x : Nat) : Nat × Nat :=
  let sel := if bx8 then x.testBit 7 else x.testBit 3
  (if sel then hdr / 512 % 512 else hdr % 512, if bx8 then x % 64 else x % 4)

/-- A token of elements `xs`, each under its block's header in `hs`: fixed-point elements, segment exponent, NaN token. -/
def tokenOf (ty op idx : Nat) (xs hs : List Nat) : GTok :=
  let base : GTok := { op := op, idx := idx, drain := false, vals := [], sx := 0, nan := false }
  if isBX ty then
    let bx8 := ty = 11
    let es := (xs.zip (upto 0 xs.length)).map (fun p => (p.1, bxSel bx8 (hs.getD p.2 0) p.1))
    let live := es.filter (fun e => e.2.2 != 0)
    let emax : Nat := if live.isEmpty then 278 else live.foldl (fun m e => max m e.2.1) 0
    let nan := es.any (fun e => e.2.1 == 511)
    let fix (e : Nat × Nat × Nat) : Int :=
      let k : Int := (e.2.1 : Int) - (if bx8 then 261 else 257) + 278 - emax
      let f : Nat := if 0 ≤ k then e.2.2 * 2 ^ k.toNat else e.2.2 / 2 ^ (-k).toNat
      if (if bx8 then e.1.testBit 6 else e.1.testBit 2) then -(f : Int) else f
    { base with vals := if nan then es.map (fun _ => 0) else es.map fix, sx := (emax : Int) - 278, nan := nan }
  else { base with vals := xs.map (signed (tyWidth ty)) }

/-- A drain token (R279). -/
def drainTok (op idx nin : Nat) : GTok :=
  { op := op, idx := idx, drain := true, vals := List.replicate nin 0, sx := 0, nan := false }

/-! ### Outputs (R275) -/

/-- The exact output of a row: v × scale × 2^sx, with its flags. -/
def outValue (v : Int) (scale : BitVec 32) (sx : Int) (nan : Bool) : EVF :=
  match fdec 8 scale.toNat with
  | .inf _ => ⟨.nan false, fNV⟩
  | .nan p => ⟨.nan p, 0⟩
  | .fin x =>
    if nan then ⟨.nan false, 0⟩
    else
      let y := (Ex.ofInt v).mul x
      ⟨.fin (y.unscale (-sx)), 0⟩

/-- An output in an integer format: rounded to nearest even and clamped, `nv` alone for a clamp (R275); `nx` for a rounding that is
inexact, as R212 has it (assumption 15, DEDUCED). -/
def outInt (ty : Nat) (x : EVF) : FR :=
  match x.v with
  | .fin y =>
    let r := toIntTy ty 0 0 (.fin y)
    if r.fl &&& fNV != 0 then ⟨r.bits, fNV⟩ else r
  | _ => ⟨0, fNV⟩

/-- The outputs of a token from the values of its `out` taps. -/
def gconvert (g : Graph) (t : GTok) (vs : List Int) : GOut :=
  let ty := g.outFmt.toNat
  let xs := (vs.zip g.scales).map (fun p => outValue p.1 p.2 t.sx t.nan)
  let fx := xs.foldl (fun f x => f ||| x.fl) 0
  if ty = 11 then
    let bl := (upto 0 (xs.length / 32)).map (fun b =>
      bxQuant true 6 0 (List.replicate 32 0) (((xs.drop (32 * b)).take 32).map (·.v)))
    { op := t.op, idx := t.idx, vals := bl.flatMap (fun b => b.els.map (BitVec.ofNat 32)),
      hdrs := bl.map (fun b => BitVec.ofNat 32 b.hdr), fl := bl.foldl (fun f b => f ||| b.fl) fx }
  else
    let rs := xs.map (fun x => if isFloatTy ty then x.round ty 0 false 0 else
      (let r := outInt ty x; ⟨r.bits, r.fl ||| x.fl⟩))
    { op := t.op, idx := t.idx, vals := rs.map (fun r => BitVec.ofNat 32 r.bits), hdrs := [],
      fl := rs.foldl (fun f r => f ||| r.fl) 0 }

/-! ### One step of a graph (R271, R272) -/

/-- The value an input brings: the source's register `lat` steps ago. -/
def gread (regs : Tbl (List Int)) (i : GIn) : Int :=
  match i.src with
  | none => 0
  | some k => (tget [] regs k).getD (i.lat - 1) 0

def nodeValue (regs : Tbl (List Int)) (t : GTok) (n : GNode) : Int :=
  let a := gread regs n.a
  let b := gread regs n.b
  let as := a * ((2 ^ n.a.sh : Nat) : Int)
  let bs := b * ((2 ^ n.b.sh : Nat) : Int)
  match n.kind with
  | 0 => as + bs
  | 1 => as - bs
  | 2 => -as - bs
  | 3 => as
  | 4 => a
  | 5 => t.vals.getD n.port 0
  | _ => a

/-- The longest route of the graph, in registers. -/
def Graph.depth (g : Graph) : Nat := g.nodes.foldl (fun m n => max m (max n.a.lat n.b.lat)) 1

/-- The registers after a step, and the values of the `out` taps in output order. -/
def Graph.clock (g : Graph) (t : GTok) : Tbl (List Int) × List Int :=
  let vs := g.nodes.map (nodeValue g.regs t)
  let d := g.depth
  let regs := (vs.zip (upto 0 vs.length)).foldl (fun r p =>
    let h := (p.1 :: tget [] g.regs p.2).take d
    tset [] r p.2 (if h.all (· == 0) then [] else h)) g.regs
  let outs := (g.nodes.zip vs).filter (fun p => p.1.kind == 6)
  (regs, (upto 0 g.nout).map (fun i => ((outs.find? (fun p => p.1.port == i)).map (·.2)).getD 0))

/-- The token whose outputs come out in the step that enters the head of the input queue. -/
def Graph.leaving (g : Graph) : Option GTok :=
  match g.inq with
  | [] => none
  | t :: _ => (t :: g.pipe)[g.lat]?

/-! ### Operations of a graph (R276, R279) -/

/-- Tokens an operation enters, drain tokens included. -/
def Graph.total (g : Graph) (o : GOp) : Nat := o.tokens + g.lat + g.hist

/-- The graph takes tokens and steps. -/
def Graph.live (g : Graph) : Bool := g.loaded && !g.frozen && !g.parked && !g.unloaded

/-- Between operations: nothing queued and no operation entered in part (R290). -/
def Graph.between (g : Graph) : Bool :=
  g.inq.isEmpty && g.outq.isEmpty && g.ops.all (fun o => o.entered == 0)

/-- The tokens of a `gcol`: lanes of its register. -/
def colToken (g : Graph) (op : Nat) (v : VecVal) (j : Nat) : GTok :=
  let ty := g.inFmt.toNat
  let xs := ((v.lanes (tyWidth ty)).drop (j * g.nin)).take g.nin
  tokenOf ty op j xs ((upto 0 g.nin).map (fun i => v.hdrs.getD ((j * g.nin + i) / 32) 0))

/-- Lets tokens that need no memory enter the input queue while there is room. -/
def State.feedIn (s : State) (d h : Nat) : Nat → State
  | 0 => s
  | fuel + 1 =>
    let g := s.graphAt d h
    match g.ops with
    | [] => s
    | o :: rest =>
      if g.total o ≤ o.entered then (s.putGraph d h { g with ops := rest }).feedIn d h fuel
      else if !g.live || 32 ≤ g.inq.length || (g.hold && o.entered == 0) then s
      else
        let o := if o.cancelled && o.entered < o.tokens then { o with entered := o.tokens } else o
        let put (t : GTok) : State :=
          s.putGraph d h { g with inq := g.inq ++ [t], ops := { o with entered := o.entered + 1 } :: rest }
        if o.tokens ≤ o.entered then (put (drainTok o.op o.entered g.nin)).feedIn d h fuel
        else
          match (s.opAt o.cell o.op).map PendOp.kind with
          | some (.gcol _ _ _ inp _ _) => (put (colToken g o.op inp o.entered)).feedIn d h fuel
          | some (.gstr _ _ _ _ _ _) => s
          | _ => (s.putGraph d h { g with ops := { o with cancelled := true } :: rest }).feedIn d h fuel

/-- Enough turns to fill an input queue. -/
def feedFuel : Nat := 80

/-! ### The plane sequencer of a die (R278) -/

def State.seqrAt (s : State) (die : Nat) : Seqr := tget Seqr.blank s.seqrs die
def State.putSeqr (s : State) (die : Nat) (x : Seqr) : State := { s with seqrs := tset Seqr.blank s.seqrs die x }

/-- The quantum of a plane of a die (R298). -/
def State.quantum (s : State) (die p : Nat) : Nat := tget 16 s.quanta (4 * die + p)

/-- The graphs that stand in a plane of a die, by key (256 times the descriptor plus the handle). -/
def State.planeGraphs (s : State) (die p : Nat) : List (Nat × Graph) :=
  s.graphs.filter (fun q => (q.2.loaded || q.2.loading.isSome) && !q.2.unloaded && q.2.die == die && q.2.plane == p && q.2.nsail != 0)

/-- A plane is ready: a graph that is loaded and not frozen has a token queued. -/
def State.planeReady (s : State) (die p : Nat) : Bool :=
  (s.planeGraphs die p).any (fun q => q.2.live && !q.2.inq.isEmpty)

/-- The first ready plane after `p`, `p` itself last. -/
def State.nextPlane (s : State) (die p : Nat) : Option Nat :=
  [(p + 1) % 4, (p + 2) % 4, (p + 3) % 4, p % 4].find? (fun r => s.planeReady die r)

/-- An idle sequencer turns to the first plane that has become ready. -/
def State.wakeSeqr (s : State) (die : Nat) : State :=
  let q := s.seqrAt die
  if !q.idle then s
  else
    match s.nextPlane die q.plane with
    | none => s
    | some r => s.putSeqr die { q with idle := false, switch := some r }

/-- Tokens enter a graph's input queue, and its die's sequencer sees it. -/
def State.feed (s : State) (d h : Nat) : State := (s.feedIn d h feedFuel).wakeSeqr (s.graphAt d h).die

/-- Outputs come to the operation they belong to: into a `gcol`'s register, or the output queue of a `gstr`. -/
def State.gdeliver (s : State) (d h : Nat) (o : GOut) : State :=
  let g := s.graphAt d h
  match s.cellOfOp o.op with
  | none => s
  | some c =>
    match s.opAt c o.op with
    | none => s
    | some op =>
      match op.kind with
      | .gcol hh dd tokens inp out fl =>
        let w := tyWidth g.outFmt.toNat
        let v := overlay out ((o.vals.zip (upto 0 o.vals.length)).map (fun p => ((o.idx * g.nout + p.2) * w, w, p.1.toNat)))
        let v := overlay v ((o.hdrs.zip (upto 0 o.hdrs.length)).map (fun p =>
          (1024 + 32 * (o.idx * g.nout / 32 + p.2), 32, p.1.toNat)))
        let fl := Nat.lor fl o.fl.toNat
        s.opPut c { op with kind := .gcol hh dd tokens inp v fl }
      | .gstr _ _ _ _ _ _ => s.putGraph d h { g with outq := g.outq ++ [o] }
      | _ => s

/-- A `gcol` completes when the last of its tokens, drain tokens included, has stepped (R307). -/
def State.gfinish (s : State) (d h : Nat) (t : GTok) : State :=
  let g := s.graphAt d h
  match s.cellOfOp t.op with
  | none => s
  | some c =>
    match s.opAt c t.op with
    | none => s
    | some op =>
      match op.kind with
      | .gcol _ dd tokens _ out fl =>
        if t.idx + 1 = tokens + g.lat + g.hist then s.opDone c op [.v dd out] (BitVec.ofNat 6 fl) 0 false else s
      | _ => s

/-- The outputs of the token that would leave need room in the output queue. -/
def State.needsRoom (s : State) (g : Graph) : Bool :=
  match g.leaving with
  | none => false
  | some t =>
    !t.drain &&
      (match (s.opAnywhere t.op).map PendOp.kind with
       | some (.gstr _ _ _ _ _ _) => true
       | _ => false)

/-- A graph can step: a token queued and room for one token's outputs (R276). -/
def State.canStep (s : State) (g : Graph) : Bool :=
  g.live && !g.inq.isEmpty && (!s.needsRoom g || decide (g.outq.length < 32))

/-- One step of the graph of a handle. -/
def State.stepGraph (s : State) (d h : Nat) : State :=
  let g := s.graphAt d h
  match g.inq with
  | [] => s
  | t :: rest =>
    let (regs, vs) := g.clock t
    let s := s.putGraph d h { g with inq := rest, pipe := (t :: g.pipe).take (g.lat + 1), regs := regs }
    let s := match g.leaving with
      | some l => if l.drain then s else s.gdeliver d h (gconvert g l vs)
      | none => s
    (s.gfinish d h t).feed d h

/-! ### Steps of a plane (R278) -/

/-- The sequencer leaves its plane. -/
def State.leavePlane (s : State) (die : Nat) : State :=
  let q := s.seqrAt die
  match s.nextPlane die q.plane with
  | none => s.putSeqr die { q with idle := true, steps := 0, still := 0 }
  | some r =>
    if r = q.plane then s.putSeqr die { q with steps := 0, still := 0 }
    else s.putSeqr die { q with switch := some r, steps := 0, still := 0 }

/-- The sequencer keeps a plane active. -/
def Seqr.active (q : Seqr) : Bool := !q.idle && q.switch.isNone

/-- An active cycle of a die's sequencer; at its end the plane is left once none of its graphs has a token queued. -/
def execGraphStep (s : State) : Out :=
  let die := s.unit
  let q := s.seqrAt die
  let leaves (s : State) : State := if s.planeReady die q.plane then s else s.leavePlane die
  .next (
    if !q.active || q.quant ≤ q.steps || 8 ≤ q.still then s
    else
      let go := (s.planeGraphs die q.plane).filter (fun p => s.canStep p.2)
      if go.isEmpty then leaves (s.putSeqr die { q with still := q.still + 1 })
      else
        let s := s.putSeqr die { q with steps := q.steps + 1, still := 0 }
        leaves (go.foldl (fun s p => s.stepGraph (p.1 / 256) (p.1 % 256)) s))

def execQuantumExpiry (s : State) : Out :=
  let q := s.seqrAt s.unit
  .next (if q.active && q.quant ≤ q.steps then s.leavePlane s.unit else s)

def execPlaneIdleTimeout (s : State) : Out :=
  let q := s.seqrAt s.unit
  .next (if q.active && 8 ≤ q.still then s.leavePlane s.unit else s)

/-- The switch ends: the plane is active, its quantum taken up. -/
def execPlaneSwitchDone (s : State) : Out :=
  let die := s.unit
  let q := s.seqrAt die
  .next (
    match q.switch with
    | some r => s.putSeqr die { plane := r, idle := false, switch := none, steps := 0, still := 0, quant := s.quantum die r }
    | none => s)

/-- A plane left without a graph returns to Q = 16; a die without any counts plane 3 as the last (R278, R298). -/
def State.tidyDie (s : State) (die : Nat) : State :=
  let empty (p : Nat) : Bool := (s.planeGraphs die p).isEmpty
  let s := { s with quanta := (upto 0 4).foldl (fun t p => if empty p then tset 16 t (4 * die + p) 16 else t) s.quanta }
  if (upto 0 4).all empty then
    s.putSeqr die { s.seqrAt die with plane := 3, idle := true, switch := none, steps := 0, still := 0 }
  else s

/-- Unloads a handle and frees its plane (R294, R369). -/
def State.freeGraph (s : State) (d h : Nat) : State :=
  let die := (s.graphAt d h).die
  (s.putGraph d h Graph.blank).tidyDie die

/-! ### The sail allocator (R289, R290) -/

/-- Sail `g` is free in plane `p` of a die. -/
def State.sailFree (s : State) (die p g : Nat) : Bool :=
  (s.planeGraphs die p).all (fun q => !(decide (q.2.sail0 ≤ g) && decide (g < q.2.sail0 + q.2.nsail)))

/-- A run of free sails, those that begin in the issuing bay first. -/
def State.findSails (s : State) (die p bay n : Nat) : Option Nat :=
  let starts := upto (64 * die) (65 - n)
  let ok (g : Nat) : Bool := (upto g n).all (fun x => s.sailFree die p x)
  match (starts.filter (fun g => g / 16 == bay)).find? ok with
  | some g => some g
  | none => starts.find? ok

def State.freeSails (s : State) (die p : Nat) : Nat := ((upto (64 * die) 64).filter (fun g => s.sailFree die p g)).length

/-- The graphs of a plane of a die in sail order. -/
def insertGraph (q : Nat × Graph) : List (Nat × Graph) → List (Nat × Graph)
  | [] => [q]
  | r :: rs => if q.2.sail0 ≤ r.2.sail0 then q :: r :: rs else r :: insertGraph q rs

def State.planeOrder (s : State) (die p : Nat) : List (Nat × Graph) :=
  (s.planeGraphs die p).foldl (fun l q => insertGraph q l) []

/-- Writes of fabric planes in a bay are propagated to die level (R290). -/
def State.fabricOut (s : State) (b : Nat) : State :=
  let mine (w : BufWrite) : Bool := w.path == .fabric && w.level == 1 && w.dom == b
  { s with bufs := s.bufs.filter (fun w => !mine w) ++
      (s.bufs.filter mine).map (fun w => { w with level := 2, dom := b / 4 }) }

/-- Slides the graphs of a plane of a die to lower sails, keeping their order. -/
def State.slide (s : State) : List (Nat × Graph) → Nat → State
  | [], _ => s
  | q :: qs, at' =>
    let s := if q.2.sail0 = at' then s else (s.fabricOut (q.2.sail0 / 16)).modGraph (q.1 / 256) (q.1 % 256) (fun g => { g with sail0 := at' })
    s.slide qs (at' + q.2.nsail)

/-- Each graph that a slide would move stands between operations or is frozen. -/
def slideReady : List (Nat × Graph) → Nat → Bool
  | [], _ => true
  | q :: qs, at' => (decide (q.2.sail0 = at') || q.2.frozen || q.2.parked || q.2.between) && slideReady qs (at' + q.2.nsail)

def State.setHold (s : State) (die p : Nat) (on : Bool) : State :=
  (s.planeGraphs die p).foldl (fun s q =>
    let s := s.modGraph (q.1 / 256) (q.1 % 256) (fun g => { g with hold := on })
    if on then s else s.feed (q.1 / 256) (q.1 % 256)) s

/-- The context of a descriptor is out, or on its way back. -/
def State.isOut (s : State) (d : Nat) : Bool :=
  match (s.ctxAt d).pre with
  | .out _ => true
  | .resuming _ => true
  | _ => false

/-- Unloads frozen graphs of contexts that are out, lowest sail first, until `n` sails are free (R304). -/
def State.evict (s : State) (die p n : Nat) : List (Nat × Graph) → State
  | [] => s
  | q :: qs =>
    if n ≤ s.freeSails die p then s
    else if q.2.parked && s.isOut (q.1 / 256) then (s.modGraph (q.1 / 256) (q.1 % 256) (fun g => { g with unloaded := true })).evict die p n qs
    else s.evict die p n qs

/-- What the allocator answers. -/
inductive Sails where
  | at (g : Nat) (s : State)
  | wait (s : State)
  | full (s : State)
  deriving DecidableEq, Repr

/-- Allocates `n` sails of plane `p`: a free run, a run after compaction, a run after unloading what a pre-empted context
left. -/
def State.allocSails (s : State) (die p bay n : Nat) : Sails :=
  let tryIt (s : State) : Sails :=
    match s.findSails die p bay n with
    | some g => .at g s
    | none =>
      if s.freeSails die p < n then .full s
      else if !slideReady (s.planeOrder die p) (64 * die) then .wait (s.setHold die p true)
      else
        let s := (s.slide (s.planeOrder die p) (64 * die)).setHold die p false
        match s.findSails die p bay n with
        | some g => .at g s
        | none => .full s
  let free (s : State) : State := s.setHold die p false
  match tryIt s with
  | .full s =>
    let s' := (s.evict die p n (s.planeOrder die p)).tidyDie die
    (match tryIt s' with
     | .at g t => .at g (free t)
     | .wait t => .wait t
     | .full t => .full (free t))
  | .at g t => .at g (free t)
  | r => r

/-! ### Memory of the fabric (R302) -/

/-- Why a fabric access does not go on: an address that misses, or one that breaks R146 (assumption 101). -/
inductive FabStop where
  | miss (va : Nat)
  | range
  deriving DecidableEq, Repr

/-- Entries for fabric addresses, under R146. -/
def State.fabEnts (s : State) (b : Nat) (w : Who) (write : Bool) (vas : List Nat) : Except FabStop (List (Nat × TlbEnt)) :=
  if !vas.all (vaOk w.priv) then .error .range
  else
    match s.transEnts (.bay b) w write vas with
    | .error va => .error (.miss va)
    | .ok l => .ok l

/-- Bytes read for a plane in bay `b` with the state afterwards. -/
def State.fabRead (s : State) (b : Nat) (w : Who) (va n : Nat) : Except FabStop (List Byte × State) :=
  (s.fabEnts b w false (upto va n)).map (fun l => (l.map (fun q => s.readByte (Party.ofBay b) 0 (paOf q)), s.touched b 0 false l))

/-- Elements read under their numbers, each from its address and size. -/
def State.fabReads (s : State) (b : Nat) (w : Who) (xs : List (Nat × Nat × Nat)) : Except FabStop (List (Nat × Nat) × State) :=
  (s.fabEnts b w false (xs.flatMap (fun x => upto x.2.1 x.2.2))).map (fun l =>
    let m := l.map (fun q => (q.1, s.readByte (Party.ofBay b) 0 (paOf q)))
    (xs.map (fun x => (x.1, leNat ((upto x.2.1 x.2.2).map (fun a => ((m.find? (fun q => q.1 == a)).map (·.2)).getD 0)))), s.touched b 0 false l))

/-- Runs of bytes written for a plane in bay `b`, or the address that misses. -/
def State.fabWrite (s : State) (b : Nat) (w : Who) (c : Nat) (op : PendOp) (xs : List (Nat × List Byte)) : Except FabStop State :=
  let one (x : Nat × List Byte) : List (Nat × Byte) := (upto x.1 x.2.length).zip x.2
  let all := xs.flatMap one
  (s.fabEnts b w true (all.map (·.1))).map (fun l =>
    (s.touched b 0 true l).writeAll (Party.ofBay b) .fabric op.que c op.id op.desc ((l.map paOf).zip (all.map (·.2))))

/-! ### How a fabric operation fails (R293, R303) -/

/-- The status word of `gld`. -/
def gldStatus (gst plane sail n rcd : Nat) : Word :=
  BitVec.ofNat 64 (gst % 256 + plane % 4 * 2 ^ 8 + sail % 256 * 2 ^ 10 + n % 128 * 2 ^ 18 + rcd % 2 ^ 32 * 2 ^ 32)

/-- The status word of `gstr`. -/
def gstrStatus (st out : Nat) : Word := BitVec.ofNat 64 (st % 256 + out % 2 ^ 32 * 2 ^ 8)

/-- Ends a `gld` that fails: nothing waits for its sails any longer, and the handle counts as loading until the failure completes
(R293). -/
def State.gldFail (s : State) (c : Nat) (op : PendOp) (h plane dd : Nat) (b : GBad) : State :=
  (((s.putGraph op.desc h { Graph.blank with loading := some op.id }).setHold (dieOf c) plane false).opDone c op
    [.s dd (gldStatus b.gst 0 0 0 b.rcd)] 0 0 (b.gst == gstFAULT)).landed op.desc

/-- Ends a fabric operation with status FAULT. -/
def State.fabFault (s : State) (c : Nat) (op : PendOp) : State :=
  match op.kind with
  | .gld h p _ dd _ => s.gldFail c op h p dd ⟨gstFAULT, 0⟩
  | .gstr h dd _ out _ fl =>
    let s := s.modGraph op.desc h (fun g => { g with
      ops := g.ops.map (fun o => if o.op == op.id then { o with cancelled := true } else o)
      outq := g.outq.filter (fun o => o.op != op.id) })
    ((s.opDone c op [.s dd (gstrStatus 1 out)] (BitVec.ofNat 6 fl) 0 true).landOp op.desc op.id).feed op.desc h
  | .gfrz _ _ dd => s.opDone c op [.s dd 1] 0 0 true
  | .gthaw _ _ dd => s.opDone c op [.s dd 1] 0 0 true
  | _ => s

/-- What stops a fabric operation's access: the walker is asked, or the operation ends. -/
def State.fabStop (s : State) (b : Nat) (w : Who) (wr : Bool) (c : Nat) (op : PendOp) : FabStop → State
  | .miss va => s.askWalk (.bay b) w va wr .fabric c op.area [.cellOp c op.id]
  | .range => s.fabFault c op

/-! ### `gld` (R293) -/

/-- Puts a graph into its sails under a handle (R277, R288); the handle is loaded once its `gld` completes. -/
def Graph.placed (g : Graph) (id : Nat) (fimg : Word) (die plane sail : Nat) : Graph :=
  { g with loading := some id, fimg := fimg, die := die, plane := plane, sail0 := sail }

/-- The bytes of an image from the words read of it. -/
def wordsOf (got : List (Nat × Nat)) (n : Nat) : List Byte :=
  (upto 0 n).flatMap (fun i => leBytes 8 (((got.find? (fun q => q.1 == i)).map (·.2)).getD 0))

/-- Words of an image that its reader needs, as far as the words read tell. -/
def imageWords (got : List (Nat × Nat)) : Nat :=
  if !(upto 0 8).all (fun i => got.any (fun q => q.1 == i)) then 8
  else
    let hd := wordsOf got 8
    if (GHead.ofBytes hd).fieldsOk hd then max 8 (isize hd / 8) else 8

/-- The image is read whole: it is checked and placed (R286, R289). -/
def State.gldPlace (s : State) (c : Nat) (op : PendOp) (h plane : Nat) (va : Word) (dd : Nat) (bs : List Byte) : State :=
  match graphHead bs with
  | .error e => s.gldFail c op h plane dd e
  | .ok hd =>
    match s.allocSails (dieOf c) plane (bayOf c) hd.nsail with
    | .full t => t.gldFail c op h plane dd ⟨gstPLANE, 0⟩
    | .wait t => t
    | .at g t =>
      match graphOf hd bs with
      | .error e => t.gldFail c op h plane dd e
      | .ok gr =>
        ((t.putGraph op.desc h (gr.placed op.id va (dieOf c) plane g)).opDone c op
          [.s dd (gldStatus 0 plane g hd.nsail 0)] 0 0 false).landed op.desc

/-- A share of a `gld` is performed, unless its context is about to be saved (R356): words of the image are read; the last of them places the graph. -/
def State.gldPerform (s : State) (c : Nat) (op : PendOp) (w : Who) (h plane : Nat) (va : Word) (dd : Nat) (got : List (Nat × Nat))
    (part : OpPart) : State :=
  if s.quiet op.desc then s
  else
  let b := bayOf c
  let left (got : List (Nat × Nat)) : List Nat := (upto 0 (imageWords got)).filter (fun i => !got.any (fun q => q.1 == i))
  let want := match part with
    | .whole => left got
    | .reads first n => (left got).filter (fun i => decide (first ≤ i) && decide (i < first + n))
    | .writes _ _ => []
  match s.fabReads b w (want.map (fun i => (i, va.toNat + 8 * i, 8))) with
  | .error e => s.fabStop b w false c op e
  | .ok (xs, s) =>
    let got := got ++ xs
    let op := { op with kind := .gld h plane va dd got }
    let s := s.opPut c op
    if (left got).isEmpty then s.gldPlace c op h plane va dd (wordsOf got (imageWords got)) else s

/-- The completion of a `gld` loads its handle (R288); one that failed, which holds no sail, leaves it free. -/
def State.gldLoaded (s : State) (d id : Nat) : State :=
  match s.graphs.find? (fun p => p.1 / 256 == d && p.2.loading == some id) with
  | none => s
  | some p =>
    s.putGraph d (p.1 % 256) (if p.2.nsail = 0 then { p.2 with loading := none } else { p.2 with loaded := true, loading := none })

/-! ### `gstr` (R296) -/

/-- Element `i` of a binding from its cursor on: its location, and the tuple read there. -/
def bindAt (x : StreamReg) (i : Nat) : Loc × List Int :=
  let t := x.tuple (i : Int)
  (x.rc.loc t, x.rc.eff t)

/-- The address and size of unit `i` of a token of `n` elements: an element, or from `n` on the header of an element's block; none
where memory holds none of it. -/
def bindUnit (x : StreamReg) (n i : Nat) : Option (Nat × Nat) :=
  match (bindAt x (i % n)).1 with
  | .at a _ =>
    if i < n then some (a.toNat, elBytes (tyWidth x.rc.ty))
    else if isBX x.rc.ty then some ((x.rc.hdrAddr (bindAt x (i % n)).2).toNat, 4) else none
  | _ => none

/-- The units of one token that memory holds: number, address, size. -/
def bindUnits (x : StreamReg) (n : Nat) : List (Nat × Nat × Nat) :=
  (upto 0 (2 * n)).filterMap (fun i => (bindUnit x n i).map (fun q => (i, q.1, q.2)))

/-- Whether an out-of-range element of a token is poison (R167). -/
def bindPoison (x : StreamReg) (n : Nat) : Bool := (upto 0 n).any (fun i => (bindAt x i).1 == .poison)

/-- Token `idx` of a `gstr` from the units read of it, and whether poison was read. -/
def strToken (g : Graph) (x : StreamReg) (op idx : Nat) (got : List (Nat × Nat)) : GTok × Bool :=
  let ty := g.inFmt.toNat
  let val (i : Nat) : Nat := ((got.find? (fun q => q.1 == 2 * g.nin * idx + i)).map (·.2)).getD 0
  let el (i : Nat) : Nat := match (bindAt x i).1 with
    | .at _ sh => val i / 2 ^ sh % 2 ^ tyWidth ty
    | .zero => 0
    | .poison => if isBX ty then 0 else poison ty
  (tokenOf ty op idx ((upto 0 g.nin).map el) ((upto 0 g.nin).map (fun i => val (g.nin + i))), bindPoison x g.nin)

/-- The numbers of reads that a part takes. -/
def partReads : OpPart → (Nat → Bool)
  | .reads first n => fun i => decide (first ≤ i) && decide (i < first + n)
  | _ => fun _ => false

/-- The same for writes. -/
def partWrites : OpPart → (Nat → Bool)
  | .writes first n => fun i => decide (first ≤ i) && decide (i < first + n)
  | _ => fun _ => false

/-- Reads that a `gstr` has open: the units not read yet of the tokens that the input queue has room for. -/
def strReads (g : Graph) (o : GOp) (io : StrIo) : List (Nat × Nat × Nat) :=
  (upto o.entered (min (o.tokens - o.entered) (32 - g.inq.length))).flatMap (fun t =>
    (bindUnits (g.bin.advance 1 ((t - o.entered : Nat) : Int)) g.nin).filterMap (fun u =>
      let k := 2 * g.nin * t + u.1
      if io.got.any (fun q => q.1 == k) then none else some (k, u.2)))

/-- The next token enters the input queue once all of it is read. -/
def State.strEnter (s : State) (c : Nat) (op : PendOp) (h : Nat) : State :=
  match op.kind with
  | .gstr _ dd tokens out io fl =>
    let g := s.graphAt op.desc h
    (match g.ops with
     | [] => s
     | o :: os =>
       if o.op != op.id || o.tokens ≤ o.entered || 32 ≤ g.inq.length || (g.hold && o.entered == 0) ||
           (strReads g { o with tokens := min o.tokens (o.entered + 1) } io).any (fun _ => true) then s
       else
         let (t, pz) := strToken g g.bin op.id o.entered io.got
         let s := s.putGraph op.desc h { g with inq := g.inq ++ [t], ops := { o with entered := o.entered + 1 } :: os,
                                                bin := g.bin.advance 1 1 }
         let io := { io with got := io.got.filter (fun q => decide (2 * g.nin * (o.entered + 1) ≤ q.1)) }
         (s.opPut c { op with kind := .gstr h dd tokens out io (Nat.lor fl (if pz then fPZ.toNat else 0)) }).feed op.desc h)
  | _ => s

/-- Tokens enter the input queue while they are read and there is room. -/
def State.strEnterAll (s : State) (c id h : Nat) : Nat → State
  | 0 => s
  | fuel + 1 =>
    match s.opAt c id with
    | none => s
    | some op => (s.strEnter c op h).strEnterAll c id h fuel

/-- Writes that a `gstr` has open: the units not written yet of the outputs in the output queue. -/
def strWrites (g : Graph) (op : Nat) (io : StrIo) : List (Nat × Nat × List Byte) :=
  let n := elBytes (tyWidth g.outFmt.toNat)
  (g.outq.zip (upto 0 g.outq.length)).flatMap (fun p =>
    if p.1.op != op then []
    else (bindUnits (g.bout.advance 1 (p.2 : Int)) g.nout).filterMap (fun u =>
      let k := 2 * g.nout * p.1.idx + u.1
      if io.put.contains k then none
      else some (k, u.2.1, if u.1 < g.nout then leBytes n (p.1.vals.getD u.1 0).toNat
        else leBytes 4 (p.1.hdrs.getD ((u.1 - g.nout) / 32) 0).toNat)))

/-- The oldest outputs leave the output queue once all of them are written; the last of them completes the `gstr`. -/
def State.strLeave (s : State) (c : Nat) (op : PendOp) (h : Nat) : State :=
  match op.kind with
  | .gstr _ dd tokens out io fl =>
    let g := s.graphAt op.desc h
    (match g.outq with
     | [] => s
     | o :: rest =>
       if o.op != op.id || (strWrites { g with outq := [o] } op.id io).any (fun _ => true) then s
       else
         let fl := Nat.lor (Nat.lor fl o.fl.toNat) (if bindPoison g.bout g.nout then fPZ.toNat else 0)
         let s := s.putGraph op.desc h { g with outq := rest, bout := g.bout.advance 1 1 }
         if out + 1 = tokens then (s.opDone c op [.s dd (gstrStatus 0 tokens)] (BitVec.ofNat 6 fl) 0 false).landOp op.desc op.id
         else
           let io := { io with put := io.put.filter (fun k => decide (2 * g.nout * (o.idx + 1) ≤ k)) }
           s.opPut c { op with kind := .gstr h dd tokens (out + 1) io fl })
  | _ => s

def State.strLeaveAll (s : State) (c id h : Nat) : Nat → State
  | 0 => s
  | fuel + 1 =>
    match s.opAt c id with
    | none => s
    | some op => (s.strLeave c op h).strLeaveAll c id h fuel

/-- A share of a `gstr`: open element writes, or open element reads; one step takes the oldest outputs, or else the next token. -/
def State.gstrPerform (s : State) (c : Nat) (op : PendOp) (w : Who) (part : OpPart) : State :=
  match op.kind with
  | .gstr h dd tokens out io fl =>
    let g := s.graphAt op.desc h
    let b := g.sail0 / 16
    if g.frozen || g.parked || g.unloaded then s
    else
      let writes := strWrites g op.id io
      let reads := match g.ops with
        | o :: _ => if o.op == op.id then strReads g o io else []
        | [] => []
      let tokenNo (k : Nat) : Nat := k / (2 * g.nin)
      let ws := if part == .whole then writes.filter (fun u => u.1 / (2 * g.nout) == (writes.head?.map (·.1)).getD 0 / (2 * g.nout))
        else writes.filter (fun u => partWrites part u.1)
      let rs := if part == .whole then
          (if writes.isEmpty then reads.filter (fun u => tokenNo u.1 == tokenNo ((reads.head?.map (·.1)).getD 0)) else [])
        else reads.filter (fun u => partReads part u.1)
      match s.fabWrite b w c op (ws.map (·.2)) with
      | .error e => s.fabStop b w true c op e
      | .ok s =>
        match s.fabReads b w rs with
        | .error e => s.fabStop b w false c op e
        | .ok (xs, s) =>
          let io : StrIo := ⟨io.got ++ xs, io.put ++ ws.map (·.1)⟩
          let s := s.opPut c { op with kind := .gstr h dd tokens out io fl }
          (s.strLeaveAll c op.id h 33).strEnterAll c op.id h 33
  | _ => s

/-! ### Freezing (R299, R300) -/

/-- The bytes of a graph's freeze record; `opst`, whose layout the spec does not give, is 40 bytes handed in. -/
def Graph.record (g : Graph) (opst : List Byte) : List Byte :=
  let left := match g.ops with
    | o :: _ => if o.entered = 0 then 0 else g.total o - o.entered
    | [] => 0
  let pad8 (bs : List Byte) : List Byte := bs ++ List.replicate (alignUp bs.length 8 - bs.length) 0
  let kept := (g.nodes.zip (upto 0 g.nodes.length)).filter (fun p => p.1.keep)
  let regs := kept.flatMap (fun p => leBytes 8 (wrapNat 64 ((tget [] g.regs p.2).headD 0)))
  let exps := pad8 ((upto 0 (g.lat + 1)).flatMap (fun i => leBytes 2 (wrapNat 16 ((g.pipe[i]?.map GTok.sx).getD 0))))
  let inq := g.inq.flatMap (fun t => (upto 0 g.nin).flatMap (fun i => leBytes 4 (wrapNat 32 (t.vals.getD i 0))))
  let outq := pad8 (g.outq.flatMap (fun o => (upto 0 g.nout).flatMap (fun i => leBytes 4 (o.vals.getD i 0).toNat)))
  leBytes 8 g.fimg.toNat ++ leBytes 4 g.nodes.length ++ leBytes 1 g.lat ++ leBytes 1 g.hist ++ leBytes 2 g.inq.length ++
    leBytes 2 g.outq.length ++ leBytes 2 0 ++ leBytes 4 left ++ opst ++ regs ++ exps ++ inq ++ outq

/-- The size of a graph's freeze record. -/
def Graph.recordSize (g : Graph) : Nat :=
  64 + 8 * (g.nodes.filter (·.keep)).length + alignUp (2 * (g.lat + 1)) 8 + 4 * g.nin * g.inq.length +
    alignUp (4 * g.nout * g.outq.length) 8

/-- Bytes 24 to 63 of a freeze record: a free value (assumption 5). -/
def State.freeBytes (s : State) : Nat → List Byte × State
  | 0 => ([], s)
  | n + 1 =>
    let (b, s) := s.free 8
    let (bs, s) := s.freeBytes n
    (b :: bs, s)

/-- The registers a record restores; those the state mask leaves out read 0, and joins keep what they hold. -/
def Graph.restoreRegs (g : Graph) (bs : List Byte) : Tbl (List Int) :=
  let step (q : Tbl (List Int) × Nat) (p : GNode × Nat) : Tbl (List Int) × Nat :=
    let v : Int := if p.1.keep then signed 64 (fieldAt bs q.2 8) else 0
    let h := v :: (tget [] g.regs p.2).drop 1
    (tset [] q.1 p.2 (if h.all (· == 0) then [] else h), if p.1.keep then q.2 + 8 else q.2)
  ((g.nodes.zip (upto 0 g.nodes.length)).foldl step (g.regs, 64)).1

/-- What a freeze record's `opst` stands for. -/
def Graph.frozenAs (g : Graph) (opst : List Byte) : GFrz :=
  { opst := opst, ops := (g.ops[0]?).filter (fun o => o.entered != 0), pipe := g.pipe, inq := g.inq, outq := g.outq,
    bin := g.bin.cur, bout := g.bout.cur, kinds := [] }

/-- The operations with a token on its way through a graph. -/
def Graph.onWay (g : Graph) : List Nat :=
  ((g.ops.filter (fun o => o.entered != 0)).map GOp.op ++ g.inq.map GTok.op ++ g.pipe.map GTok.op ++ g.outq.map GOut.op).eraseDups

/-- The graph has written a freeze record, which names how far its operations have come. -/
def State.wrote (s : State) (g : Graph) (opst : List Byte) : Graph :=
  { g with frz := { g.frozenAs opst with kinds := g.onWay.filterMap (fun id => (s.opAnywhere id).map (fun o => (id, o.kind))) } :: g.frz }

/-- The size a record gives itself under a graph. -/
def Graph.sizeOf (g : Graph) (hd : List Byte) : Nat :=
  64 + 8 * (g.nodes.filter (·.keep)).length + alignUp (2 * (g.lat + 1)) 8 + 4 * g.nin * (fieldAt hd 14 2 % 64) +
    alignUp (4 * g.nout * (fieldAt hd 16 2 % 64)) 8

/-- What `opst` of a record names: what the newest record written with these bytes stood for; of bytes the graph has not written,
free cursors, and the operation as it stands (assumption 5). -/
def State.frzOf (s : State) (g : Graph) (opst : List Byte) : GFrz × State :=
  match g.frz.find? (fun z => z.opst == opst) with
  | some z => (z, s)
  | none =>
    let five (s : State) : Tbl (BitVec 32) × State :=
      (upto 0 5).foldl (fun (r : Tbl (BitVec 32) × State) k => let (x, t) := r.2.free 32; (tset 0 r.1 k x, t)) ([], s)
    let (a, s) := five s
    let (b, s) := five s
    ({ g.frozenAs opst with bin := a, bout := b }, s)

/-- A graph restored from a record (R299, R300): registers, exponents, queues and tokens still to enter from its bytes, the
operation in progress and the cursors as its `opst` names them. -/
def Graph.thaw (g : Graph) (z : GFrz) (bs : List Byte) : Graph :=
  let k := 64 + 8 * (g.nodes.filter (·.keep)).length
  let nq := fieldAt bs 14 2
  let nr := fieldAt bs 16 2
  let qo := k + alignUp (2 * (g.lat + 1)) 8
  let oo := qo + 4 * g.nin * nq
  let op := (z.ops.map GOp.op).getD 0
  let tok (i : Nat) : GTok := z.inq.getD i (drainTok op 0 g.nin)
  let out (i : Nat) : GOut := z.outq.getD i { op := op, idx := 0, vals := [], hdrs := [], fl := 0 }
  { g with
    regs := g.restoreRegs bs
    pipe := (z.pipe.zip (upto 0 z.pipe.length)).map (fun p => { p.1 with sx := signed 16 (fieldAt bs (k + 2 * p.2) 2) })
    inq := (upto 0 nq).map (fun i => { tok i with
      vals := (upto 0 g.nin).map (fun e => signed 32 (fieldAt bs (qo + 4 * (i * g.nin + e)) 4)) })
    outq := (upto 0 nr).map (fun i => { out i with
      vals := (upto 0 g.nout).map (fun e => BitVec.ofNat 32 (fieldAt bs (oo + 4 * (i * g.nout + e)) 4)) })
    ops := match z.ops with
      | some o => { o with entered := g.total o - fieldAt bs 20 4 } :: g.ops.filter (fun x => x.op != o.op)
      | none => g.ops
    bin := { g.bin with cur := z.bin }
    bout := { g.bout with cur := z.bout }
    frozen := false }

/-- A record is of the handle's graph. -/
def Graph.recordFits (g : Graph) (hd : List Byte) : Bool :=
  fieldAt hd 0 8 == g.fimg.toNat && fieldAt hd 8 4 == g.nodes.length && fieldAt hd 12 1 == g.lat

/-- A free status 0 to 3, for a handle that is not loaded: R299 gives no status (assumption 5). -/
def State.freeStatus (s : State) (c : Nat) (op : PendOp) (dd : Nat) : State :=
  let (v, s) := s.free 2
  s.opDone c op [.s dd (v.setWidth 64)] 0 0 false

/-- `gfrz` is performed: the record is written, and the graph stands frozen. -/
def State.gfrzPerform (s : State) (c : Nat) (op : PendOp) (w : Who) (h : Nat) (va : Word) (dd : Nat) : State :=
  let g := s.graphAt op.desc h
  let b := g.sail0 / 16
  if !g.loaded then s.freeStatus c op dd
  else if g.frozen then s.opDone c op [.s dd 3] 0 0 false
  else
    let (opst, t) := s.freeBytes 40
    match t.fabWrite b w c op [(va.toNat, g.record opst)] with
    | .error e => s.fabStop b w true c op e
    | .ok t => (t.putGraph op.desc h { s.wrote g opst with frozen := true }).opDone c op [.s dd 0] 0 0 false

/-- `gthaw` is performed: the record is read, and the graph goes on. -/
def State.gthawPerform (s : State) (c : Nat) (op : PendOp) (w : Who) (h : Nat) (va : Word) (dd : Nat) : State :=
  let d := op.desc
  let g := s.graphAt d h
  let b := g.sail0 / 16
  if !g.loaded then s.freeStatus c op dd
  else if !g.frozen then s.opDone c op [.s dd 3] 0 0 false
  else
    match s.fabRead b w va.toNat 64 with
    | .error e => s.fabStop b w false c op e
    | .ok (hd, s) =>
      if !g.recordFits hd then s.opDone c op [.s dd 2] 0 0 false
      else
        match s.fabRead b w va.toNat (g.sizeOf hd) with
        | .error e => s.fabStop b w false c op e
        | .ok (bs, s) =>
          let (z, s) := s.frzOf g ((bs.drop 24).take 40)
          let s := z.kinds.foldl (fun s q => s.opChange q.1 (fun o => { o with kind := q.2 })) s
          ((s.putGraph d h (g.thaw z bs)).feed d h).opDone c op [.s dd 0] 0 0 false

/-! ### `grel` (R294) -/

/-- No operation on a handle is outstanding from any cell: neither to be performed nor to complete (R105, R294). -/
def State.graphIdle (s : State) (d h : Nat) : Bool :=
  s.cells.all (fun p => p.2.pend.all (fun o => !(o.desc == d && o.kind.graphOf == some h)) &&
    p.2.done.all (fun o => !(o.desc == d && o.hnd == some h)))

def State.grelPerform (s : State) (c : Nat) (op : PendOp) (h : Nat) : State :=
  let d := op.desc
  let g := s.graphAt d h
  if !g.loaded then s.opDone c op [] 0 0 false
  else if !s.graphIdle d h || (!g.frozen && !(g.inq.isEmpty && g.outq.isEmpty)) then s
  else (s.freeGraph d h).opDone c op [] 0 0 false

/-! ### Issue -/

/-- NOGRAPH of R292. -/
def gNOGRAPH : Res := .trap clsFabric 1 0

/-- The queue of a fabric operation: plane of a die, or the handle's own for what is no queue entry (R302). -/
def planeQue (die p : Nat) : Nat := 4 * die + p
def handleQue (h : Nat) : Nat := 1024 + h

def execGld (h : Hdr) (f : FmtG) (s : State) : Out :=
  .next (issue h false [sR f.sa, sR f.va] id (fun s =>
    tokGate s.app f.tv f.tok (
      let va := s.app.getS f.sa.toNat
      let hn := f.sl.toNat
      if !vaOk s.area.priv va.toNat then .trap clsMemory 3 va
      else needCommit s (fun s =>
        let g := s.graphAt s.desc hn
        if va.toNat % 64 != 0 then
          .ok ((if g.loaded || g.loading.isSome then s else s.putGraph s.desc hn { g with loading := some (s.nextOp + 1) }).pushDone
            (tokOf f.tv f.tok) [sR f.va] [.s f.va.toNat (gldStatus gstFORMAT 0 0 0 0)] 0 0)
        else if g.loaded || g.loading.isSome then
          .ok (s.pushDone (tokOf f.tv f.tok) [sR f.va] [.s f.va.toNat (gldStatus gstHANDLE 0 0 0 0)] 0 0)
        else
          let s := s.putGraph s.desc hn { g with loading := some (s.nextOp + 1) }
          .ok (s.push .fabric (planeQue (dieOf s.cur) f.pl.toNat) (tokOf f.tv f.tok) [sR f.va]
            (.gld hn f.pl.toNat va f.va.toNat []))))) s)

def execGrel (h : Hdr) (f : FmtG) (s : State) : Out :=
  .next (issue h false [] id (fun s =>
    tokGate s.app f.tv f.tok (needCommit s (fun s =>
      .ok (s.push .fabric (handleQue f.sl.toNat) (tokOf f.tv f.tok) [] (.grel f.sl.toNat))))) s)

/-- The checks of R295 on a stream register for a binding. -/
def bindCheck (g : Graph) (x : StreamReg) (out : Bool) : Option Bad :=
  let ty := if out then g.outFmt else g.inFmt
  let n := if out then g.nout else g.nin
  if !x.valid then some ⟨clsShape, 1, 0⟩
  else if x.rc.ts then some ⟨clsShape, 7, 0⟩
  else if x.rc.ety != ty then some ⟨clsShape, 6, 0⟩
  else if x.rc.extN 0 != n || (isBX ty.toNat && x.rc.baxis != 0) then some ⟨clsShape, 2, 0⟩
  else none

def execGbind (h : Hdr) (f : FmtG) (s : State) : Out :=
  .next (issue h false [] id (fun s =>
    let hn := f.sl.toNat
    let g := s.graphAt s.desc hn
    let x := s.app.getA f.sa.toNat
    if !g.loaded then gNOGRAPH
    else
      match bindCheck g x (f.fn == 1) with
      | some b => b.res
      | none => needCommit s (fun s =>
          let x := { x with ent := none }
          .ok (s.putGraph s.desc hn (if f.fn == 1 then { g with bout := x } else { g with bin := x })))) s)

/-- How far the earlier operations on a graph will still move its bindings: tokens to enter and outputs to write. -/
def State.strAhead (s : State) (d h : Nat) : Nat × Nat :=
  let g := s.graphAt d h
  (s.cells.flatMap (fun p => p.2.pend)).foldl (fun q o =>
    match o.kind with
    | .gstr hh _ tokens out _ _ =>
      if o.desc == d && hh == h then
        let entered := ((g.ops.find? (fun x => x.op == o.id)).map GOp.entered).getD tokens
        (q.1 + (tokens - min tokens entered), q.2 + (tokens - out))
      else q
    | _ => q) (0, 0)

/-- The addresses that `t` tokens of `n` elements form through a binding from `ahead` tokens on, elements and headers, obey R146. -/
def bindRange (priv : Bool) (x : StreamReg) (n ahead t : Nat) : Option Bad :=
  addrCheck priv ((upto ahead t).flatMap (fun (j : Nat) => (bindUnits (x.advance 1 (j : Int)) n).map (fun u => Int.ofNat u.2.1)))

/-- An operation joins its graph's line (R279). -/
def State.gjoin (s : State) (d h tokens : Nat) : State :=
  (s.modGraph d h (fun g => { g with ops := g.ops ++ [{ cell := s.cur, op := s.nextOp, tokens := tokens, entered := 0,
                                                        cancelled := false }] })).feed d h

def execGstr (h : Hdr) (f : FmtG) (s : State) : Out :=
  .next (issue h false [sR f.va] id (fun s =>
    tokGate s.app f.tv f.tok (
      let hn := f.sl.toNat
      let g := s.graphAt s.desc hn
      if !g.loaded then gNOGRAPH
      else if !g.bin.valid || !g.bout.valid then .trap clsFabric 2 0
      else
        let t := f.cnt.toNat + 1
        let (i, o) := s.strAhead s.desc hn
        match bindRange s.area.priv g.bin g.nin i t, bindRange s.area.priv g.bout g.nout o t with
        | some b, _ => b.res
        | _, some b => b.res
        | none, none => needCommit s (fun s =>
            let s := s.push .fabric (planeQue g.die g.plane) (tokOf f.tv f.tok) [sR f.va] (.gstr hn f.va.toNat t 0 ⟨[], []⟩ 0)
            .ok (s.gjoin s.desc hn t)))) s)

def execGcol (h : Hdr) (f : FmtG) (s : State) : Out :=
  .next (issue h false [vR f.sa, vR f.va] id (fun s =>
    tokGate s.app f.tv f.tok (
      let hn := f.sl.toNat
      let g := s.graphAt s.desc hn
      let t := f.cnt.toNat + 1
      if !g.loaded then gNOGRAPH
      else if lanes g.inFmt.toNat < t * g.nin || lanes g.outFmt.toNat < t * g.nout then .trap clsFabric 3 0
      else
        let s := s.push .fabric (handleQue (256 + hn)) (tokOf f.tv f.tok) [vR f.va]
          (.gcol hn f.va.toNat t (s.app.getV f.sa.toNat) VecVal.zero 0)
        .ok (s.gjoin s.desc hn t))) s)

def execGctx (h : Hdr) (f : FmtG) (s : State) : Out :=
  .next (issue h false [] id (fun s =>
    let g := s.graphAt s.desc f.sl.toNat
    if !g.loaded then gNOGRAPH
    else needCommit s (fun s => .ok { s with quanta := tset 16 s.quanta (4 * g.die + g.plane) (f.cnt.toNat + 1) })) s)

/-- `gfrz` and `gthaw` leave the cell alike; `n` bytes are to be moved. -/
def State.gFreezeOp (s : State) (f : FmtG) (n : Nat) (k : Nat → Word → Nat → OpKind) : Res :=
  tokGate s.app f.tv f.tok (
    let va := s.app.getS f.sa.toNat
    if !vaOk s.area.priv va.toNat || !vaOk s.area.priv (va.toNat + n - 1) then .trap clsMemory 3 va
    else needCommit s (fun s =>
      .ok (s.push .fabric (handleQue f.sl.toNat) (tokOf f.tv f.tok) [sR f.va] (k f.sl.toNat va f.va.toNat))))

def execGfrz (h : Hdr) (f : FmtG) (s : State) : Out :=
  .next (issue h false [sR f.sa, sR f.va] id (fun s => s.gFreezeOp f (s.graphAt s.desc f.sl.toNat).recordSize .gfrz) s)

def execGthaw (h : Hdr) (f : FmtG) (s : State) : Out :=
  .next (issue h false [sR f.sa, sR f.va] id (fun s => s.gFreezeOp f 64 .gthaw) s)

/-- The summary of a handle (R301). -/
def State.gquery (s : State) (d h : Nat) : Word :=
  let g := s.graphAt d h
  if !g.loaded then 0
  else BitVec.ofNat 64 (1 + (if g.frozen then 2 else 0) + g.plane % 4 * 2 ^ 2 + g.sail0 % 256 * 2 ^ 4 + g.nsail % 128 * 2 ^ 12 +
    g.lat % 256 * 2 ^ 19 + g.hist % 256 * 2 ^ 27 + (s.quantum g.die g.plane - 1) % 256 * 2 ^ 35 + g.inq.length % 64 * 2 ^ 43)

def execGqry (h : Hdr) (f : FmtG) (s : State) : Out :=
  .next (issueReg h false [sR f.va] (fun a =>
    let g := s.graphAt s.desc f.sl.toNat
    .ok (a.setS f.va.toNat
      (if f.fn == 0 then s.gquery s.desc f.sl.toNat else if g.loaded then BitVec.ofNat 64 g.recordSize else 0))) s)

end Sys2Proof.Machine
end

