-- ==== Sys2Proof/Machine/Reel.lean ====
section
/-! DEFINITION. Reels (16): program images (R311 to R316), chunk instructions (R317 to R324), the messages between
channels (R317, R319, R327, R329), and the four cell instructions (R330 to R334). -/

namespace Sys2Proof.Machine

open Sys2Proof

/-! ### Program images (R311 to R316) -/

/-- A field of a program image. -/
def rlField (bs : List Byte) (o n : Nat) : Nat := leNat ((bs.drop o).take n)

/-- A chunk record from its 32 bytes, and whether its reserved bytes are zero. -/
def Chunk.ofBytes (bs : List Byte) : Chunk × Bool :=
  ({ addr := BitVec.ofNat 64 (rlField bs 0 8), bytes := rlField bs 8 4, ety := BitVec.ofNat 8 (rlField bs 12 1),
     xfi := BitVec.ofNat 8 (rlField bs 13 1) }, rlField bs 14 18 == 0)

/-- An xf record from its 64 bytes, and whether its reserved byte is zero. -/
def XfRec.ofBytes (bs : List Byte) : XfRec × Bool :=
  let five (o : Nat) : List Nat := (upto 0 5).map (fun k => rlField bs (o + 4 * k) 4)
  ({ ndim := rlField bs 0 1, xcv := rlField bs 1 1, etr := rlField bs 2 1, n := five 4,
     ss := (five 24).map (signed 32), ds := (five 44).map (signed 32) }, rlField bs 3 1 == 0)

/-- The granule count G. -/
def XfRec.granules (x : XfRec) : Nat := (x.n.take x.ndim).foldl (· * ·) 1

/-- The limits of R314. -/
def XfRec.ok (x : XfRec) : Bool :=
  decide (1 ≤ x.ndim) && decide (x.ndim ≤ 5) && decide (x.xcv ≤ 2) && decide (x.etr ≤ 2) && (x.xcv == 0 || x.etr == 0) &&
    (upto 0 5).all (fun k => if k < x.ndim then decide (1 ≤ x.n.getD k 0) else x.n.getD k 0 == 0) &&
    x.ss.all (fun d => d % 16 == 0) && x.ds.all (fun d => d % (if x.xcv = 1 then 8 else 16) == 0) &&
    (x.etr != 1 || x.granules % 8 == 0) && (x.etr != 2 || x.granules % 4 == 0)

/-- The limits of R313, with the size an xf record asks for (R314). -/
def Chunk.ok (c : Chunk) (xfs : List XfRec) : Bool :=
  vaOk false c.addr.toNat && c.addr.toNat % 16 == 0 && decide (4096 ≤ c.bytes) && decide (c.bytes ≤ 4194304) &&
    c.bytes % 16 == 0 && [2, 6, 8, 255].contains c.ety.toNat &&
    (c.xfi == 0xFF || (match xfs[c.xfi.toNat]? with | some x => decide (c.bytes = 16 * x.granules) | none => false))

/-- A record that a reduction may name (R315). -/
def Chunk.reducible (c : Chunk) : Bool := c.ety != 0xFF && c.xfi == 0xFF

/-- The operand `post`. -/
def opPost : BitVec 12 := 0xFFF

/-- A chunk operand of an instruction in the tables of a program. -/
def caOk (chunks : List Chunk) (ca : BitVec 12) (red : Bool) : Bool :=
  ca == opPost || (match chunks[ca.toNat]? with | some c => !red || c.reducible | none => false)

/-- What R316 asks of instruction `i` of a program of `n` instructions. -/
def chunkInstrOk (i n nrank nxf : Nat) (chunks : List Chunk) : Instr → Bool
  | .reelNop _ => true
  | .reelEnd _ => true
  | .send w => caOk chunks w.ca false && decide (w.rk.toNat < nrank)
  | .recv w => caOk chunks w.ca false && decide (w.rk.toNat < nrank)
  | .rrc w => caOk chunks w.ca true && decide (w.rk.toNat < nrank) && decide (w.rk2.toNat < nrank) && w.rk != w.rk2
  | .red w => caOk chunks w.ca true && decide (w.rk.toNat < nrank)
  | .redany w => caOk chunks w.ca true && decide (w.rk.toNat + w.n.toNat ≤ nrank)
  | .ccpy w => caOk chunks w.ca false && caOk chunks w.cb false
  | .xf w => caOk chunks w.ca false && caOk chunks w.cb false && decide (w.n.toNat < nxf)
  | .lflag _ => true
  | .sig w => decide (w.k.toNat < nrank)
  | .cwait _ => true
  | .setc _ => true
  | .decb w => decide (0 ≤ (i : Int) + w.v.toInt) && decide ((i : Int) + w.v.toInt < n)
  | .seqb w => decide (w.k.toNat < nrank)
  | .mark _ => true
  | _ => false

/-- A program image, read. -/
structure Reel where
  prog   : List Word
  ranks  : List (BitVec 32)
  chunks : List Chunk
  xfs    : List XfRec
  deriving DecidableEq, Repr

/-- The header of an image (R311): counts and the offsets they give. -/
structure RHead where
  ninst  : Nat
  nrank  : Nat
  nchunk : Nat
  nxf    : Nat
  deriving DecidableEq, Repr

def RHead.ofBytes (bs : List Byte) : RHead :=
  { ninst := rlField bs 6 2, nrank := rlField bs 8 2, nchunk := rlField bs 10 2, nxf := rlField bs 12 2 }

def RHead.rankoff (h : RHead) : Nat := 64 + 8 * h.ninst
def RHead.chunkoff (h : RHead) : Nat := alignUp (h.rankoff + 4 * h.nrank) 8
def RHead.xfoff (h : RHead) : Nat := h.chunkoff + 32 * h.nchunk
def RHead.psize (h : RHead) : Nat := h.xfoff + 64 * h.nxf

/-- Everything R311 says of the header; the rank table of no entries has no offset that is not its place. -/
def RHead.ok (h : RHead) (bs : List Byte) : Bool :=
  rlField bs 0 4 == 0x4C454552 && rlField bs 4 2 == 1 && decide (1 ≤ h.ninst) && decide (h.ninst ≤ 4096) &&
    decide (h.nrank ≤ 256) && decide (h.nchunk ≤ 1024) && decide (h.nxf ≤ 64) && rlField bs 14 2 == 0 &&
    rlField bs 36 28 == 0 && rlField bs 16 4 == 64 && (h.nrank == 0 || rlField bs 20 4 == h.rankoff) &&
    rlField bs 24 4 == (if h.nchunk = 0 then 0 else h.chunkoff) && rlField bs 28 4 == (if h.nxf = 0 then 0 else h.xfoff) &&
    rlField bs 32 4 == h.psize

/-- Validates a whole image (R316): the program, or the index `pc` shows (0xFFF outside the instructions). -/
def reelOf (bs : List Byte) : Except Nat Reel :=
  let h := RHead.ofBytes bs
  if !h.ok bs || bs.length < h.psize then .error 0xFFF
  else
    let xfs := (upto 0 h.nxf).map (fun k => XfRec.ofBytes ((bs.drop (h.xfoff + 64 * k)).take 64))
    let chs := (upto 0 h.nchunk).map (fun k => Chunk.ofBytes ((bs.drop (h.chunkoff + 32 * k)).take 32))
    let ranks := (upto 0 h.nrank).map (fun k => BitVec.ofNat 32 (rlField bs (h.rankoff + 4 * k) 4))
    let prog := (upto 0 h.ninst).map (fun k => (BitVec.ofNat 64 (rlField bs (64 + 8 * k) 8) : Word))
    let xs := xfs.map (·.1)
    let cs := chs.map (·.1)
    if !xfs.all (fun p => p.2 && p.1.ok) || !chs.all (fun p => p.2 && p.1.ok xs) ||
        !ranks.all (fun r => r.extractLsb' 19 13 == 0 && decide ((r.extractLsb' 11 4).toNat ≤ 11)) ||
        rlField bs (h.rankoff + 4 * h.nrank) (h.chunkoff - h.rankoff - 4 * h.nrank) != 0 then .error 0xFFF
    else
      match (prog.zip (upto 0 h.ninst)).find? (fun p => match decodeChunk p.1 with
          | some i => !chunkInstrOk p.2 h.ninst h.nrank h.nxf cs i
          | none => true) with
      | some p => .error p.2
      | none =>
        match (prog.getLast?).bind decodeChunk with
        | some (.reelEnd _) => .ok ⟨prog, ranks, cs, xs⟩
        | _ => .error (h.ninst - 1)

/-! ### Granules (R314) -/

/-- The offset of granule `g` on a walk. -/
def walkOff (n : List Nat) (d : List Int) (g : Nat) : Int :=
  ((n.zip d).foldl (fun (q : Int × Nat) p =>
    let m := if p.1 = 0 then 1 else p.1
    (q.1 + ((q.2 % m : Nat) : Int) * p.2, q.2 / m)) ((0 : Int), g)).1

def XfRec.soff (x : XfRec) (g : Nat) : Int := walkOff x.n x.ss g
def XfRec.doff (x : XfRec) (g : Nat) : Int := walkOff x.n x.ds g

/-- The 16-byte granules of a run of bytes. -/
def granulesOf : Nat → List Byte → List (List Byte)
  | 0, _ => []
  | n + 1, bs => bs.take 16 :: granulesOf n (bs.drop 16)

/-- The blocks of `n × n` elements of `w` bytes transposed (R314). -/
def transpose (n w : Nat) (gs : List (List Byte)) : List (List Byte) :=
  (upto 0 gs.length).map (fun i =>
    let b := i / n * n
    let e := i % n
    (upto 0 n).flatMap (fun q => (((gs.getD (b + q) []).drop (w * e)).take w)))

/-- A granule as `xcv` makes it, with its flags. -/
def xcvGran (xcv : Nat) (g : List Byte) : List Byte × BitVec 6 :=
  if xcv = 1 then
    let rs := (splitN 32 4 (leNat g)).map (fun x => convTy 6 8 0 false 0 x)
    (rs.flatMap (fun r => leBytes 2 r.bits), rs.foldl (fun f r => f ||| r.fl) 0)
  else if xcv = 2 then
    let rs := (splitN 16 8 (leNat g)).map (fun x => convTy 8 6 0 false 0 x)
    (rs.flatMap (fun r => leBytes 4 r.bits), rs.foldl (fun f r => f ||| r.fl) 0)
  else (g, 0)

/-- Granule `g` of a re-laid stream. -/
def relay (x : Option XfRec) (data : List Byte) (g : Nat) : List Byte × BitVec 6 :=
  let gs := granulesOf (data.length / 16) data
  match x with
  | none => (gs.getD g [], 0)
  | some x => xcvGran x.xcv ((if x.etr = 1 then transpose 8 2 gs else if x.etr = 2 then transpose 4 4 gs else gs).getD g [])

/-- The combination of two granules of type `ety` (R320). -/
def combGran (rop ety : Nat) (loc inn : List Byte) : List Byte × BitVec 6 :=
  let w := tyWidth ety
  let rs := ((splitN w (128 / w) (leNat loc)).zip (splitN w (128 / w) (leNat inn))).map (fun p =>
    if ety = 2 then
      (⟨if rop = 0 then (p.1 + p.2) % 2 ^ w
        else wrapNat w (if rop = 1 then max (signed w p.1) (signed w p.2) else min (signed w p.1) (signed w p.2)), 0⟩ : FR)
    else if rop = 0 then (evAdd 0 (fdec ety p.1) (fdec ety p.2)).round ety 0 false 0
    else ⟨fminmax ety (rop == 1) p.1 p.2, 0⟩)
  (rs.flatMap (fun r => leBytes (w / 8) r.bits), rs.foldl (fun f r => f ||| r.fl) 0)

/-- The status flags of a set of flags: `nx`, `uf`, `of`, `nv`. -/
def rflOf (f : BitVec 6) : BitVec 4 := BitVec.ofBool (f.getLsbD 4) ++ f.extractLsb' 0 3

/-! ### Channels, ranks, messages -/

def State.ownMod (s : State) : Nat := s.board.accel.toNat

/-- Whom a rank entry names: module, reel, channel (R312). -/
def State.peerOf (s : State) (r : BitVec 32) : Nat × Nat × Nat :=
  (if r.getLsbD 10 then s.ownMod else (r.extractLsb' 0 10).toNat, (r.extractLsb' 11 4).toNat, (r.extractLsb' 15 4).toNat)

def State.peerAt (s : State) (c : Chan) (k : Nat) : Nat × Nat × Nat := s.peerOf (c.ranks.getD k 0)

/-- A module that messages reach: this one, or one with a peer behind a port that is up (R329). -/
def State.modUp (s : State) (m : Nat) : Bool := m == s.ownMod || (s.board.portUp.contains (portOfAccel m) && Config.peerAt m)

/-- Sends a message: into this module's own wires, onto a link, or, for a module that cannot be reached, to the portal, which has
refused it then (R329). -/
def State.sendMsg (s : State) (r ch : Nat) (p : Nat × Nat × Nat) (k : MsgKind) : State :=
  let m : Msg := { fromMod := s.ownMod, fromReel := r, fromChan := ch, toMod := p.1, toReel := p.2.1, toChan := p.2.2, kind := k }
  if p.1 == s.ownMod then { s with msgs := s.msgs ++ [m] }
  else if s.modUp p.1 then { s with outbox := s.outbox ++ [m] }
  else { s with refused := s.refused ++ [m] }

/-- The ranks an instruction names, and those it exchanges a chunk with. -/
def ranksNamed : Instr → List Nat
  | .send w => [w.rk.toNat]
  | .recv w => [w.rk.toNat]
  | .rrc w => [w.rk.toNat, w.rk2.toNat]
  | .red w => [w.rk.toNat]
  | .redany w => upto w.rk.toNat w.n.toNat
  | .sig w => [w.k.toNat]
  | .seqb w => [w.k.toNat]
  | _ => []

def ranksExchanged : Instr → List Nat
  | .sig _ => []
  | .seqb _ => []
  | i => ranksNamed i

/-- The ranks an instruction receives from. -/
def ranksReceived : Instr → List Nat
  | .send _ => []
  | .rrc w => [w.rk.toNat]
  | .sig _ => []
  | .seqb _ => []
  | i => ranksNamed i

/-- The current instruction of a channel. -/
def Chan.current (c : Chan) : Option Instr := (c.prog[c.pc]?).bind decodeChunk

/-- The codes of `ecode`. -/
def ecIMAGE : Nat := 1
def ecBUSY : Nat := 2
def ecFAULT : Nat := 3
def ecSEQ : Nat := 4
def ecPEER : Nat := 5
def ecDESC : Nat := 6
def ecLINK : Nat := 7
def ecSIZE : Nat := 8

/-- Completes the `rlgo` operations that wait for a channel's run (R332). -/
def State.endGos (s : State) (r ch : Nat) (failed : Bool) : State :=
  let c := s.chanAt r ch
  c.gos.foldl (fun s g => s.finishOp g.2 [] failed) (s.putChan r ch { c with gos := [] })

/-- A channel stops; with `tell` it sends aborts to the ranks its instruction names. -/
def State.chanHalt (s : State) (r ch ec : Nat) (tell : Bool) : State :=
  let c := s.chanAt r ch
  let ps := ((c.current.map ranksNamed).getD []).map (s.peerAt c)
  let s := s.putChan r ch { c with st := .stopped, ecode := ec, pcs := 0, prg := Prog.blank }
  let s := if tell then (ps.eraseDups.filter (fun p => s.modUp p.1)).foldl (fun s p => s.sendMsg r ch p .abort) s else s
  s.endGos r ch true

/-- A channel stops on an error (R327): every stop but PEER sends aborts to the ranks its instruction names. -/
def State.chanStop (s : State) (r ch ec : Nat) : State := s.chanHalt r ch ec (ec != ecPEER)

/-- A channel whose instruction has retired; a pause that waited for the end of its `send` falls now (R328). -/
def Chan.next (c : Chan) (pc : Nat) : Chan :=
  { c with pc := pc, prg := Prog.blank, st := if c.st == .running && c.pcs == 2 then .paused else c.st }

/-- The current instruction retires and `pc` becomes `pc`; a posted record it took leaves the queue with its token. -/
def State.chanNext (s : State) (r ch pc : Nat) (post : Bool) : State :=
  let c := s.chanAt r ch
  match c.posted with
  | (_, _, _, op) :: rest =>
    if post then (s.putChan r ch { c.next pc with posted := rest }).finishOp op [] false
    else s.putChan r ch (c.next pc)
  | [] => s.putChan r ch (c.next pc)

/-- A `send` in progress. -/
def Chan.sending (c : Chan) : Bool := c.prg.head && (match c.current with | some (.send _) => true | _ => false)

/-- A local copy in progress. -/
def Chan.copying (c : Chan) : Bool :=
  c.prg.done != 0 && (match c.current with | some (.ccpy _) => true | some (.xf _) => true | _ => false)

/-- An instruction that a pre-emption lets end first: a `send` in progress, and any other that has started and receives nothing
(R328). -/
def Chan.midway (c : Chan) : Bool := c.sending || c.copying

/-- What a chunk operand comes to. -/
inductive Operand where
  | chunk (c : Chunk)
  | empty
  | bad
  deriving DecidableEq, Repr

/-- A chunk operand: a record of the table, or the head of the posted queue under its checks (R324). -/
def Chan.operand (c : Chan) (ca : BitVec 12) (red : Bool) : Operand :=
  if ca = opPost then
    match c.posted with
    | [] => .empty
    | (k, clean, _, _) :: _ => if clean && k.ok c.xfs && (!red || k.reducible) then .chunk k else .bad
  else
    match c.chunks[ca.toNat]? with
    | some k => .chunk k
    | none => .empty

/-- The xf record a chunk names. -/
def Chan.xfOf (c : Chan) (k : Chunk) : Option XfRec := if k.xfi = 0xFF then none else c.xfs[k.xfi.toNat]?

/-! ### The acting channel's accesses (R325, R326) -/

/-- The channel that acts. -/
def State.chan (s : State) : Chan := s.chanAt s.curReel s.curChan
def State.putActing (s : State) (c : Chan) : State := s.putChan s.curReel s.curChan c
def State.stopActing (s : State) (ec : Nat) : State := s.chanStop s.curReel s.curChan ec

/-- On whose behalf a channel translates. -/
def Chan.who (c : Chan) : Who := ⟨c.bound.getD 0, false⟩

/-- What an access to a granule comes to. -/
inductive Gran where
  | bytes (bs : List Byte)
  | done (s : State)
  | held (s : State)
  deriving DecidableEq, Repr

/-- Translates a run of bytes for the acting channel, or the state in which it waits or has stopped. -/
def State.chanPas (s : State) (a : Int) (n : Nat) (write : Bool) : Except State (List Nat) :=
  if !(decide (0 ≤ a) && vaOk false a.toNat && vaOk false (a.toNat + n - 1)) then .error (s.stopActing ecFAULT)
  else
    match s.transAll (.reel s.curReel) s.chan.who write (upto a.toNat n) with
    | .ok pas => .ok pas
    | .error va => .error (s.askWalk (.reel s.curReel) s.chan.who va write .reel 0xFFFF 0 [.chan s.curReel s.curChan])

/-- What an access of the acting channel leaves: its TLB entries' use, and lines by its pages' `sc` (R159). -/
def State.chanKeep (s : State) (a : Int) (n : Nat) (write : Bool) : State :=
  match s.transEnts (.reel s.curReel) s.chan.who write (upto a.toNat n) with
  | .ok l => s.touchedHome (.reel s.curReel) write l
  | .error _ => s

/-- Reads a granule; a byte with an uncorrectable error stops the channel (R380). -/
def State.chanRead (s : State) (a : Int) : Except State (List Byte) :=
  match s.chanPas a 16 false with
  | .error t => .error t
  | .ok pas => if pas.any s.bad.contains then .error (s.stopActing ecFAULT) else .ok (pas.map (s.readByte Party.reel 0))

/-- Writes bytes. -/
def State.chanWrite (s : State) (a : Int) (bs : List Byte) : Except State State :=
  match s.chanPas a bs.length true with
  | .error t => .error t
  | .ok pas =>
    .ok ((s.chanKeep a bs.length true).writeAll Party.reel .reel (16 * s.curReel + s.curChan) s.chan.run.1 s.chan.run.2 s.chan.who.desc (pas.zip bs))

/-- Keeps flags of reductions and conversions in the status word. -/
def State.chanFlags (s : State) (f : BitVec 6) : State := s.putActing { s.chan with rfl := s.chan.rfl ||| rflOf f }

/-- An instruction of the acting channel: it stops with PEER when it names a rank whose abort is recorded (R327). The record stands from its
arrival to that stop, over an `rlgo` too, and is spent with it (assumption 111, DESIGN CHOICE). -/
def State.chanRun (s : State) (i : Instr) (body : State) : State :=
  let c := s.chan
  let ps := (ranksNamed i).map (s.peerAt c)
  if c.st != .running then s
  else if ps.any c.aborts.contains then
    (s.putActing { c with aborts := c.aborts.filter (fun p => !ps.contains p) }).stopActing ecPEER
  else body

/-- The acting channel's instruction retires. -/
def State.chanRetire (s : State) (post : Bool) : State := s.chanNext s.curReel s.curChan (s.chan.pc + 1) post

/-- Takes a chunk operand: waits for a posted record, stops with DESC. -/
def State.withChunk (s : State) (ca : BitVec 12) (red : Bool) (k : Chunk → State) : State :=
  match s.chan.operand ca red with
  | .chunk c => k c
  | .empty => s
  | .bad => s.stopActing ecDESC

/-! ### Sending (R317, R318) -/

/-- A clear-to-send held for a rank's next chunk. -/
def State.ctsHeld (s : State) (c : Chan) (rk : Nat) : Bool :=
  let p := s.peerAt c rk
  c.cts.contains (p.1, p.2.1, p.2.2, tget 0 c.tx rk)

/-- A granule in flight. -/
def isGranule : MsgKind → Bool
  | .gran _ => true
  | _ => false

/-- A fault holds a channel up (R326). -/
def Chan.faulted (c : Chan) : Bool := c.st == .paused && c.pcs == 1

/-- The link towards a peer takes the next granule of a chunk in progress (R326): towards another module while its port is up and
only so many granules are out of which no credit has come; inside the module while no fault holds the receiver up and it holds no
more granules than it can. A `send` that a pre-emption waits for it takes whole (R328). -/
def State.linkRoom (s : State) (rk : Nat) : Bool :=
  let c := s.chan
  let p := s.peerAt c rk
  if p.1 != s.ownMod then s.modUp p.1 && decide (c.prg.done - c.prg.taken ≤ Config.linkGranules)
  else !(s.chanAt p.2.1 p.2.2).faulted && (c.pcs == 2 ||
    decide ((s.msgs.filter (fun m => isGranule m.kind && m.fromMod == s.ownMod && m.fromReel == s.curReel && m.fromChan == s.curChan &&
      m.toMod == p.1 && m.toReel == p.2.1 && m.toChan == p.2.2)).length ≤ Config.linkGranules))

/-- The link takes the tail of a chunk of `n` granules: once its receiver has written them, so that a fault there finds the sender
inside its `send` (R326, R327). -/
def State.tailRoom (s : State) (rk n : Nat) : Bool :=
  let c := s.chan
  let p := s.peerAt c rk
  if p.1 != s.ownMod then s.modUp p.1 && decide (n ≤ c.prg.taken)
  else
    let y := s.chanAt p.2.1 p.2.2
    !y.faulted && (c.pcs == 2 ||
      y.prg.opened.any (fun e => s.peerAt y e.rank == (s.ownMod, s.curReel, s.curChan) && decide (n ≤ e.done)))

/-- Sends the header of a chunk to a rank: the clear-to-send is used. -/
def State.openChunk (s : State) (rk bytes : Nat) : State :=
  let c := s.chan
  let p := s.peerAt c rk
  let n := tget 0 c.tx rk
  let s := s.putActing { c with cts := c.cts.erase (p.1, p.2.1, p.2.2, n), prg := { c.prg with head := true } }
  s.sendMsg s.curReel s.curChan p (.chunk n bytes)

/-- Sends the next granule of a chunk. -/
def State.passGran (s : State) (rk : Nat) (bs : List Byte) : State :=
  let c := s.chan
  let s := s.putActing { c with prg := { c.prg with done := c.prg.done + 1, data := c.prg.data ++ bs } }
  s.sendMsg s.curReel s.curChan (s.peerAt c rk) (.gran bs)

/-- Sends the tail of a chunk: it enters the window, and `tx` advances. -/
def State.closeChunk (s : State) (rk : Nat) : State :=
  let c := s.chan
  let n := tget 0 c.tx rk
  let s := s.putActing { c with window := c.window ++ [(rk, n, c.prg.data)], tx := tset 0 c.tx rk (n + 1) }
  s.sendMsg s.curReel s.curChan (s.peerAt c rk) .tail

/-- Where granule `g` of a chunk is read. -/
def Chan.srcAddr (c : Chan) (k : Chunk) (g : Nat) : Int :=
  (k.addr.toNat : Int) + (match c.xfOf k with | some x => x.soff g | none => 16 * (g : Int))
def Chan.dstAddr (c : Chan) (k : Chunk) (g : Nat) : Int :=
  (k.addr.toNat : Int) + (match c.xfOf k with | some x => x.doff g | none => 16 * (g : Int))

def execSend (w : ChunkC) (s : State) : Out :=
  .next (s.chanRun (.send w) (s.withChunk w.ca false (fun k =>
    let c := s.chan
    let rk := w.rk.toNat
    if !c.prg.head then (if !s.ctsHeld c rk || 8 ≤ c.window.length then s else s.openChunk rk k.bytes)
    else if c.prg.done < k.bytes / 16 then
      if !s.linkRoom rk then s
      else (match s.chanRead (c.srcAddr k c.prg.done) with
       | .error t => t
       | .ok bs => (s.chanKeep (c.srcAddr k c.prg.done) 16 false).passGran rk bs)
    else if !s.tailRoom rk (k.bytes / 16) then s
    else (s.closeChunk rk).chanRetire (w.ca == opPost))))

/-! ### Receiving (R317 to R320) -/

/-- Sends the clear-to-send of the receiving instruction to its ranks. -/
def State.giveCts (s : State) (rks : List Nat) : State :=
  let c := s.chan
  let s := s.putActing { c with prg := { c.prg with cts := true } }
  rks.foldl (fun s k => s.sendMsg s.curReel s.curChan (s.peerAt c k) (.cts (tget 0 c.rx k))) s

/-- A chunk from a rank commits at its tail: `rx` advances and the acknowledgement goes out (R318). -/
def State.commitChunk (s : State) (rk : Nat) : State :=
  let c := s.chan
  let n := tget 0 c.rx rk
  let s := s.putActing { c with rx := tset 0 c.rx rk (n + 1),
                                prg := { c.prg with opened := c.prg.opened.filter (fun q => q.rank != rk), fin := c.prg.fin ++ [rk] } }
  s.sendMsg s.curReel s.curChan (s.peerAt c rk) (.ack n)

/-- The message of a rank has been written up to granule `done`. -/
def State.openedAt (s : State) (rk done : Nat) : State :=
  let c := s.chan
  s.putActing { c with prg := { c.prg with opened := c.prg.opened.map (fun q => if q.rank == rk then { q with done := done } else q) } }

/-- Granules that a record re-lays together. -/
def XfRec.block (x : XfRec) : Nat := if x.etr = 1 then 8 else if x.etr = 2 then 4 else 1

/-- Granules that a received chunk is written by. -/
def Chan.blockOf (c : Chan) (k : Chunk) : Nat := match c.xfOf k with | some x => x.block | none => 1

/-- Runs of bytes written in one step: every address is translated before any byte is written (R362). -/
def State.chanWrites (s : State) (ws : List (Int × List Byte)) : Except State State :=
  (ws.mapM (fun q => s.chanPas q.1 q.2.length true)).map (fun pas =>
    let s := ws.foldl (fun s q => s.chanKeep q.1 q.2.length true) s
    s.writeAll Party.reel .reel (16 * s.curReel + s.curChan) s.chan.run.1 s.chan.run.2 s.chan.who.desc (pas.flatten.zip (ws.flatMap (·.2))))

/-- Writes the next granule of a received stream, or the next block where the record transposes blocks. -/
def State.landGran (s : State) (k : Chunk) (e : RxMsg) : State :=
  let c := s.chan
  let n := c.blockOf k
  if e.data.length < 16 * (e.done + n) then s
  else
    let gs := (upto e.done n).map (fun g => (c.dstAddr k g, relay (c.xfOf k) e.data g))
    match s.chanWrites (gs.map (fun q => (q.1, q.2.1))) with
    | .error t => t
    | .ok t => (t.chanFlags (gs.foldl (fun f q => f ||| q.2.2) 0)).openedAt e.rank (e.done + n)

/-- Combines the next granule of a received stream into memory; `fwd` names the rank it is sent on to. -/
def State.combineGran (s : State) (k : Chunk) (rop : Nat) (e : RxMsg) (fwd : Option Nat) : State :=
  let a : Int := (k.addr.toNat : Int) + 16 * (e.done : Int)
  if e.data.length < 16 * (e.done + 1) then s
  else
    match s.chanRead a with
    | .error t => t
    | .ok loc =>
      let (bs, fl) := combGran rop k.ety.toNat loc ((e.data.drop (16 * e.done)).take 16)
      match s.chanWrite a bs with
      | .error t => t
      | .ok t =>
        let t := ((t.chanKeep a 16 false).chanFlags fl).openedAt e.rank (e.done + 1)
        match fwd with
        | some rk => t.passGran rk bs
        | none => t

def execRecv (w : ChunkC) (s : State) : Out :=
  .next (s.chanRun (.recv w) (s.withChunk w.ca false (fun k =>
    let c := s.chan
    let rk := w.rk.toNat
    if !c.prg.cts then s.giveCts [rk]
    else
      match c.prg.opened with
      | [] => s
      | e :: _ =>
        if e.bytes != k.bytes then s.stopActing ecSIZE
        else if e.done < k.bytes / 16 then s.landGran k e
        else if !e.tail then s
        else (s.commitChunk rk).chanRetire (w.ca == opPost))))

def execRed (w : ChunkC) (s : State) : Out :=
  .next (s.chanRun (.red w) (s.withChunk w.ca true (fun k =>
    let c := s.chan
    let rk := w.rk.toNat
    if !c.prg.cts then s.giveCts [rk]
    else
      match c.prg.opened with
      | [] => s
      | e :: _ =>
        if e.bytes != k.bytes then s.stopActing ecSIZE
        else if e.done < k.bytes / 16 then s.combineGran k w.rop.toNat e none
        else if !e.tail then s
        else (s.commitChunk rk).chanRetire (w.ca == opPost))))

def execRrc (w : ChunkC) (s : State) : Out :=
  .next (s.chanRun (.rrc w) (s.withChunk w.ca true (fun k =>
    let c := s.chan
    let rk := w.rk.toNat
    let rk2 := w.rk2.toNat
    if !c.prg.cts then (if !s.ctsHeld c rk2 || 8 ≤ c.window.length then s else s.giveCts [rk])
    else
      match c.prg.opened with
      | [] => s
      | e :: _ =>
        if e.bytes != k.bytes then s.stopActing ecSIZE
        else if !c.prg.head then s.openChunk rk2 k.bytes
        else if e.done < k.bytes / 16 then (if s.linkRoom rk2 then s.combineGran k w.rop.toNat e (some rk2) else s)
        else if !e.tail || !s.tailRoom rk2 (k.bytes / 16) then s
        else ((s.closeChunk rk2).commitChunk rk).chanRetire (w.ca == opPost))))

/-- A message of which a granule, the tail or a wrong size is to be taken. -/
def RxMsg.ripe (e : RxMsg) : Bool := e.tail || decide (16 * (e.done + 1) ≤ e.data.length)

/-- `redany` takes the granules of its messages in any order: a free choice. -/
def execRedany (w : ChunkC) (s : State) : Out :=
  .next (s.chanRun (.redany w) (s.withChunk w.ca true (fun k =>
    let c := s.chan
    let rks := upto w.rk.toNat w.n.toNat
    if !c.prg.cts then s.giveCts rks
    else if rks.length ≤ c.prg.fin.length then s.chanRetire (w.ca == opPost)
    else
      match c.prg.opened.filter (fun e => e.bytes != k.bytes || e.ripe) with
      | [] => s
      | q0 :: qs =>
        let (pick, s) := s.free 16
        let e := (q0 :: qs).getD (pick.toNat % (qs.length + 1)) q0
        if e.bytes != k.bytes then s.stopActing ecSIZE
        else if e.done < k.bytes / 16 then s.combineGran k w.rop.toNat e none
        else s.commitChunk e.rank)))

/-! ### Local copies (R322) -/

/-- Reads the next granule into the progress of the instruction. -/
def State.gather (s : State) (a : Int) : State :=
  match s.chanRead a with
  | .error t => t
  | .ok bs =>
    let c := s.chan
    (s.chanKeep a 16 false).putActing { c with prg := { c.prg with done := c.prg.done + 1, data := c.prg.data ++ bs } }

/-- Where granule `g` of a local copy is read and written, and the bytes written of it. -/
def copySrc (a : Nat) (x : Option XfRec) (g : Nat) : Int := (a : Int) + (match x with | some x => x.soff g | none => 16 * (g : Int))
def copyDst (a : Nat) (x : Option XfRec) (g : Nat) : Int := (a : Int) + (match x with | some x => x.doff g | none => 16 * (g : Int))
def copyLen (x : Option XfRec) : Int := match x.map XfRec.xcv with | some 1 => 8 | some 2 => 32 | _ => 16

/-- Some byte of a local copy of `n` granules is both read and written. -/
def copyLaps (a b : Nat) (x : Option XfRec) (n : Nat) : Bool :=
  (upto 0 n).any (fun g => (upto 0 n).any (fun h =>
    decide (copySrc a x g < copyDst b x h + copyLen x) && decide (copyDst b x h < copySrc a x g + 16)))

/-- Bytes with free values in their places: the destination of a copy that overlaps its source is unpredictable. -/
def State.blur (s : State) : List Byte → List Byte × State
  | [] => ([], s)
  | _ :: bs =>
    let (v, s) := s.free 8
    let (vs, s) := s.blur bs
    (v :: vs, s)

/-- A local copy: gathers granule by granule, then re-lays granule by granule. -/
def State.localCopy (s : State) (ka kb : Chunk) (x : Option XfRec) (post : Bool) : State :=
  let c := s.chan
  let n := ka.bytes / 16
  if c.prg.done < n then s.gather (copySrc ka.addr.toNat x c.prg.done)
  else if c.prg.done < 2 * n then
    let g := c.prg.done - n
    let a := copyDst kb.addr.toNat x g
    let (bs, fl) := relay x c.prg.data g
    let (bs, t) := if copyLaps ka.addr.toNat kb.addr.toNat x n then s.blur bs else (bs, s)
    match t.chanWrite a bs with
    | .error u => u
    | .ok u =>
      let u := u.chanFlags fl
      u.putActing { u.chan with prg := { u.chan.prg with done := c.prg.done + 1 } }
  else s.chanRetire post

def execCcpy (w : ChunkC) (s : State) : Out :=
  .next (s.chanRun (.ccpy w) (s.withChunk w.ca false (fun ka => s.withChunk w.cb false (fun kb =>
    if ka.bytes != kb.bytes then s.stopActing ecSIZE
    else s.localCopy ka kb none (w.ca == opPost || w.cb == opPost)))))

def execXf (w : ChunkC) (s : State) : Out :=
  .next (s.chanRun (.xf w) (s.withChunk w.ca false (fun ka => s.withChunk w.cb false (fun kb =>
    match s.chan.xfs[w.n.toNat]? with
    | none => s
    | some x =>
      if ka.bytes != 16 * x.granules then s.stopActing ecSIZE
      else s.localCopy ka kb (some x) (w.ca == opPost || w.cb == opPost)))))

/-! ### Flags, signals and control (R323, R324) -/

def execReelNop (w : ChunkC) (s : State) : Out := .next (s.chanRun (.reelNop w) (s.chanRetire false))

/-- `end` waits until the send window is empty; the run is over (R318). -/
def execReelEnd (w : ChunkC) (s : State) : Out :=
  .next (s.chanRun (.reelEnd w) (
    let c := s.chan
    if c.window.isEmpty then (s.putActing { c with st := .ended, prg := Prog.blank }).endGos s.curReel s.curChan false
    else s))

/-- The channel's earlier writes stand at level 3, where they were performed; the flag is written at its point of
coherence. -/
def execLflag (w : ChunkV) (s : State) : Out :=
  .next (s.chanRun (.lflag w) (
    let i := w.x.toNat
    let me := 16 * s.curReel + s.curChan
    if !s.bufs.all (fun b => b.path != .reel || b.que != me || decide (3 ≤ b.level)) then s
    else
      let v : Word := if w.md == 1 then s.flag i + w.v.setWidth 64 else w.v.setWidth 64
      (s.pokeNat (flagAddr i) 8 v.toNat).chanRetire false))

def execSig (w : ChunkV) (s : State) : Out :=
  .next (s.chanRun (.sig w) (
    (s.sendMsg s.curReel s.curChan (s.peerAt s.chan w.k.toNat) (.signal w.v)).chanRetire false))

def execCwait (w : ChunkV) (s : State) : Out :=
  .next (s.chanRun (.cwait w) (
    let c := s.chan
    if w.v.toNat ≤ c.sgc.toNat then (s.putActing { c with sgc := c.sgc - w.v }).chanRetire false else s))

def execSetc (w : ChunkV) (s : State) : Out :=
  .next (s.chanRun (.setc w) ((s.putActing { s.chan with c := tset 0 s.chan.c w.k.toNat w.v }).chanRetire false))

def execDecb (w : ChunkV) (s : State) : Out :=
  .next (s.chanRun (.decb w) (
    let c := s.chan
    let n := tget 0 c.c w.k.toNat - 1
    let s := s.putActing { c with c := tset 0 c.c w.k.toNat n }
    s.chanNext s.curReel s.curChan (if n == 0 then c.pc + 1 else ((c.pc : Int) + w.v.toInt).toNat) false))

def execSeqb (w : ChunkV) (s : State) : Out :=
  .next (s.chanRun (.seqb w) (
    let c := s.chan
    let k := w.k.toNat
    if c.window.any (fun q => q.1 == k) then s
    else (s.putActing { c with tx := tset 0 c.tx k w.v, rx := tset 0 c.rx k w.v }).chanRetire false))

def execMark (w : ChunkV) (s : State) : Out :=
  .next (s.chanRun (.mark w) ((s.putActing { s.chan with mark := w.v.setWidth 16 }).chanRetire false))

/-! ### Messages arriving (R317, R319, R324, R327) -/

/-- Two messages run from the same channel to the same channel. -/
def sameLane (a b : Msg) : Bool :=
  a.fromMod == b.fromMod && a.fromReel == b.fromReel && a.fromChan == b.fromChan && a.toReel == b.toReel &&
    a.toChan == b.toChan && a.toMod == b.toMod

/-- The message that arrives and the state without it: one in flight that no earlier one of its lane stands before, or one
from a peer module. -/
def State.arrival (s : State) (src : MsgSrc) : Option (Msg × State) :=
  match src with
  | .inflight k =>
    match s.msgs[k]? with
    | none => none
    | some m =>
      if m.toMod == s.ownMod && (s.msgs.take k).all (fun n => !sameLane n m) then
        some (m, { s with msgs := s.msgs.eraseIdx k })
      else none
  | .peer m => if m.toMod == s.ownMod && m.fromMod != s.ownMod then some (m, s) else none

def msgSender (m : Msg) : Nat × Nat × Nat := (m.fromMod, m.fromReel, m.fromChan)

/-- The rank entries of a channel that name a sender. -/
def State.ranksOf (s : State) (c : Chan) (p : Nat × Nat × Nat) : List Nat :=
  (upto 0 c.ranks.length).filter (fun k => s.peerAt c k == p)

/-- A clear-to-send is kept until the `send` that uses it. -/
def execClearToSendArrival (src : MsgSrc) (s : State) : Out :=
  .next (match s.arrival src with
    | none => s
    | some (m, t) =>
      match m.kind with
      | .cts n =>
        let c := s.chanAt m.toReel m.toChan
        if c.bound.isNone then s
        else t.putChan m.toReel m.toChan { c with cts := c.cts ++ [(m.fromMod, m.fromReel, m.fromChan, n)] }
      | _ => s)

/-- A channel has a run in progress. -/
def Chan.busy (c : Chan) : Bool := c.st == .running || c.st == .paused

/-- Granules of a message that a receiving instruction holds before it writes them: a block of R314. -/
def rxGranules : Nat := 8

/-- A duplicate is dropped, counted and acknowledged again (R319). -/
def State.duplicate (t : State) (c : Chan) (m : Msg) (n : BitVec 32) : State :=
  (t.putChan m.toReel m.toChan { c with dup := if c.dup == 0xFFFF then c.dup else c.dup + 1 }).sendMsg m.toReel m.toChan (msgSender m) (.ack n)

/-- The header of a chunk reaches a channel (R319): accepted, a duplicate, or a stop with SEQ; `s` where it has to wait. At a bound channel
a sender that is no rank of its program, such as one that a failed load left without any, can only send what an earlier program has
taken: a duplicate (assumption 112, DESIGN CHOICE). -/
def State.headArrives (s t : State) (m : Msg) (n : BitVec 32) (bytes : Nat) : State :=
  let r := m.toReel
  let ch := m.toChan
  let c := s.chanAt r ch
  let want := (c.current.map ranksReceived).getD []
  let ks := s.ranksOf c (msgSender m)
  match (ks.filter want.contains ++ ks).head? with
  | none => if c.bound.isNone then s else t.duplicate c m n
  | some k =>
    let d : Int := (n - tget 0 c.rx k).toInt
    if d < 0 then t.duplicate c m n
    else if 0 < d then (if c.busy then t.chanStop r ch ecSEQ else s)
    else if c.st == .running && c.prg.cts && want.contains k && !c.prg.opened.any (fun q => q.rank == k) && !c.prg.fin.contains k then
      t.putChan r ch { c with prg := { c.prg with opened := c.prg.opened ++ [⟨k, bytes, 0, [], false⟩] } }
    else s

/-- The rank that an instruction sends a chunk to. -/
def rankSent : Instr → Option Nat
  | .send w => some w.rk.toNat
  | .rrc w => some w.rk2.toNat
  | _ => none

/-- A credit reaches the channel that sends to its sender. -/
def State.creditArrives (s t : State) (m : Msg) (n : Nat) : State :=
  let c := s.chanAt m.toReel m.toChan
  match c.current.bind rankSent with
  | some k =>
    if c.busy && c.prg.head && s.peerAt c k == msgSender m then
      t.putChan m.toReel m.toChan { c with prg := { c.prg with taken := min (c.prg.taken + n) c.prg.done } }
    else t
  | none => t

/-- A granule or the tail reaches a channel: it joins the message its sender has open, waits while the channel takes none in, and is
dropped where the header was (R319). -/
def State.partArrives (s t : State) (m : Msg) (data : Option (List Byte)) : State :=
  let c := s.chanAt m.toReel m.toChan
  match c.prg.opened.find? (fun e => s.peerAt c e.rank == msgSender m && !e.tail) with
  | none => t
  | some e =>
    let put (e' : RxMsg) : State :=
      t.putChan m.toReel m.toChan { c with prg := { c.prg with opened := c.prg.opened.map (fun q => if q.rank == e.rank then e' else q) } }
    if c.st != .running then s
    else
      match data with
      | some bs =>
        if bs.length != 16 || e.bytes < e.data.length + 16 || e.done + rxGranules ≤ e.data.length / 16 then s
        else put { e with data := e.data ++ bs }
      | none => if e.data.length < e.bytes then s else put { e with tail := true }

def execChunkMessageArrival (src : MsgSrc) (s : State) : Out :=
  .next (match s.arrival src with
    | none => s
    | some (m, t) =>
      match m.kind with
      | .chunk n bytes => s.headArrives t m n bytes
      | .gran bs => s.partArrives t m (some bs)
      | .tail => s.partArrives t m none
      | .credit n => s.creditArrives t m n
      | _ => s)

def execAcknowledgementArrival (src : MsgSrc) (s : State) : Out :=
  .next (match s.arrival src with
    | none => s
    | some (m, t) =>
      match m.kind with
      | .ack n =>
        let c := s.chanAt m.toReel m.toChan
        let ks := s.ranksOf c (msgSender m)
        t.putChan m.toReel m.toChan { c with window := c.window.filter (fun q => !(ks.contains q.1 && q.2.1 == n)) }
      | _ => s)

/-- A signal counts once every earlier chunk of its sender has committed. -/
def execSignalArrival (src : MsgSrc) (s : State) : Out :=
  .next (match s.arrival src with
    | none => s
    | some (m, t) =>
      match m.kind with
      | .signal v =>
        let c := s.chanAt m.toReel m.toChan
        if c.bound.isNone || c.prg.opened.any (fun q => s.peerAt c q.rank == (msgSender m)) then s
        else t.putChan m.toReel m.toChan { c with sgc := c.sgc + v }
      | _ => s)

/-- An abort stops a channel whose current instruction exchanges with its sender; else it is recorded. -/
def execAbortArrival (src : MsgSrc) (s : State) : Out :=
  .next (match s.arrival src with
    | none => s
    | some (m, t) =>
      match m.kind with
      | .abort =>
        let c := s.chanAt m.toReel m.toChan
        if c.bound.isNone then s
        else if c.busy && ((c.current.map ranksExchanged).getD []).any (fun k =>
            s.peerAt c k == (msgSender m) && !c.prg.fin.contains k) then t.chanStop m.toReel m.toChan ecPEER
        else t.putChan m.toReel m.toChan { c with aborts := if c.aborts.contains (msgSender m) then c.aborts else c.aborts ++ [(msgSender m)] }
      | _ => s)

/-! ### Links (R329) -/

/-- The refused message named comes back: its channel stops with LINK; a refused abort is dropped. -/
def execLinkRefusal (s : State) : Out :=
  .next (match s.refused[s.unit]? with
    | none => s
    | some m =>
      let t := { s with refused := s.refused.eraseIdx s.unit }
      let c := s.chanAt m.fromReel m.fromChan
      if m.kind != .abort && (c.busy || c.st == .ended) then t.chanStop m.fromReel m.fromChan ecLINK else t)

/-- Every channel, by reel and number. -/
def allChans : List (Nat × Nat) := (upto 0 12).flatMap (fun r => (upto 0 16).map (fun c => (r, c)))

/-- A rank lies behind a port. -/
def State.behind (s : State) (c : Chan) (k port : Nat) : Bool :=
  let p := s.peerAt c k
  p.1 != s.ownMod && portOfAccel p.1 == port

/-- Whether an instruction reduces. -/
def reduces : Instr → Bool
  | .red _ => true
  | .rrc _ => true
  | .redany _ => true
  | _ => false

/-- A port resets after a failed retrain: chunks in progress through it are cut; a reduction that had applied part of one stops with
LINK, its abort sent before the port goes down. -/
def execPortReset (s : State) : Out :=
  let port := s.unit
  .next (
    if 16 ≤ port then s
    else
      let t := allChans.foldl (fun t rc =>
        let c := s.chanAt rc.1 rc.2
        let cut := c.prg.opened.filter (fun q => s.behind c q.rank port)
        let t := if (c.current.bind rankSent).any (fun k => s.behind c k port) then
          t.modChan rc.1 rc.2 (fun x => { x with prg := { x.prg with taken := 0 } }) else t
        if !c.busy || cut.isEmpty then t
        else if (c.current.map reduces).getD false && cut.any (fun q => q.done != 0) then t.chanStop rc.1 rc.2 ecLINK
        else t.modChan rc.1 rc.2 (fun x => { x with prg := { x.prg with
          opened := x.prg.opened.filter (fun q => !s.behind c q.rank port) } })) s
      { t with board := { t.board with portUp := t.board.portUp.filter (· != port) } })

/-- A chunk of a channel once more: its header of `bytes` bytes and the granules of `data`, with its tail where it is whole. -/
def State.sendAgain (s : State) (r ch : Nat) (p : Nat × Nat × Nat) (n : BitVec 32) (bytes : Nat) (data : List Byte) (whole : Bool) : State :=
  let t := (granulesOf (data.length / 16) data).foldl (fun t g => t.sendMsg r ch p (.gran g)) (s.sendMsg r ch p (.chunk n bytes))
  if whole then t.sendMsg r ch p .tail else t

/-- The byte count of the chunk that a channel's current instruction sends. -/
def Chan.sendBytes (c : Chan) : Nat :=
  match c.current with
  | some (.send w) => (match c.operand w.ca false with | .chunk k => k.bytes | _ => 0)
  | some (.rrc w) => (match c.operand w.ca true with | .chunk k => k.bytes | _ => 0)
  | _ => 0

/-- A port comes up again, unless bring-up found it down: every channel sends the chunks of its window behind the port again, then the
one it had in progress. -/
def execPortUpResend (s : State) : Out :=
  let port := s.unit
  .next (
    if 16 ≤ port || s.board.portUp.contains port || s.board.bootDown.contains port then s
    else
      let s1 := { s with board := { s.board with portUp := s.board.portUp ++ [port] } }
      allChans.foldl (fun t rc =>
        let c := s.chanAt rc.1 rc.2
        let t := (c.window.filter (fun q => s.behind c q.1 port)).foldl (fun t q =>
          t.sendAgain rc.1 rc.2 (s.peerAt c q.1) q.2.1 q.2.2.length q.2.2 true) t
        match c.current.bind rankSent with
        | some k =>
          if c.busy && c.prg.head && s.behind c k port then
            t.sendAgain rc.1 rc.2 (s.peerAt c k) (tget 0 c.tx k) c.sendBytes c.prg.data false
          else t
        | none => t) s1)

/-! ### The cell's four instructions (R330 to R334) -/

/-- Reel and channel of an instruction. -/
def rlOf (f : FmtE) : Nat := f.rl.toNat
def chOf (f : FmtE) : Nat := f.ch.toNat
def rlQue (f : FmtE) : Nat := 16 * f.rl.toNat + f.ch.toNat

def execRlload (h : Hdr) (f : FmtE) (s : State) : Out :=
  .next (issue h false [sR f.a] id (fun s =>
    tokGate s.app f.tv f.tok (
      let va := s.app.getS f.a.toNat
      if !vaOk s.area.priv va.toNat then .trap clsMemory 3 va
      else needCommit s (fun s =>
        .ok (s.push .reel (rlQue f) (tokOf f.tv f.tok) [] (.rlload (rlOf f) (chOf f) va))))) s)

def execRlgo (h : Hdr) (f : FmtE) (s : State) : Out :=
  .next (issue h false [] id (fun s =>
    tokGate s.app f.tv f.tok (needCommit s (fun s =>
      .ok (s.push .reel (rlQue f) (tokOf f.tv f.tok) [] (.rlgo (rlOf f) (chOf f)))))) s)

/-- `rlpost` reads its record at issue and waits while the posted queue is full. -/
def execRlpost (h : Hdr) (f : FmtE) (s : State) : Out :=
  .next (issue h false [vR f.a] id (fun s =>
    tokGate s.app f.tv f.tok (needCommit s (fun s =>
      let c := s.chanAt (rlOf f) (chOf f)
      if c.bound == some s.desc && 16 ≤ c.posted.length then .wait
      else .ok (s.push .reel (rlQue f) (tokOf f.tv f.tok) []
        (.rlpost (rlOf f) (chOf f) (leBytes 32 (s.app.getV f.a.toNat).bits.toNat)))))) s)

def execRlstat (h : Hdr) (f : FmtE) (s : State) : Out :=
  .next (issue h false [sR f.a] id (fun s =>
    tokGate s.app f.tv f.tok (
      .ok (s.push .reel (rlQue f) (tokOf f.tv f.tok) [sR f.a] (.rlstat f.a.toNat (rlOf f) (chOf f))))) s)

/-! ### Their performance in the channel -/

def chanStCode : ChanSt → Nat
  | .noProgram => 0
  | .loaded => 1
  | .running => 2
  | .paused => 3
  | .ended => 4
  | .stopped => 5

/-- The status word for a context, in its view (R334). -/
def Chan.status (c : Chan) (d : Nat) (priv : Bool) : Word :=
  let own := c.bound == some d
  let full := own || priv
  BitVec.ofNat 64 (chanStCode c.st + (if own then 8 else 0) +
    (if full then c.ecode % 16 * 2 ^ 4 + c.pc % 4096 * 2 ^ 8 + c.pcs % 4 * 2 ^ 20 + c.rfl.toNat * 2 ^ 22 +
      c.dup.toNat * 2 ^ 32 + c.mark.toNat * 2 ^ 48 else 0))

/-- A load fails: no program, IMAGE, and the failing index. -/
def State.reelFail (s : State) (r ch pc : Nat) : State :=
  s.modChan r ch (fun c => { c with st := .noProgram, ecode := ecIMAGE, pc := pc, prog := [], ranks := [], chunks := [], xfs := [] })

/-- The image at an address as far as its header tells, or the address that misses; bytes at addresses that break R146 are
no image. -/
def State.reelBytes (s : State) (r : Nat) (w : Who) (va : Nat) : Except Nat (List Byte × List (Nat × TlbEnt)) :=
  let rd (n : Nat) : Except Nat (List Byte × List (Nat × TlbEnt)) :=
    if !vaOk w.priv (va + n - 1) then .ok ([], [])
    else (s.transEnts (.reel r) w false (upto va n)).map (fun l => (l.map (fun q => s.readByte Party.reel 0 (paOf q)), l))
  match rd 64 with
  | .error x => .error x
  | .ok hd =>
    let h := RHead.ofBytes hd.1
    if h.ok hd.1 then rd h.psize else .ok hd

/-- What `rlload` does by its channel's state (R331): nothing on another context's, BUSY on one that runs or is paused, and `k` on the others. -/
def State.rlloadGate (s : State) (c : Nat) (op : PendOp) (r ch : Nat) (k : State) : State :=
  let x := s.chanAt r ch
  if x.bound.isSome && x.bound != some op.desc then s.opDone c op [] 0 0 false
  else if x.busy then (s.putChan r ch { x with ecode := ecBUSY }).opDone c op [] 0 0 false
  else k

/-- `rlload` is performed (R331); its reads keep lines by their pages' `sc` (R159). -/
def State.rlloadPerform (s : State) (c : Nat) (op : PendOp) (r ch : Nat) (va : Word) : State :=
  let x := s.chanAt r ch
  let d := op.desc
  let fin (s : State) : State := s.opDone c op [] 0 0 false
  s.rlloadGate c op r ch (
    let s := s.putChan r ch { x with bound := some d }
    if va.toNat % 64 != 0 then fin (s.reelFail r ch 0xFFF)
    else
      match s.reelBytes r ⟨d, op.priv⟩ va.toNat with
      | .error a => s.askWalk (.reel r) ⟨d, op.priv⟩ a false .reel 0xFFFF op.area [.cellOp c op.id]
      | .ok (bs, l) =>
        let s := s.touchedHome (.reel r) false l
        match reelOf bs with
        | .error pc => fin (s.reelFail r ch pc)
        | .ok p => fin (s.modChan r ch (fun x => { x with st := .loaded, prog := p.prog, ranks := p.ranks,
                                                          chunks := p.chunks, xfs := p.xfs, prg := Prog.blank })))

/-- `rlgo` is performed (R310, R332); recorded aborts stand (R327). One of a context that is about to be saved starts no channel that its
pre-emption has paused (R328). -/
def State.rlgoPerform (s : State) (c : Nat) (op : PendOp) (r ch : Nat) : State :=
  let x := s.chanAt r ch
  let wait (s : State) : State :=
    if op.tok.isSome then s.modChan r ch (fun x => { x with gos := x.gos ++ [(c, op.id)] }) else s.opDrop c op.id
  if x.bound != some op.desc || x.st == .noProgram then s.opDone c op [] 0 0 false
  else if x.busy then wait s
  else if s.quiet op.desc then s
  else
    let s := s.putChan r ch { x with
      st := .running, pc := 0, pcs := 0, rfl := 0, dup := 0, c := [], tx := [], rx := [], sgc := 0, posted := [], window := [],
      prg := Prog.blank, run := (c, op.id) }
    wait (x.posted.foldl (fun s q => s.finishOp q.2.2.2 [] true) s)

/-- `rlpost` is performed (R333). -/
def State.rlpostPerform (s : State) (c : Nat) (op : PendOp) (r ch : Nat) (rc : List Byte) : State :=
  let x := s.chanAt r ch
  if x.bound != some op.desc then (s.opDone c op [] 0 0 true).landed op.desc
  else if 16 ≤ x.posted.length then s
  else
    let (k, clean) := Chunk.ofBytes rc
    let s := (s.putChan r ch { x with posted := x.posted ++ [(k, clean, c, op.id)] }).landed op.desc
    if op.tok.isSome then s else s.opDrop c op.id

def State.rlstatPerform (s : State) (c : Nat) (op : PendOp) (dd r ch : Nat) : State :=
  s.opDone c op [.s dd ((s.chanAt r ch).status op.desc op.priv)] 0 0 false

/-- A `rlload` whose page fault the pager did not resolve, unless its channel has been started meanwhile. -/
def State.rlloadFault (s : State) (c : Nat) (op : PendOp) (r ch : Nat) : State :=
  s.rlloadGate c op r ch ((s.reelFail r ch 0xFFF).opDone c op [] 0 0 false)

end Sys2Proof.Machine
end

