-- ==== Sys2Proof/Machine/Privileged.lean ====
section
/-! DEFINITION. The pager's instructions (R348 to R353): `xwrp`, `tlbi`, `ptst`, `fltdone`, `asret`, and what the two
outcomes of a fault record do to its waiters (R344). -/

namespace Sys2Proof.Machine

open Sys2Proof

/-! ### `xwrp` (R349) -/

/-- `xwrp` commits its application before it writes. -/
def execXwrp (h : Hdr) (f : FmtI) (s : State) : Out :=
  .next (if s.app.cmt then issueReg h false [sR f.a] (fun a => .ok (a.spWrite (f.imm.toNat % 4096) (a.getS f.a.toNat))) s
    else issue h false [sR f.a] id (fun s => .stay (s.putApp { s.app with force := true })) s)

/-! ### Removing cached translations (R351, R353) -/

/-- A cached translation of an ASID and generation (every generation for none) that meets a range of addresses. -/
def TlbEnt.inRange (asid : Nat) (gen : Option Nat) (lo hi : Nat) (e : TlbEnt) : Bool :=
  e.asid == asid && (match gen with | some g => e.gen == g | none => true) && decide (e.va < hi) && decide (lo < e.va + e.size)

/-- A walk-cache entry that meets it. -/
def WalkEnt.inRange (asid : Nat) (gen : Option Nat) (lo hi : Nat) (e : WalkEnt) : Bool :=
  e.asid == asid && (match gen with | some g => e.gen == g | none => true) && decide (e.va < hi) &&
    decide (lo < e.va + (if e.level = 1 then 2 ^ 42 else 2 ^ 29))

/-- Empties the translation entries of an area's stream registers. -/
def Area.dropEnts (gone : TlbEnt → Bool) (a : Area) : Area :=
  let reg (x : StreamReg) : StreamReg := { x with ent := x.ent.filter (fun e => !gone e) }
  { a with apps := a.apps.map (fun p => (p.1, { p.2 with a := p.2.a.map (fun q => (q.1, reg q.2)) })) }

/-- A TLB without the entries that go. -/
def Tlb.without (t : Tlb) (gone : TlbEnt → Bool) : Tlb := { t with ents := t.ents.filter (fun e => !gone e.2) }

/-- A cell's operations without the translations that go. -/
def Cell.dropPages (gone : TlbEnt → Bool) (x : Cell) : Cell :=
  { x with pend := x.pend.map (fun o => { o with pages := o.pages.filter (fun e => !gone e) }) }

/-- Removes matching translations from stream registers, operations in flight, edge TLBs, reel TLBs and walk caches. -/
def State.dropTrans (s : State) (asid : Nat) (gen : Option Nat) (lo hi : Nat) : State :=
  let t := TlbEnt.inRange asid gen lo hi
  let w := WalkEnt.inRange asid gen lo hi
  { s with
    areas := s.areas.map (fun p => (p.1, p.2.dropEnts t))
    cells := s.cells.map (fun p => (p.1, p.2.dropPages t))
    ctxs := s.ctxs.map (fun p => (p.1, { p.2 with
      saved := p.2.saved.map (fun q => (q.1, q.2.dropPages t))
      savedA := p.2.savedA.map (fun x => { x with area := x.area.dropEnts t }) }))
    bays := s.bays.map (fun p => (p.1, { p.2 with tlb := p.2.tlb.without t }))
    reelTlb := s.reelTlb.map (fun p => (p.1, p.2.without t))
    walkC := s.walkC.map (fun p => (p.1, p.2.filter (fun e => !w e))) }

/-- `tlbi` reads `x.TASID` as it issues and is queued on PORTAL. -/
def State.tlbiIssue (s : State) (f : FmtA) (lo hi : Nat) : Res :=
  tokGate s.app f.tv f.tok (needCommit s (fun s =>
    let t := s.app.tasid
    .ok (s.push .portal 2 (tokOf f.tv f.tok) [] (.tlbi lo hi (t.toNat % 1024) (t.toNat / 1024 % 16)))))

def execTlbiPage (h : Hdr) (f : FmtA) (s : State) : Out :=
  .next (issue h false [sR f.a] id (fun s =>
    let lo := (s.app.getS f.a.toNat).toNat / 65536 * 65536
    s.tlbiIssue f lo (lo + 65536)) s)

def execTlbiRange (h : Hdr) (f : FmtA) (s : State) : Out :=
  .next (issue h false [sR f.a, sR f.b] id (fun s =>
    let lo := (s.app.getS f.a.toNat).toNat
    s.tlbiIssue f lo (lo + (s.app.getS f.b.toNat).toNat)) s)

def execTlbiAsid (h : Hdr) (f : FmtA) (s : State) : Out :=
  .next (issue h false [] id (fun s => s.tlbiIssue f 0 (2 ^ 64)) s)

/-- `tlbi` is performed once every earlier `ptst` of its cell is. -/
def State.tlbiPerform (s : State) (c : Nat) (op : PendOp) (lo hi asid gen : Nat) : State :=
  let early (o : PendOp) : Bool := decide (o.id < op.id) && (match o.kind with | .ptst _ _ => true | _ => false)
  if (s.cellAt c).pend.any early then s
  else (s.dropTrans asid (some gen) lo hi).opDone c op [] 0 0 false

/-! ### `ptst` (R350) -/

def execPtst (h : Hdr) (f : FmtA) (s : State) : Out :=
  .next (issue h false [sR f.a, sR f.b] id (fun s =>
    let pa := s.app.getS f.a.toNat
    tokGate s.app f.tv f.tok (
      if pa.toNat % 8 != 0 || Config.hbmEnd ≤ pa.toNat then .trap clsMemory 3 pa
      else needCommit s (fun s =>
        .ok (s.push .portal 1 (tokOf f.tv f.tok) [] (.ptst pa.toNat (s.app.getS f.b.toNat)))))) s)

/-- `ptst` is performed at the point of coherence, an effect that lands with it (R350, R364). -/
def State.ptstPerform (s : State) (c : Nat) (op : PendOp) (pa : Nat) (v : Word) : State :=
  ((s.pokeNat pa 8 v.toNat).opDone c op [] 0 0 false).landed op.desc

/-! ### `asret` (R353) -/

def execAsret (h : Hdr) (f : FmtA) (s : State) : Out :=
  .next (issue h false [] id (fun s =>
    let d := s.app.ctxsel.toNat
    tokGate s.app f.tv f.tok (
      if (s.descAt d).live then .trap clsSystem 1 0
      else needCommit s (fun s => .ok (s.push .portal 3 (tokOf f.tv f.tok) [] (.asret d))))) s)

/-- `asret` is performed: translations of every generation go, then the binding. -/
def State.asretPerform (s : State) (c : Nat) (op : PendOp) (d : Nat) : State :=
  let b := (s.descAt d).basid
  let s := if b == 0xFFFF then s
    else (s.dropTrans b.toNat none 0 (2 ^ 64)).modDesc d (fun x => { x with basid := 0xFFFF })
  s.opDone c op [] 0 0 false

/-! ### `fltdone` (R344, R352) -/

/-- An operation that waits for the pager goes on, in the row or in a saved context. -/
def State.unpauseOp (s : State) (id : Nat) : State :=
  let f (x : Cell) : Cell := { x with pend := x.pend.map (fun o => if o.id == id then { o with paused := false } else o) }
  match s.cellOfOp id with
  | some c => s.modCell c f
  | none => { s with ctxs := s.ctxs.map (fun p => (p.1, { p.2 with saved := p.2.saved.map (fun q => (q.1, f q.2)) })) }

/-- Cells that stalled at issue on a fault go on; the quiet cycles of R139 begin anew. -/
def Area.unstall (q cyc : Nat) (a : Area) : Area :=
  { a with
    moved := if a.apps.any (fun p => p.2.fault == some q) then cyc else a.moved
    apps := a.apps.map (fun p => (p.1, if p.2.fault == some q then { p.2 with fault := none } else p.2)) }

def State.unstall (s : State) (q : Nat) : State :=
  { s with
    areas := s.areas.map (fun p => (p.1, p.2.unstall q s.cyc))
    ctxs := s.ctxs.map (fun p => (p.1, { p.2 with savedA := p.2.savedA.map (fun x => { x with area := x.area.unstall q s.cyc }) })) }

/-- The trap of an application whose fault the pager did not resolve (R336, class 15). -/
def unresolved (e : FaultEnt) (pc : Nat) (word : Word) : TrapInfo :=
  { cls := clsUnresolved, sub := e.kind, pc := pc, word := word, info := BitVec.ofNat 64 e.va, fseq := some e.fseq }

/-- Class 15 in cell `c` of an area, on the instruction with this index and word (R336, R338). -/
def Area.failAt (e : FaultEnt) (c pc : Nat) (w : Word) (a : Area) : Area :=
  let app := a.appAt c
  match app.trap with
  | some _ => a
  | none => a.putApp c { app with trap := some (unresolved e pc w), fault := none }

/-- The same on the instruction at which cell `c` stalls; its microprogram stands in cell `x`. -/
def Area.failApp (e : FaultEnt) (c : Nat) (x : Cell) (a : Area) : Area :=
  let app := a.appAt c
  a.failAt e c app.pc (match a.tagIn x with | some t => t.code.getD app.pc 0 | none => 0)

/-- Every committed application that stalled at issue on entry `q` takes class 15. -/
def State.failStalls (s : State) (q : Nat) (e : FaultEnt) : State :=
  let cells (a : Area) : List Nat := a.cells.filter (fun c => (a.appAt c).fault == some q)
  let s1 : State := { s with areas := s.areas.map (fun p => (p.1, (cells p.2).foldl (fun a c => a.failApp e c (s.cellAt c)) p.2)) }
  { s1 with ctxs := s1.ctxs.map (fun p => (p.1, { p.2 with savedA := p.2.savedA.map (fun x =>
      { x with area := (cells x.area).foldl (fun a c =>
          a.failApp e c (((p.2.saved.find? (fun y => y.1 == c)).map (·.2)).getD Cell.blank)) x.area }) })) }

/-- An operation of the row whose fault stays unresolved (R344). -/
def State.failOp (s : State) (e : FaultEnt) (c : Nat) (o : PendOp) : State :=
  match o.kind with
  | .copy p scp pol g _ fl =>
    let s := s.opPut c { o with paused := false, kind := .copy p scp pol { g with left := [], got := [] } 4 fl }
    s.copyUpd c o p g .fail
  | .gld _ _ _ _ _ => s.fabFault c o
  | .gstr _ _ _ _ _ _ => s.fabFault c o
  | .gfrz _ _ _ => s.fabFault c o
  | .gthaw _ _ _ => s.fabFault c o
  | .rlload r ch _ => s.rlloadFault c o r ch
  | k =>
    let s := if k.counted then s.landed o.desc else s
    if o.det.isSome then s.opDone c o [] 0 0 true
    else (s.opDrop c o.id).modArea o.area (fun a => a.failAt e c o.pc o.word)

/-- The contexts that are out and hold an operation keep its failure until they are back (R344, R359). -/
def State.failSaved (s : State) (e : FaultEnt) (id : Nat) : State :=
  { s with ctxs := s.ctxs.map (fun p => (p.1,
      if p.2.saved.any (fun q => q.2.pend.any (fun o => o.id == id)) then { p.2 with failed := p.2.failed ++ [(id, e)] }
      else p.2)) }

/-- The operations of a context that is back fail as they would have in the row. -/
def State.failKept (s : State) (d : Nat) : State :=
  let l := (s.ctxAt d).failed
  l.foldl (fun s f =>
    match s.cellOfOp f.1 with
    | none => s
    | some c =>
      match s.opAt c f.1 with
      | none => s
      | some o => s.failOp f.2 c o) (s.modCtx d (fun c => { c with failed := [] }))

/-- One waiter of a completed entry. -/
def State.releaseWaiter (s : State) (ok : Bool) (e : FaultEnt) (w : Waiter) : State :=
  match w with
  | .cellOp _ id =>
    if ok then s.unpauseOp id
    else
      (match s.cellOfOp id with
       | some c => (match s.opAt c id with | some o => s.failOp e c o | none => s)
       | none => s.failSaved e id)
  | .voided d tid _ => s.modCtx d (fun c => c.post { flag := false, id := tid, exp := 0, sym := tokSym (!ok) })
  | .voiding _ _ => s
  | .chan r ch =>
    if ok then
      s.modChan r ch (fun x =>
        if x.st == .paused && x.pcs == 1 then
          (match (s.ctxAt (x.bound.getD 0)).pre with
           | .none => { x with st := .running, pcs := 0 }
           | .requested _ _ _ _ => { x with st := .running, pcs := 0 }
           | _ => if x.midway then { x with st := .running, pcs := 2 } else { x with pcs := 2 })
        else x)
    else if (s.chanAt r ch).busy then s.chanStop r ch ecFAULT else s
  | .hubLaunch n => if ok then s else s.modQueue n (fun x => { x with ifail := true })
  | .hubCtx d => if ok then s else s.modCtx d (fun c => { c with rfault := true })
  | .graph d h => if ok then s else s.modGraph d h (fun g => { g with lost := true })

/-- Applications that entry `q` voids and whose roots have not taken the fault yet take it now. -/
def State.settleVoids (s : State) (q : Nat) : State :=
  (s.faultAt q).who.foldl (fun s w =>
    match w with
    | .voiding i c =>
      let t := s.rootTakes i
      if (t.faultAt q).who.contains (.voiding i c) then t.voidFor i c q else t
    | _ => s) s

/-- `fltdone.ok` and `fltdone.fail`: the waiters are released and the entry is free. -/
def State.faultDone (s : State) (q : Nat) (ok : Bool) : State :=
  let s := s.settleVoids q
  let e := s.faultAt q
  let s := e.who.foldl (fun s w => s.releaseWaiter ok e w) s
  let s := if ok then s.unstall q else s.failStalls q e
  s.putFault q FaultEnt.blank

/-- What the three forms of `fltdone` share: RECORD for a free entry, commit, the effect. -/
def State.fltdone (s : State) (f : FmtA) (k : State → Nat → State) : Res :=
  let a := s.app.getS f.a.toNat
  let q := a.toNat % 4096
  if a.toNat / 4096 != 0 || !(s.faultAt q).live then .trap clsSystem 4 0
  else needCommit s (fun s => .ok (k s q))

def execFltdoneOk (h : Hdr) (f : FmtA) (s : State) : Out :=
  .next (issue h false [sR f.a] id (fun s => s.fltdone f (fun s q => s.faultDone q true)) s)

def execFltdoneFail (h : Hdr) (f : FmtA) (s : State) : Out :=
  .next (issue h false [sR f.a] id (fun s => s.fltdone f (fun s q => s.faultDone q false)) s)

def execFltdoneIrq (h : Hdr) (f : FmtA) (s : State) : Out :=
  .next (issue h false [sR f.a, sR f.b] id (fun s => s.fltdone f (fun s _ =>
    let b := s.app.getS f.b.toNat
    s.raiseVec (if b.getLsbD 16 then .B else .A) (b.toNat % 2048))) s)

end Sys2Proof.Machine
end

