-- ==== Sys2Proof/Machine/Expr.lean ====
section
/-! DEFINITION. The expression of a context (R9 to R17, R23, R26, R33): its symbols in row order, elements, innermost
applications, awaits, and the classes of R77. -/

namespace Sys2Proof.Machine

open Sys2Proof

/-! ### Where a context's symbols lie (R71) -/

def Ctx.firstCell (c : Ctx) : Nat := Config.strandCells * c.start
def Ctx.endCell (c : Ctx) : Nat := Config.strandCells * (c.start + c.len)

/-- The context holds a span (R356: a pre-empted one does not). -/
def Ctx.inRow (c : Ctx) : Bool :=
  c.live && (match c.pre with | .out _ => false | .resuming _ => false | _ => true)

def Ctx.hasCell (c : Ctx) (x : Nat) : Bool := c.inRow && decide (c.firstCell ≤ x) && decide (x < c.endCell)

/-- The bays a span meets. -/
def Ctx.bays (c : Ctx) : List Nat :=
  if c.inRow && c.len != 0 then upto (c.firstCell / 512) ((c.endCell - 1) / 512 + 1 - c.firstCell / 512) else []

/-- The context whose span a cell lies in. -/
def State.ctxOfCell (s : State) (x : Nat) : Option Nat := (s.ctxs.find? (fun p => p.2.hasCell x)).map (·.1)

/-- The contexts with cells in some bay of a list, in order of descriptor. -/
def State.ctxsIn (s : State) (bs : List Nat) : List Nat :=
  (s.ctxs.filter (fun p => p.2.bays.any bs.contains)).map (·.1)

/-- A bay has reason to start P (R75). -/
def State.bayDue (s : State) (b : Nat) : Bool :=
  (s.bayAt b).due || s.ctxs.any (fun p => p.2.bays.contains b && !p.2.compl.isEmpty && !p.2.told.contains b)

/-- The symbols a cell holds. -/
def Cell.symsAt (x : Cell) (c : Nat) : List SymAt := (x.slots.zip (upto 0 x.slots.length)).map (fun q => ⟨c, q.2, q.1⟩)

/-- The expression of a context: its symbols in row order. -/
def State.exprOf (s : State) (d : Nat) : List SymAt :=
  let c := s.ctxAt d
  (s.cells.filter (fun p => c.hasCell p.1)).flatMap (fun p => p.2.symsAt p.1)

/-! ### Elements (R13) -/

/-- The elements that follow one another in a list of words: place and length of each, up to a closer or the end. -/
def elemsGo : Nat → Nat → List Word → List (Nat × Nat)
  | 0, _, _ => []
  | _, _, [] => []
  | fuel + 1, p, w :: ws =>
    if isCloser w then []
    else
      let n := elemLen 0 (w :: ws)
      (p, n) :: elemsGo fuel (p + n) ((w :: ws).drop n)

/-- The elements inside the brackets of an element. -/
def elemsIn (ws : List Word) : List (Nat × Nat) := elemsGo ws.length 1 (ws.drop 1)

/-- The words of a part. -/
def part (ws : List Word) (q : Nat × Nat) : List Word := (ws.drop q.1).take q.2

/-- The words of each element inside the brackets. -/
def elemWords (ws : List Word) : List (List Word) := (elemsIn ws).map (part ws)

/-- Some word outside every held application passes a test. -/
def anyOut (t : Word → Bool) : Nat → List Word → Bool
  | 0, _ => false
  | _, [] => false
  | fuel + 1, w :: ws =>
    if isHeld w then anyOut t fuel ((w :: ws).drop (elemLen 0 (w :: ws))) else t w || anyOut t fuel ws

/-- The leftmost `ERROR` outside every held application (R17). -/
def firstError : Nat → List Word → Option Word
  | 0, _ => none
  | _, [] => none
  | fuel + 1, w :: ws =>
    if isHeld w then firstError fuel ((w :: ws).drop (elemLen 0 (w :: ws)))
    else if symTag w = tagERROR then some w
    else firstError fuel ws

/-- A `TOKEN` or `SPILL`. -/
def pendingSym (w : Word) : Bool := symTag w == tagTOKEN || symTag w == tagSPILL

/-! ### Operator ids (R23, R25) -/

def opAwait : Nat := 0x0E
def opRestore : Nat := 0x0F
def opTrapop : Nat := 0x10
def opPage : Nat := 0x11
def opAbort : Nat := 0x12

def isForm (id : Nat) : Bool := decide (8 ≤ id) && decide (id ≤ 13)
def isOper (w : Word) : Bool := symTag w == tagOPER

/-- A form (R15, R25): a sequence of a form operator and as many elements as it takes, its function elements operators
or forms. -/
def formOk : Nat → List Word → Bool
  | 0, _ => false
  | fuel + 1, ws =>
    match ws, elemWords ws with
    | w :: _, [o] :: fs =>
      let fn (e : List Word) : Bool := match e with | [x] => isOper x | _ => formOk fuel e
      symTag w == tagSEQ && isOper o &&
        (match operId o with
         | 8 => fs.length == 1 && fs.all fn
         | 9 => fs.length == 1 && fs.all fn
         | 10 => decide (1 ≤ fs.length) && fs.all fn
         | 11 => fs.all fn
         | 12 => (fs.length == 2 || fs.length == 3) && fs.all fn
         | 13 => fs.length == 1
         | _ => false)
    | _, _ => false

/-- The `OPER` that names what an operator position runs: itself, or the form operator of a form; none when it is bad. -/
def operatorOf (e : List Word) : Option Word :=
  match e with
  | [w] => if isOper w && !isForm (operId w) then some w else none
  | _ => if formOk e.length e then e[1]? else none

/-! ### Awaits (R26) -/

/-- A symbol of a guard: pending, or what a completion has made of it. -/
def guardSym (w : Word) : Bool :=
  symTag w == tagTOKEN || symTag w == tagFLAG || symTag w == tagNIL || symTag w == tagERROR

/-- An application of `await` whose parameter is 0; one with another parameter and a well-formed operand is an area of class 0
that R24 rewrites to `err.BADOP`. -/
def isAwait (app : List Word) : Bool :=
  match elemWords app with
  | [o] :: _ => isOper o && operId o == opAwait && operParm o == 0
  | _ => false

/-- The guard symbols and the body of a well-formed await, as places among its words. -/
structure Await where
  guard : List Nat
  body  : Nat × Nat
  deriving DecidableEq, Repr

/-- The guard and body of an application whose operand has an await's form, whatever its operator. -/
def awaitForm (app : List Word) : Option Await :=
  match elemsIn app with
  | [(1, 1), x] =>
    let opd := part app x
    let ws (p : Nat) : Word := app.getD p 0
    if symTag (opd.getD 0 0) != tagSEQ then none
    else
      match elemsIn opd with
      | [g, b] =>
        let body := (x.1 + b.1, b.2)
        let p := x.1 + g.1
        if g.2 = 1 then (if guardSym (ws p) then some ⟨[p], body⟩ else none)
        else if symTag (ws p) = tagSEQ then
          let gs := (elemsIn (part opd g)).map (fun e => (p + e.1, e.2))
          if decide (1 ≤ gs.length) && decide (gs.length ≤ 8) && gs.all (fun e => e.2 == 1 && guardSym (ws e.1)) then
            some ⟨gs.map (·.1), body⟩
          else none
        else none
      | _ => none
  | _ => none

def awaitOf (app : List Word) : Option Await := if isAwait app then awaitForm app else none

/-- The guard holds a `TOKEN`, or a `FLAG` not reached yet. -/
def Await.pending (a : Await) (app : List Word) : Bool :=
  a.guard.any (fun p => symTag (app.getD p 0) == tagTOKEN || symTag (app.getD p 0) == tagFLAG)

/-- The leftmost `ERROR` of the guard. -/
def Await.failed (a : Await) (app : List Word) : Option Word :=
  (a.guard.map (fun p => app.getD p 0)).find? (fun w => symTag w == tagERROR)

def pendingAwait (app : List Word) : Bool :=
  match awaitOf app with
  | some a => a.pending app
  | none => false

/-! ### Innermost applications (R14, R16) -/

/-- The words after the first element of an application, its closer left out: its operand, where it has two elements. -/
def afterFirst (app : List Word) : List Word :=
  match elemsIn app with
  | [] => []
  | (p, n) :: _ => (app.drop (p + n)).dropLast

/-- A `restore` of the storage manager, whose operand is a `SPILL` (R28). -/
def isRestore (app : List Word) : Bool :=
  match elemWords app with
  | [[o], [x]] => isOper o && operId o == opRestore && operSys o && symTag x == tagSPILL
  | _ => false

/-- What R14 asks of an application's own words: no live application in it, nothing pending in its operand, no await that
the tree itself handles; and no stub of a spill anywhere in it (R90), but for that of a `restore`. -/
def innermostApp (app : List Word) : Bool :=
  !anyOut isLiveOpen app.length (app.drop 1) && (awaitOf app).isNone &&
    (isRestore app || !((afterFirst app).any pendingSym || app.any (fun w => symTag w == tagSPILL)))

/-- The innermost applications of a list of words: place and length, in order. -/
def innermostGo : Nat → Nat → List Word → List (Nat × Nat)
  | 0, _, _ => []
  | _, _, [] => []
  | fuel + 1, p, w :: ws =>
    let n := elemLen 0 (w :: ws)
    if isHeld w then innermostGo fuel (p + n) ((w :: ws).drop n)
    else if isLiveOpen w then
      let app := (w :: ws).take n
      if pendingAwait app then innermostGo fuel (p + n) ((w :: ws).drop n)
      else if innermostApp app then (p, n) :: innermostGo fuel (p + 1) ws
      else innermostGo fuel (p + 1) ws
    else innermostGo fuel (p + 1) ws

def innermost (ws : List Word) : List (Nat × Nat) := innermostGo (ws.length + 1) 0 ws

/-- The well-formed awaits outside held applications: place and length, in order. -/
def awaitsGo : Nat → Nat → List Word → List (Nat × Nat)
  | 0, _, _ => []
  | _, _, [] => []
  | fuel + 1, p, w :: ws =>
    let n := elemLen 0 (w :: ws)
    if isHeld w then awaitsGo fuel (p + n) ((w :: ws).drop n)
    else if isLiveOpen w && (awaitOf ((w :: ws).take n)).isSome then (p, n) :: awaitsGo fuel (p + 1) ws
    else awaitsGo fuel (p + 1) ws

def awaits (ws : List Word) : List (Nat × Nat) := awaitsGo (ws.length + 1) 0 ws

/-- The awaits that are no longer pending. -/
def releasable (ws : List Word) : List (Nat × Nat) := (awaits ws).filter (fun q => !pendingAwait (part ws q))

/-- The places of the symbols that stand in the guard of a pending await. -/
def guardPlaces (ws : List Word) : List Nat :=
  (awaits ws).flatMap (fun q => match awaitOf (part ws q) with
    | some a => if a.pending (part ws q) then a.guard.map (· + q.1) else []
    | none => [])

/-- Normal form (R33). -/
def normalForm (ws : List Word) : Bool := !anyOut isLiveOpen (ws.length + 1) ws && !ws.any pendingSym

/-- The integrity checks of R12. -/
def integral (ws : List Word) : Bool := !ws.any malformed && bracketed [] ws

/-! ### Operators of an image (R43) and classes (R77) -/

/-- The record of an operator in the context's image; of two records with one id the first counts (R41; assumption 112, DESIGN CHOICE). -/
def State.opRec (s : State) (d id : Nat) : Option OpRec := ((s.ctxAt d).image.bind (fun im => im.ops.find? (fun o => o.id == id)))

/-- The operators that accept errors: four of the system's, and those of the image that say so (R17). -/
def State.errAccepting (s : State) (d id : Nat) : Bool :=
  id == 0 || id == 0x0D || id == opTrapop || id == opAbort || (decide (0x1000 ≤ id) && (match s.opRec d id with | some o => o.erracc | none => false))

/-- The class of an innermost application of context `d`, with the symbol that a class other than 0 leaves. -/
def State.classOf (s : State) (d : Nat) (app : List Word) : Nat × Word :=
  match elemWords app with
  | [f, x] =>
    match operatorOf f with
    | none => (2, symError errBADOP 0)
    | some o =>
      let id := operId o
      if 0x13 ≤ id && id ≤ 0xFFF then (3, symError errOPRSV 0)
      else if 0x1000 ≤ id && (s.opRec d id).isNone then (4, symError errOPUNDEF 0)
      else if ((id == opRestore || id == opTrapop || id == opPage) && !operSys o) || (id == opPage && d != 0) then
        (5, symError errPRIV 0)
      else
        match (if s.errAccepting d id || id == opAwait then none else firstError (x.length + 1) x) with
        | some e => (6, e)
        | none => if id = opAwait && (awaitForm app).isNone then (7, symError errDOMAIN 0) else (0, 0)
  | _ => (1, symError errMALAPP 0)

end Sys2Proof.Machine
end

