-- ==== Sys2Proof/Machine/SysOps.lean ====
section
/-! DEFINITION. The system operators (R24, R25, R28 to R31): the replacement each one makes of its application, and the
running cell that emits each symbol of it (R234). -/

namespace Sys2Proof.Machine

open Sys2Proof

/-- A symbol of a replacement: copied from the application, with its home cell and the cell that holds its tile; or
added, to go with the next copied symbol or with the last one before it. -/
inductive RItem where
  | copied (w : Word) (home tcell : Nat)
  | opening (w : Word)
  | closing (w : Word)
  deriving DecidableEq, Repr

/-- The symbols of a part copied, each from its own cell, or all with one home. -/
def cp (e : List SymAt) : List RItem := e.map (fun y => .copied y.word y.cell y.cell)
def cpAt (home : Nat) (e : List SymAt) : List RItem := e.map (fun y => .copied y.word home y.cell)
def firstCellOf (e : List SymAt) : Nat := (e.head?.map SymAt.cell).getD 0

/-- An application and a sequence with added brackets. -/
def addApp (f x : List RItem) : List RItem := .opening symOpen :: f ++ x ++ [.closing symClose]
def addSeq (xs : List (List RItem)) : List RItem := .opening symSeq :: xs.flatten ++ [.closing symEnd]

/-- The elements inside the brackets of a part, as symbols where they stand. -/
def partsOf (e : List SymAt) : List (List SymAt) := (elemsIn (e.map SymAt.word)).map (fun q => (e.drop q.1).take q.2)

/-- The elements of a sequence; none for anything else. -/
def seqParts (e : List SymAt) : Option (List (List SymAt)) :=
  match e with
  | y :: _ => if symTag y.word = tagSEQ then some (partsOf e) else none
  | [] => none

/-- Truth of a test value of `cond`. -/
def truthOf (e : List SymAt) : Option Bool :=
  match e with
  | [y] =>
    let w := y.word
    if symTag w = tagNIL then some false
    else if symTag w = tagINT then some (decide (intVal w ≠ 0))
    else if symTag w = tagFLT then
      let b := w.toNat % 2 ^ 31
      if 0x7F800000 < b then none else some (b != 0)
    else none
  | _ => none

/-- What a reduction comes to: an error code, or the replacement. -/
abbrev SysRes := Except Nat (List RItem)

/-- `<(insert, f) part>`, or its one element: the brackets and the `OPER` of the inner form are added, `f` is copied (R234). -/
def insertPart (o : Word) (f : List SymAt) : List (List SymAt) → List RItem
  | [x] => cp x
  | xs => addApp (.opening symSeq :: .opening o :: cp f ++ [.closing symEnd]) (addSeq (xs.map cp))

/-- `insert` (R25). -/
def sysInsert (o : Word) (f : List SymAt) (fold : Nat) (xs : List (List SymAt)) : SysRes :=
  match xs with
  | [] => .error errRANGE
  | [x] => .ok (cp x)
  | [x, y] => .ok (addApp (cp f) (addSeq [cp x, cp y]))
  | x :: rest =>
    if fold = 0 then .ok (addApp (cp f) (addSeq [cp x, insertPart o f rest]))
    else
      let h := (xs.length + 1) / 2
      .ok (addApp (cp f) (addSeq [insertPart o f (xs.take h), insertPart o f (xs.drop h)]))

/-- Element i of a sequence for `sel`. -/
def sysSel (i : Int) (xs : List (List SymAt)) : SysRes :=
  let n : Int := xs.length
  if i = 0 || n < i || i < -n then .error errRANGE
  else .ok (cp (xs.getD ((if 0 < i then i - 1 else n + i).toNat) []))

/-- Pairs of `distl` and `distr`: the repeated element goes to the first cell of the element it is paired with. -/
def sysDist (left : Bool) (rep : List SymAt) (zs : List (List SymAt)) : List RItem :=
  addSeq (zs.map (fun z =>
    let y := cpAt (firstCellOf z) rep
    addSeq (if left then [y, cp z] else [cp z, y])))

/-- The columns of rows of equal length. -/
def sysTrans (rows : List (List (List SymAt))) : SysRes :=
  match rows with
  | [] => .ok (addSeq [])
  | r :: _ =>
    if rows.any (fun q => q.length != r.length) then .error errDOMAIN
    else .ok (addSeq ((upto 0 r.length).map (fun j => addSeq (rows.map (fun q => cp (q.getD j []))))))

/-- All of a list, or none. -/
def allSome {α : Type} : List (Option α) → Option (List α)
  | [] => some []
  | none :: _ => none
  | some x :: xs => (allSome xs).map (x :: ·)

/-- The two stages of `cond`: `app` is the application, `form` the form, `fns` its functions. -/
def sysCond (app form opd : List SymAt) (o : SymAt) (fns : List (List SymAt)) : SysRes :=
  match fns with
  | [p, f, g] =>
    .ok (cp (app.take 1) ++ cp (form.take 1) ++ cp [o] ++ cp f ++ cp g ++ cp (form.drop (form.length - 1)) ++
      [.opening symSeq, .opening symOpen] ++ cp p ++ cp opd ++ [.closing symClose] ++ cp opd ++ [.closing symEnd] ++
      cp (app.drop (app.length - 1)))
  | [f, g] =>
    match seqParts opd with
    | some [b, x] =>
      (match truthOf b with
       | some true => .ok (addApp (cp f) (cp x))
       | some false => .ok (addApp (cp g) (cp x))
       | none => .error errDOMAIN)
    | _ => .error errDOMAIN
  | _ => .error errBADOP

/-- `compose` nests its functions over the operand. -/
def sysCompose : List (List SymAt) → List SymAt → List RItem
  | [], x => cp x
  | f :: fs, x => addApp (cp f) (sysCompose fs x)

/-- `trapop` (R29). The parameter of the `OPER` written for t is 0 (assumption 105, DESIGN CHOICE). -/
def sysTrapop (trapid : Nat) (opd : List SymAt) : SysRes :=
  match seqParts opd with
  | some [[q], x] =>
    if symTag q.word = tagINT && (match x with | y :: _ => isHeld y.word | [] => false) then
      if trapid = 0 then .ok [.opening (symError errTRAP (intVal q.word).toNat)]
      else .ok ([.opening symOpen, .opening (symOper false trapid 0)] ++ cp opd ++ [.closing symClose])
    else .error errDOMAIN
  | _ => .error errDOMAIN

/-- The reduction of an application of a system operator other than `await`, `restore` and `page`: its words, where
they stand, and the context's trap operator. A bad parameter is found before an operand of the wrong shape, and an operand that is no
sequence before an index out of range (assumption 111, DESIGN CHOICE). -/
def sysReduce (trapid : Nat) (app : List SymAt) : SysRes :=
  match partsOf app with
  | [f, x] =>
    let fs := partsOf f
    let form : Bool := match f with | y :: _ => symTag y.word == tagSEQ | [] => false
    let o : SymAt := if form then f.getD 1 ⟨0, 0, 0⟩ else f.getD 0 ⟨0, 0, 0⟩
    let id := operId o.word
    let parm := (operParm o.word).toInt
    let fns := fs.drop 1
    let withSeq (k : List (List SymAt) → SysRes) : SysRes :=
      match seqParts x with
      | some xs => k xs
      | none => .error errDOMAIN
    if id = 9 && parm != 0 && parm != 1 then .error errBADOP
    else if id != 9 && id != 1 && id != opAbort && parm != 0 then .error errBADOP
    else
      match id with
      | 0 => .ok (cp x)
      | 1 => withSeq (sysSel parm)
      | 2 => withSeq (fun xs => match xs with | [] => .error errRANGE | _ :: t => .ok (addSeq (t.map cp)))
      | 3 => withSeq (fun xs => match allSome (xs.map seqParts) with
          | some rows => .ok (addSeq (rows.flatten.map cp))
          | none => .error errDOMAIN)
      | 4 => withSeq (fun xs => .ok [.opening (symInt xs.length)])
      | 5 => withSeq (fun xs => match xs with
          | [y, z] => (match seqParts z with | some zs => .ok (sysDist true y zs) | none => .error errDOMAIN)
          | _ => .error errDOMAIN)
      | 6 => withSeq (fun xs => match xs with
          | [y, z] => (match seqParts y with | some ys => .ok (sysDist false z ys) | none => .error errDOMAIN)
          | _ => .error errDOMAIN)
      | 7 => withSeq (fun xs => match allSome (xs.map seqParts) with
          | some rows => sysTrans rows
          | none => .error errDOMAIN)
      | 8 => withSeq (fun xs => .ok (addSeq (xs.map (fun z => addApp (cpAt (firstCellOf z) (fns.headD [])) (cp z)))))
      | 9 => withSeq (sysInsert o.word (fns.headD []) parm.toNat)
      | 10 => .ok (sysCompose fns x)
      | 11 => .ok (addSeq (fns.map (fun g => addApp (cp g) (cpAt (firstCellOf g) x))))
      | 12 => sysCond app f x o fns
      | 13 => .ok (cp (fns.headD []))
      | 16 => sysTrapop trapid x
      | 18 => .ok [.opening symNil]
      | _ => .error errDOMAIN
  | _ => .error errMALAPP

/-! ### Who emits what (R234) -/

/-- The emission cell of each copied symbol: no earlier than the one before it. -/
def copyCells : Nat → List RItem → List (Option Nat)
  | _, [] => []
  | m, .copied _ h _ :: r => some (max m h) :: copyCells (max m h) r
  | m, _ :: r => none :: copyCells m r

/-- For each place the nearest cell given at it or before it, and at it or after it. -/
def cellBefore : Option Nat → List (Option Nat) → List (Option Nat)
  | _, [] => []
  | p, c :: r => let q := match c with | some x => some x | none => p; q :: cellBefore q r

def cellAfter : List (Option Nat) → List (Option Nat)
  | [] => []
  | some x :: r => some x :: cellAfter r
  | none :: r => let t := cellAfter r; (t.headD none) :: t

/-- The emission cells of a replacement, in an area whose first running cell is `c0`. -/
def emission (c0 : Nat) (r : List RItem) : List (Nat × OutSym) :=
  let cs := copyCells 0 r
  let pick (i : RItem) (b a : Option Nat) : Nat × OutSym :=
    match i with
    | .copied w _ t => (b.getD c0, ⟨w, t⟩)
    | .opening w => let c := (a.orElse (fun _ => b)).getD c0; (c, ⟨w, c⟩)
    | .closing w => let c := (b.orElse (fun _ => a)).getD c0; (c, ⟨w, c⟩)
  (r.zip ((cellBefore none cs).zip (cellAfter cs))).map (fun q => pick q.1 q.2.1 q.2.2)

/-- The replacement of a system application, an error standing for a refused one. -/
def sysReplacement (trapid c0 : Nat) (app : List SymAt) : List (Nat × OutSym) :=
  match sysReduce trapid app with
  | .ok r => emission c0 r
  | .error e => [(c0, ⟨symError e 0, c0⟩)]

end Sys2Proof.Machine
end

