-- ==== Sys2Proof/Machine/Row.lean ====
section
/-! DEFINITION. Changing the symbols of the row outside the storage phase: completions and awaits (R26, R27), flag guards
(R262), `page` applications (R30, R343), joins (R84), and stopping a context (R12, R31, R355, R361). -/

namespace Sys2Proof.Machine

open Sys2Proof

/-! ### Bays, fences, joins -/

def cellsOfBay (b : Nat) (c : Nat) : Bool := bayOf c == b
def inBays (bs : List Nat) (c : Nat) : Bool := bs.contains (bayOf c)

/-- The bays that sweep together with a bay. -/
def State.group (s : State) (b : Nat) : List Nat :=
  let x := s.bayAt b
  if x.join.isEmpty then [b] else x.join

def State.modBays (s : State) (bs : List Nat) (f : Bay → Bay) : State := bs.foldl (fun s b => s.modBay b f) s

/-- A range of cells meets a fence (R83). -/
def State.fencedRange (s : State) (lo hi : Nat) : Bool :=
  s.bays.any (fun p => p.2.fences.any (fun f => decide (f.2.1 ≤ hi) && decide (lo ≤ f.2.2)))

/-- The symbol names a tile that an operation in flight writes: it counts as fenced (R116). -/
def State.pinnedSym (s : State) (y : SymAt) : Bool :=
  isTile y.word && (match (s.cellAt y.cell).runAt (tileOff y.word) with | some r => r.pin != 0 | none => false)

def spanOf (e : List SymAt) : Nat × Nat := ((e.head?.map SymAt.cell).getD 0, (e.getLast?.map SymAt.cell).getD 0)

/-- The bays that an innermost application or a releasable await of a context crosses: first and last. -/
def State.crossings (s : State) (d : Nat) : List (Nat × Nat) :=
  let c := s.ctxAt d
  if c.stopped || c.pre != .none then []
  else
    let e := s.exprOf d
    let ws := e.map SymAt.word
    (innermost ws ++ releasable ws).filterMap (fun q =>
      let (lo, hi) := spanOf ((e.drop q.1).take q.2)
      let x := bayOf lo
      let y := bayOf hi
      if x != y && (upto x (y + 1 - x)).all (fun b => !(s.bayAt b).fresh) then some (x, y) else none)

/-- Adds a run of bays to runs that share no bay. -/
def addRun (q : Nat × Nat) : List (Nat × Nat) → List (Nat × Nat)
  | [] => [q]
  | r :: rs => if r.2 < q.1 || q.2 < r.1 then r :: addRun q rs else addRun (min q.1 r.1, max q.2 r.2) rs

/-- The joins that stand after the latest reports of the bays. -/
def State.runs (s : State) : List (Nat × Nat) :=
  let all := s.ctxs.flatMap (fun p => if p.2.inRow then s.crossings p.1 else [])
  let once := all.foldl (fun l q => addRun q l) []
  once.foldl (fun l q => addRun q l) []

/-- Bays of a list report: what was placed in them is known, and every join is formed anew; a bay that is newly marked has
reason to start P (R75, R84). -/
def State.report (s : State) (bs : List Nat) : State :=
  let s := s.modBays bs (fun x => { x with fresh := false })
  let rs := s.runs
  (upto 0 16).foldl (fun s b =>
    let m := match rs.find? (fun r => decide (r.1 ≤ b) && decide (b ≤ r.2)) with
      | some r => upto r.1 (r.2 + 1 - r.1)
      | none => []
    let x := s.bayAt b
    if x.mark == m then s else s.putBay b { x with mark := m, due := x.due || !m.isEmpty }) s

/-! ### Edits of cells -/

/-- Runs of tile bytes that nothing names, allocates or pins are freed (R20, R116). -/
def Cell.reap (x : Cell) (alive : Nat → Bool) : Cell :=
  { x with tiles := x.tiles.filter (fun r =>
      r.pin != 0 || x.slots.any (fun w => isTile w && tileOff w == r.off) || (match r.alloc with | some i => alive i | none => false)) }

def State.alive (s : State) (i : Nat) : Bool := (s.areaAt i).live

/-- Moves the symbols of the areas of a context to where they stand now; a symbol that is gone keeps no place. -/
def State.moveSyms (s : State) (d : Nat) (f : Nat → Nat → Option (Nat × Nat)) : State :=
  { s with areas := s.areas.map (fun p =>
      if p.2.live && p.2.desc == d then
        (p.1, { p.2 with syms := p.2.syms.filterMap (fun y => (f y.cell y.slot).map (fun q => ⟨q.1, q.2, y.word⟩)) })
      else p) }

/-- Keeps, rewrites or removes the symbols of a context in some bays. -/
def State.editSyms (s : State) (d : Nat) (bs : List Nat) (f : SymAt → Option Word) : State :=
  let c := s.ctxAt d
  let hit (x : Nat) : Bool := c.hasCell x && inBays bs x
  let old := s
  let s : State := { s with cells := s.cells.map (fun p =>
      if hit p.1 then (p.1, ({ p.2 with slots := (p.2.symsAt p.1).filterMap f }).reap s.alive) else p) }
  s.moveSyms d (fun x slot =>
    if hit x then
      let ys := (old.cellAt x).symsAt x
      (match ys[slot]? with
       | some y => if (f y).isSome then some (x, ((ys.take slot).filter (fun z => (f z).isSome)).length) else none
       | none => none)
    else some (x, slot))

/-- Removes and rewrites symbols given by their places in the expression. -/
def State.editAt (s : State) (d : Nat) (e : List SymAt) (gone : Nat → Bool) (put : Nat → Option Word) : State :=
  let tbl := e.zip (upto 0 e.length)
  let bs := ((e.map (fun y => bayOf y.cell))).eraseDups
  s.editSyms d bs (fun y =>
    match tbl.find? (fun q => q.1.cell == y.cell && q.1.slot == y.slot) with
    | some q => if gone q.2 then none else some ((put q.2).getD y.word)
    | none => some y.word)

/-! ### Flag guards (R26, R262) -/

/-- The flags in guard position of pending awaits. -/
def State.flagGuards (s : State) (d : Nat) : List Word :=
  let ws := (s.exprOf d).map SymAt.word
  ((guardPlaces ws).map (fun p => ws.getD p 0)).filter (fun w => symTag w == tagFLAG)

/-- A guard is entered in the watch table, or its completion is waiting. -/
def State.guardKnown (s : State) (d : Nat) (w : Word) : Bool :=
  s.watch.any (fun x => x.idx == flagIdx w && x.exp == flagExp w && x.who.contains (.guard d)) ||
    (s.ctxAt d).compl.any (fun c => c.flag && c.id == flagIdx w && c.exp == flagExp w)

/-- Enters the guards of a context for which there is an entry. -/
def State.enterGuards (s : State) (d : Nat) : State :=
  (s.flagGuards d).foldl (fun s w =>
    if s.guardKnown d w || !s.watchRoom (flagIdx w) (flagExp w) then s
    else s.watchAdd (flagIdx w) (flagExp w) (.guard d)) s

/-- A guard without an entry is read at each P. -/
def State.pollGuards (s : State) (d : Nat) : State :=
  let s := s.enterGuards d
  (s.flagGuards d).foldl (fun s w =>
    if s.guardKnown d w || !flagReached (s.flag (flagIdx w)) (flagExp w) then s
    else s.modCtx d (fun c => c.post { flag := true, id := flagIdx w, exp := flagExp w, sym := symNil })) s

/-! ### Completions (R27) -/

/-- One completion offered to the bays of a list; it stays in the matching store while it matches nothing, and a flag's
while some guard of the context elsewhere still needs it. Of several `TOKEN` symbols with one `tid` the leftmost takes the
completion (assumption 105, DESIGN CHOICE). -/
def State.applyCompl (s : State) (d : Nat) (bs : List Nat) (x : Compl) : State :=
  let e := s.exprOf d
  let ws := e.map SymAt.word
  let cellIn (p : Nat) : Bool := inBays bs ((e[p]?.map SymAt.cell).getD 0)
  if x.flag then
    let hits := (guardPlaces ws).filter (fun p => symTag (ws.getD p 0) == tagFLAG && flagIdx (ws.getD p 0) == x.id && flagExp (ws.getD p 0) == x.exp)
    let here := hits.filter cellIn
    if here.isEmpty then s
    else
      let s := s.editAt d e (fun _ => false) (fun p => if here.contains p then some x.sym else none)
      if here.length = hits.length then s.modCtx d (fun c => { c with compl := c.compl.erase x }) else s
  else
    match (upto 0 ws.length).find? (fun p => cellIn p && symTag (ws.getD p 0) == tagTOKEN && tokId (ws.getD p 0) == x.id) with
    | none => s
    | some p =>
      (s.editAt d e (fun _ => false) (fun q => if q = p then some x.sym else none)).modCtx d (fun c =>
        { c with compl := c.compl.erase x, tids := c.tids.filter (· != x.id) })

def State.applyCompls (s : State) (d : Nat) (bs : List Nat) : State :=
  (s.ctxAt d).compl.foldl (fun s x => s.applyCompl d bs x) s

/-! ### Awaits (R26) -/

/-- Releases the awaits that are no longer pending and lie wholly in the bays of a list, one after another. The ERROR of a failed guard
stands where the await's OPEN stood (assumption 111, DESIGN CHOICE). -/
def State.releaseAwaits (s : State) (d : Nat) (bs : List Nat) : Nat → State
  | 0 => s
  | fuel + 1 =>
    let e := s.exprOf d
    let ws := e.map SymAt.word
    let ok (q : Nat × Nat) : Bool :=
      let (lo, hi) := spanOf ((e.drop q.1).take q.2)
      inBays bs lo && inBays bs hi && !s.fencedRange lo hi
    match (releasable ws).find? ok with
    | none => s
    | some q =>
      let app := part ws q
      match awaitOf app with
      | none => s
      | some a =>
        let inside (p : Nat) : Bool := decide (q.1 ≤ p) && decide (p < q.1 + q.2)
        let s := match a.failed app with
          | some err => s.editAt d e (fun p => inside p && p != q.1) (fun p => if p = q.1 then some err else none)
          | none => s.editAt d e (fun p => inside p && !(decide (q.1 + a.body.1 ≤ p) && decide (p < q.1 + a.body.1 + a.body.2))) (fun _ => none)
        s.releaseAwaits d bs fuel

/-! ### `page` applications (R343) -/

/-- The words the hub writes for fault-table entry `q`. -/
def pageApp (q : Nat) : List Word := [symOpen, symOper true opPage 0, symInt q, symClose]

/-- Forms the applications of the entries that have none yet, each in the first cell of the pager strand that has room for
it and no symbol to its right (assumption 4). -/
def State.formPages (s : State) : State :=
  if !s.pagerUp || !(s.ctxAt 0).inRow then s
  else
    (s.faults.filter (fun p => p.2.live && !p.2.formed)).foldl (fun s p =>
      let c := s.ctxAt 0
      let cells := upto c.firstCell (c.endCell - c.firstCell)
      let used := cells.filter (fun x => !(s.cellAt x).slots.isEmpty)
      let lo := used.getLastD c.firstCell
      match (cells.filter (fun x => decide (lo ≤ x))).find? (fun x => !(s.cellAt x).retired && decide ((s.cellAt x).slots.length ≤ 4)) with
      | none => s
      | some x =>
        (s.modCell x (fun y => { y with slots := y.slots ++ pageApp p.1 })).putFault p.1 { s.faultAt p.1 with formed := true }) s

/-! ### Stopping a context -/

/-- Every application of a context ends: what has not committed is voided, what has is stopped (R31, R355, R361). -/
def State.haltCtx (s : State) (d : Nat) : State :=
  let is := (s.areas.filter (fun p => p.2.live && p.2.desc == d)).map (·.1)
  is.foldl (fun s i =>
    let a := s.areaAt i
    if a.phase == .over then s
    else if a.cmt then (s.stopArea i).dropVoiding i
    else (s.dropVoiding i).voidArea i) s

/-! ### The end of a pre-emption -/

/-- Channels bound to a context. -/
def State.chansOf (s : State) (d : Nat) : List (Nat × Nat) :=
  (s.chans.filter (fun p => p.2.bound == some d)).map (fun p => (p.1 / 16, p.1 % 16))

/-- Channels that the pre-emption paused, or was to pause, run on. -/
def State.unpauseChans (s : State) (d : Nat) : State :=
  (s.chansOf d).foldl (fun s p => s.modChan p.1 p.2 (fun c =>
    if c.busy && c.pcs == 2 then { c with st := .running, pcs := 0 } else c)) s

/-- Graphs that stood frozen for the context go on. -/
def State.thawGraphs (s : State) (d : Nat) : State :=
  let mine := s.graphs.filter (fun p => p.1 / 256 == d && p.2.parked)
  mine.foldl (fun s p => (s.modGraph d (p.1 % 256) (fun g => { g with parked := false })).feed d (p.1 % 256)) s

/-- The `ctxsv` that a pre-emption or a resumption would complete. -/
def Pre.op : Pre → Option (Nat × Nat)
  | .requested _ _ _ op => op
  | .cut _ op => op
  | .resuming op => op
  | _ => Option.none

def State.finishPre (s : State) (op : Option (Nat × Nat)) : State :=
  match op with
  | some q => s.finishOp q.2 [] false
  | none => s

/-- The context is out, or on its way back. -/
def Pre.away : Pre → Bool
  | .out _ => true
  | .resuming _ => true
  | _ => false

/-- Waiters of a context: its operations, its voided applications, its channels, its graphs and the hub's own accesses for it. -/
def Waiter.ofCtx (d : Nat) (ids : List Nat) (chans : List (Nat × Nat)) : Waiter → Bool
  | .cellOp _ op => ids.contains op
  | .voided e _ _ => e == d
  | .chan r ch => chans.contains (r, ch)
  | .hubCtx e => e == d
  | .graph e _ => e == d
  | _ => false

/-- Operations of a context are forgotten by the watch table, the bridles, the graphs, the walkers and the fault table. -/
def State.forget (s : State) (d : Nat) (ids : List Nat) (chans : List (Nat × Nat)) : State :=
  let gone := Waiter.ofCtx d ids chans
  let s := s.unwatch (fun w => match w with | .cell _ op => ids.contains op | _ => false)
  let s := (s.unbridle ids).cancelGraphOps ids
  let s : State := { s with walks := s.walks.filterMap (fun r =>
    let asks := r.asks.filter (fun a => !(a.desc == d && a.who.all gone))
    if asks.isEmpty then none else some { r with asks := asks }) }
  ((s.faults.flatMap (fun p => p.2.who.filter gone)).eraseDups).foldl State.dropWaiter s

/-- Operations of a context's saved cells. -/
def Ctx.savedOps (c : Ctx) : List Nat := c.saved.flatMap (fun q => q.2.pend.map PendOp.id)

/-- A context that is out stops without running: its envelope is discarded (R355, R357). -/
def Ctx.discard (c : Ctx) : Ctx := { c with pre := .none, len := 0, start := 0, saved := [], savedA := [], written := [], failed := [], eland := c.esent, landing := [] }

/-- The context asks for no sails any longer, or not for now: planes that waited for a compaction on its behalf go on (R290). -/
def State.dropHolds (s : State) (d : Nat) : State :=
  let c := s.ctxAt d
  let ops := s.cells.flatMap (fun p => (p.2.pend.filter (fun o => o.desc == d)).map (fun o => (p.1, o.kind))) ++
    c.saved.flatMap (fun q => q.2.pend.map (fun o => (q.1, o.kind)))
  let s := ops.foldl (fun s q => match q.2 with | .gld _ p _ _ _ => s.setHold (dieOf q.1) p false | _ => s) s
  (s.graphs.filter (fun p => p.1 / 256 == d && p.2.unloaded)).foldl (fun s p => s.setHold p.2.die p.2.plane false) s

/-- The pre-emption of a context that stops is over: its `ctxsv` completes; what is out is discarded, what is in the row goes on. -/
def State.leavePre (s : State) (d : Nat) : State :=
  let c := s.ctxAt d
  let s := s.finishPre c.pre.op
  if c.pre.away then ((s.dropHolds d).forget d c.savedOps []).modCtx d Ctx.discard
  else if c.pre = .none then s
  else ((s.thawGraphs d).unpauseChans d).modCtx d (fun c => { c with pre := .none })

/-- Stops a context as `abort` does. -/
def State.stopCtx (s : State) (d : Nat) (why : Stop) : State :=
  ((s.haltCtx d).leavePre d).modCtx d (fun c => { c with stop := some why, stopped := true })

/-- A trap record of class 16 (R336, R338, R361). -/
def rowTrap (sub : Nat) (n : BitVec 32) : TrapRec :=
  { tseq := n, cls := 16, sub := sub, cmt := false, cell := 0xFFFF, aidx := 0, pc := 0, opid := 0, parm := 0, word := 0,
    info := 0, fseq := none }

/-- A row fault: its record is written and the context stops; while the ring does not translate the hub waits for the pager, and the
applications of the context have ended. -/
def State.rowFault (s : State) (d sub : Nat) : State :=
  match s.writeTrap d (rowTrap sub) with
  | .ok (n, t) => (t.modCtx d (fun c => { c with rowf := none })).stopCtx d (if sub = 1 then .rowInt n else .rowFull n)
  | .error va => ((s.haltCtx d).modCtx d (fun c => { c with rowf := some sub })).hubFault d va true (.hubCtx d)

/-- The aborting application of the context has left the row, or a hub access of the context has failed for good. -/
def execAbortContextStop (s : State) : Out :=
  let d := s.unit
  let c := s.ctxAt d
  let sweeping := s.areas.any (fun p => p.2.live && p.2.desc == d && p.2.sys && p.2.opid == opAbort && p.2.phase == .over)
  .next (
    if !c.live || c.stopped || c.ending != .no then s
    else if c.rfault then
      (match s.writeTrap d (rowTrap 2) with
       | .ok (n, t) => t.stopCtx d (.rowFull n)
       | .error _ => s.stopCtx d (.rowFull c.etnext.toNat))
    else
      match c.rowf, c.stop with
      | some sub, _ => s.rowFault d sub
      | none, some (.aborted code) => if sweeping then s else s.stopCtx d (.aborted code)
      | none, _ => s)

end Sys2Proof.Machine
end

