-- ==== Sys2Proof/Machine/Sweeps.lean ====
section
/-! DEFINITION. Sweeps up to the end of X (R75 to R79, R84, R87, R88, R99, R100, R250): P alone and joined, the hub's
cache, broadcasts, the close of L, and the start of an area. -/

namespace Sys2Proof.Machine

open Sys2Proof

/-! ### Areas (R73, R77, R87) -/

/-- The area that already waits for the application whose `OPEN` stands there. -/
def State.waitingAt (s : State) (d : Nat) (y : SymAt) : Option (Nat × Area) :=
  s.areas.find? (fun p => p.2.live && p.2.phase == .waiting && p.2.desc == d &&
    (match p.2.syms with | z :: _ => z.cell == y.cell && z.slot == y.slot | [] => false))

/-- The area of an innermost application; `old` is the one it had in earlier sweeps. -/
def State.mkArea (s : State) (d : Nat) (app : List SymAt) (birth : BitVec 32) (dfr : Nat) : Area :=
  let ws := app.map SymAt.word
  let o := (match elemWords ws with | f :: _ => operatorOf f | [] => none).getD 0
  let id := operId o
  let (cls, w) := s.classOf d ws
  let r := s.opRec d id
  let opd := match elemsIn ws with | [_, x] => x | _ => (0, 0)
  let cs := (app.map SymAt.cell).eraseDups
  let (lo, hi) := spanOf app
  let sys := decide (id < 0x1000)
  { Area.blank with
    live := true, desc := d, opid := id, parm := operParm o, sys := sys,
    priv := if sys then id == opPage else (match r with | some x => x.priv | none => false),
    bays := (cs.map bayOf).eraseDups, cells := cs, first := lo, last := hi, syms := app, opPos := opd.1, opLen := opd.2,
    dfr := dfr, cls := cls, birth := birth,
    urg := match r with | some x => !sys && x.urgent | none => false
    slotb := if sys then 16 else (match r with | some x => x.slotb | none => 0)
    tileb := if sys then Config.tileBytes else (match r with | some x => x.tileb | none => 0)
    ncode := if sys then 64 else (match r with | some x => x.ncode | none => 0)
    liveMask := match r with | some x => x.live | none => 0
    decls := if sys then [] else (match r with | some x => x.decls | none => [])
    phase := if cls = 0 then .formed else .over
    fate := if cls = 0 then .none else .one w }

/-- An application of a resumed context that goes on running where it stands (R359). -/
def State.goesOn (s : State) (d : Nat) (y : SymAt) : Bool :=
  s.areas.any (fun p => p.2.live && p.2.phase != .waiting && p.2.desc == d &&
    (match p.2.syms with | z :: _ => z.cell == y.cell && z.slot == y.slot | [] => false))

/-- Forms one area: it waits behind a fence or a pinned tile, or takes part in the sweep and is served by its cells (R79, R83,
R116). -/
def State.formArea (s : State) (d : Nat) (app : List SymAt) : State :=
  match app with
  | [] => s
  | y :: _ =>
    if s.goesOn d y then s
    else
    let old := s.waitingAt d y
    let (birth, dfr, s) : BitVec 32 × Nat × State := match old with
      | some (i, a) => (a.birth, a.dfr, s.putArea i Area.blank)
      | none => (s.birth, 0, { s with birth := s.birth + 1 })
    let a := s.mkArea d app birth dfr
    let i := s.nextArea + 1
    let s := { s with nextArea := i }
    if s.fencedRange a.first a.last || app.any s.pinnedSym then s.putArea i { a with phase := .waiting, fate := .none, cls := 0 }
    else
      let s := s.putArea i a
      if a.cls != 0 then s else s.overCells a.cells (fun x => { x with serve := x.serve ++ [i] })

/-- A context forms new areas. -/
def State.forms (s : State) (d : Nat) : Bool :=
  let c := s.ctxAt d
  c.inRow && !c.stopped && c.stop.isNone && c.pre == .none && !c.rfault && c.rowf.isNone && (d != 0 || s.pagerUp)

/-- Forms the areas of a context in the bays of a list, and forgets those that are innermost no more. -/
def State.formAreas (s : State) (d : Nat) (bs : List Nat) : State :=
  let e := s.exprOf d
  let apps := (innermost (e.map SymAt.word)).map (fun q => (e.drop q.1).take q.2)
  let mine := apps.filter (fun a => let (lo, hi) := spanOf a; inBays bs lo && inBays bs hi)
  let s := if s.forms d then mine.foldl (fun s a => s.formArea d a) s else s
  let keep (a : Area) : Bool :=
    !(a.live && a.phase == .waiting && a.desc == d && a.cells.all (inBays bs)) ||
      mine.any (fun m => m.head? == a.syms.head?)
  { s with areas := s.areas.filter (fun p => keep p.2) }

/-! ### Microprograms in cells (R99, R100) -/

/-- Lines a microprogram takes. -/
def codeLines (n : Nat) : Nat := (n + 63) / 64
def Tag.lines (t : Tag) : Nat := codeLines t.code.length

def Area.hits (a : Area) (t : Tag) : Bool :=
  if a.sys then t.sys && t.opid == a.opid else !t.sys && t.desc == a.desc && t.opid == a.opid

/-- The areas of this sweep whose microprograms a cell may keep: the leftmost that fit in 64 lines together; one that
does not fit is passed over, and a later one that does is kept (assumption 111, DESIGN CHOICE). -/
def State.fits (s : State) : List Nat → List Nat → Nat → List Nat
  | [], _, _ => []
  | i :: is, seen, used =>
    let a := s.areaAt i
    let same := seen.any (fun j => let b := s.areaAt j; b.sys == a.sys && b.opid == a.opid && b.desc == a.desc)
    let n := if same then 0 else codeLines a.ncode
    if used + n ≤ 64 then i :: s.fits is (i :: seen) (used + n) else s.fits is seen used

/-- The area's microprogram stands in a cell that may keep it. -/
def State.codeIn (s : State) (i c : Nat) : Bool :=
  let x := s.cellAt c
  (s.fits x.serve [] 0).contains i && ((s.areaAt i).tagIn x).isSome

/-- Drops the least recently executed microprograms that no area of the sweep needs until `n` lines and a tag are free. -/
def State.makeRoom (s : State) (c n : Nat) : Nat → State
  | 0 => s
  | fuel + 1 =>
    let x := s.cellAt c
    let used := (x.cache.map Tag.lines).sum
    if used + n ≤ 64 && x.cache.length < 16 then s
    else
      let need := s.fits x.serve [] 0
      let free := x.cache.filter (fun t => !need.any (fun i => (s.areaAt i).hits t))
      match free.foldl (fun (b : Option Tag) t => match b with | none => some t | some u => if t.used < u.used then some t else some u) none with
      | none => s
      | some t => (s.modCell c (fun y => { y with cache := y.cache.erase t })).makeRoom c n fuel

/-- A cell takes a microprogram in. -/
def State.takeCode (s : State) (i c : Nat) (t : Tag) : State :=
  let x := s.cellAt c
  if !(s.fits x.serve [] 0).contains i || ((s.areaAt i).tagIn x).isSome then s
  else
    let s := s.makeRoom c t.lines 17
    let y := s.cellAt c
    if (y.cache.map Tag.lines).sum + t.lines ≤ 64 && y.cache.length < 16 then s.putCell c { y with cache := y.cache ++ [t] } else s

/-- The running cells lie in one domain of each declared scope (R250). -/
def Area.scopesOk (a : Area) : Bool :=
  a.decls.all (fun q =>
    let dom (c : Nat) : Nat := match q.2 with | 0 => c | 1 => bayOf c | 2 => dieOf c | _ => 0
    a.cells.all (fun c => dom c == dom (a.cells.headD 0)))

/-- A microprogram has reached every cell of its area: the area is loaded, or takes the scope fault before its first
instruction. -/
def State.arrive (s : State) (i : Nat) : State :=
  let a := s.areaAt i
  if a.phase != .formed || !a.cells.all (s.codeIn i) then s
  else if a.scopesOk then s.putArea i { a with phase := .loaded }
  else
    let stop (c : Nat) : AppCell := { AppCell.start with
      stopped := true
      trap := if c = a.cells.headD 0 then some { cls := clsScope, sub := 0, pc := 0, word := 0, info := 0, fseq := none } else none }
    s.putArea i (a.cells.foldl (fun a c => a.putApp c (stop c)) { a with phase := .running })

/-! ### P (R76) -/

/-- Live areas of this sweep in the bays of a list: those that take part in it. -/
def State.areasIn (s : State) (bs : List Nat) : List Nat :=
  (s.areas.filter (fun p => p.2.live && p.2.phase != .waiting && p.2.phase != .parked && p.2.bays.all bs.contains)).map (·.1)

/-- The bay's symbols of a context are in normal form. -/
def bayNormal (e : List SymAt) (b : Nat) : Bool :=
  let ws := e.map SymAt.word
  let live := (upto 0 ws.length).filter (fun p => isLiveOpen (ws.getD p 0))
  let held := (upto 0 ws.length).filter (fun p => isHeld (ws.getD p 0))
  let inHeld (p : Nat) : Bool := held.any (fun h => decide (h < p) && decide (p < h + elemLen 0 (ws.drop h)))
  (upto 0 ws.length).all (fun p =>
    (e[p]?.map (fun y => bayOf y.cell)) != some b || (!pendingSym (ws.getD p 0) && (!live.contains p || inHeld p)))

/-- Steps 1 of P for every context of some bays. -/
def State.partition1 (s : State) (bs : List Nat) : State :=
  let ds := s.ctxsIn bs
  let s := if bs.contains 15 then s.formPages else s
  let s := ds.foldl (fun s d => if (s.ctxAt d).stopped then s else s.pollGuards d) s
  let s := ds.foldl (fun s d => if (s.ctxAt d).stopped then s else s.applyCompls d bs) s
  let s := ds.foldl (fun s d => if (s.ctxAt d).stopped then s else s.releaseAwaits d bs ((s.exprOf d).length + 1)) s
  s.report bs

/-- The integrity checks: a context that fails them takes a row-integrity fault. -/
def State.checkRows (s : State) (bs : List Nat) : State :=
  (s.ctxsIn bs).foldl (fun s d =>
    let c := s.ctxAt d
    let e := s.exprOf d
    if c.stopped || ((e.filter (fun y => inBays bs y.cell)).all (fun y => !malformed y.word) && bracketed [] (e.map SymAt.word)) then s
    else s.rowFault d 1) s

/-- The areas of every context, in row order; a context whose fault waits for the pager forms none. Areas that first become innermost in one P
are born in this order: context by context as the hub's table lists them, each in row order (R87; assumption 112, DESIGN CHOICE). -/
def State.partition2 (s : State) (bs : List Nat) : State :=
  let s : State := { s with cells := s.cells.map (fun p => if inBays bs p.1 then (p.1, { p.2 with serve := p.2.serve.filter (fun i => (s.areaAt i).live && (s.areaAt i).phase == .running) }) else p) }
  let s := (s.ctxsIn bs).foldl (fun s d =>
    if (s.exprOf d).any (fun y => inBays bs y.cell && malformed y.word) || !bracketed [] ((s.exprOf d).map SymAt.word) then s
    else s.formAreas d bs) s
  (s.areasIn bs).foldl State.arrive s

/-- The phase P of the bays of one sweep. -/
def State.partition (s : State) (bs : List Nat) : State :=
  let s := ((s.partition1 bs).checkRows bs).partition2 bs
  let s := (s.ctxsIn bs).foldl (fun s d =>
    let e := s.exprOf d
    s.modCtx d (fun c => { c with
      told := (c.told ++ bs).eraseDups
      normal := c.normal.filter (fun b => !bs.contains b) ++ bs.filter (bayNormal e) })) s
  s.modBays bs (fun x => { x with phase := .load, lopen := s.cyc, due := false, lastP := s.cyc, pcount := x.pcount + 1 })

def State.atBoundary (s : State) (b : Nat) : Bool := (s.bayAt b).phase == .boundary && !(s.bayAt b).held

/-- A bay that is not marked to join starts P alone. -/
def execSweepP (s : State) : Out :=
  let b := s.unit
  .next (
    if b < 16 && s.atBoundary b && s.bayDue b && (s.bayAt b).mark.isEmpty then
      (s.modBay b (fun x => { x with join := [] })).partition [b]
    else s)

/-- The marked bays have all reached their boundary: they start one P together (R84). -/
def execJoinedSweepStart (s : State) : Out :=
  let bs := (s.bayAt s.unit).mark
  .next (
    if s.unit < 16 && !bs.isEmpty && bs.all s.atBoundary && bs.any s.bayDue then
      (s.modBays bs (fun x => { x with join := bs })).partition bs
    else s)

/-! ### L (R78, R88, R99) -/

/-- The words of a ROM microprogram; only `page` runs in a cell, the others are carried out by R25. -/
def romCode (id : Nat) : List Word := if id = opPage then (upto 0 64).map Config.pageRom else List.replicate 64 0

/-- The tag an area's microprogram comes with: from the ROM, or from the hub's cache. -/
def State.source (s : State) (a : Area) : Option Tag :=
  if a.sys then some { sys := true, desc := 0, opid := a.opid, priv := a.opid == opPage, code := romCode a.opid, used := 0 }
  else s.hubCache.find? (fun t => t.desc == a.desc && t.opid == a.opid)

/-- The bytes of an operator record in the hub's cache. -/
def State.recBytes (s : State) (t : Tag) : Nat :=
  match s.opRec t.desc t.opid with
  | some r => r.bytes
  | none => 64 + 8 * t.code.length

/-- Replaces the least recently broadcast records of the hub's cache until 2 MiB hold one more. -/
def State.hubRoom (s : State) (n : Nat) : Nat → State
  | 0 => s
  | fuel + 1 =>
    if (s.hubCache.map s.recBytes).sum + n ≤ 2097152 then s
    else
      match s.hubCache.foldl (fun (b : Option Tag) t => match b with | none => some t | some u => if t.used < u.used then some t else some u) none with
      | none => s
      | some t => { s with hubCache := s.hubCache.erase t }.hubRoom n fuel

/-- An area whose operator record breaks a limit is rewritten to `err.BADOP` (R43). -/
def State.refuseCode (s : State) (i : Nat) : State :=
  let a := s.areaAt i
  (s.overCells a.cells (fun x => { x with serve := x.serve.filter (· != i) })).putArea i
    { a with phase := .over, fate := .one (symError errBADOP 0) }

/-- A microprogram missing from the hub's cache is fetched from its image; until it is broadcast it counts as used by its fetch (R100; assumption
110, DESIGN CHOICE). Of an image that software has written the header and declarations of a record stay those read at launch, and the code is what
stands there at the fetch (R48; assumption 111, DESIGN CHOICE). -/
def execHubCacheFetch (s : State) : Out :=
  let i := s.unit
  let a := s.areaAt i
  .next (
    if !a.live || a.phase != .formed || (s.source a).isSome then s
    else
      match s.opRec a.desc a.opid with
      | none => s
      | some r =>
        if !r.ok then s.refuseCode i
        else
          match s.hubRead a.desc r.code (8 * r.ncode) with
          | none => s.hubFault a.desc ((s.hubMiss a.desc r.code (8 * r.ncode) false).getD r.code) false (.hubCtx a.desc)
          | some bs =>
            let code := (upto 0 r.ncode).map (fun k => (BitVec.ofNat 64 (leNat ((bs.drop (8 * k)).take 8)) : Word))
            let s := s.hubRoom r.bytes (s.hubCache.length + 1)
            { s with hubCache := s.hubCache ++ [{ sys := false, desc := a.desc, opid := a.opid, priv := r.priv, code := code, used := s.cyc }] })

/-- `a` precedes `b` under R88: urgent, then eight times deferred, then by birth. -/
def Area.rank (a : Area) : Nat := if a.urg then 0 else if a.dfr = 8 then 1 else 2
def Area.before (a b : Area) : Bool :=
  decide (a.rank < b.rank) || (a.rank == b.rank && a.birth != b.birth && decide ((b.birth - a.birth).toNat < 2 ^ 31))

/-- Areas of the sweep that the same broadcast serves. -/
def State.sameCode (s : State) (bs : List Nat) (a : Area) : List Nat :=
  (s.areasIn bs).filter (fun j => let b := s.areaAt j; b.phase == .formed && b.sys == a.sys && b.opid == a.opid && (a.sys || b.desc == a.desc))

/-- A cell of an area takes the area's broadcast in. -/
def State.takesCode (s : State) (j c : Nat) : Bool := !(s.codeIn j c) && (s.fits (s.cellAt c).serve [] 0).contains j

/-- The cells of an area that its broadcast goes to (R78). -/
def State.takers (s : State) (j : Nat) : List Nat := (s.areaAt j).cells.filter (s.takesCode j)

def State.lacksCode (s : State) (j : Nat) : Bool := !(s.takers j).isEmpty

/-- A broadcast ready to start in some sweep that shares a die with one for `served` and is favoured over all of it: the place of either is
that of the most favoured area among those it serves, in whatever die that stands; a cell that cannot keep the code, or holds
it already, is not reached (R78, R88, R100). -/
def State.preferred (s : State) (served : List Nat) : Bool :=
  let dies (js : List Nat) : List Nat := js.flatMap (fun j => (s.takers j).map dieOf)
  let mine := served.filter s.lacksCode
  (s.areas.map (·.1)).any (fun j =>
    let b := s.areaAt j
    let rivals := (s.sameCode (s.group (b.bays.headD 0)) b).filter s.lacksCode
    b.live && b.phase == .formed && (s.bayAt (b.bays.headD 0)).phase == .load && !served.contains j && (s.source b).isSome &&
      (dies rivals).any (dies mine).contains && rivals.any (fun r => mine.all (fun k => (s.areaAt r).before (s.areaAt k))))

/-- The broadcast of an area's microprogram, with the cells in which its check fails. One that has not been executed yet counts as used by its
broadcast (R100), and one that failed its check in a cell may be broadcast again before L closes (assumption 110, DESIGN CHOICE). -/
def execMicroprogramBroadcast (ar : Nat) (crcFail : List Nat) (s : State) : Out :=
  let a := s.areaAt ar
  let b := a.bays.headD 0
  let bs := s.group b
  .next (
    if !a.live || a.phase != .formed || (s.bayAt b).phase != .load || (s.bayAt b).lopen + Config.lWindow ≤ s.cyc then s
    else
      match s.source a with
      | none => s
      | some t =>
        let served := s.sameCode bs a
        if s.preferred served then s
        else
          let s := { s with hubCache := s.hubCache.map (fun u => if u == t then { u with used := s.cyc } else u) }
          let t := { t with used := s.cyc }
          let s := served.foldl (fun s j =>
            (s.areaAt j).cells.foldl (fun s c =>
              if !(s.codeIn j c) && crcFail.contains c then s.softError .programCache c 0 false
              else s.takeCode j c t) s) s
          served.foldl State.arrive s)

/-- An area whose microprogram has not arrived is deferred (R78). -/
def State.deferArea (s : State) (i : Nat) : State :=
  let a := s.areaAt i
  (s.overCells a.cells (fun x => { x with serve := x.serve.filter (· != i) })).putArea i { a with phase := .waiting, dfr := min 8 (a.dfr + 1) }

/-- L closes: an area without its microprogram is deferred. -/
def execLClose (s : State) : Out :=
  let b := s.unit
  let bs := s.group b
  let is := s.areasIn bs
  let late := is.filter (fun i => (s.areaAt i).phase == .formed)
  .next (
    if (s.bayAt b).phase != .load || (s.cyc < (s.bayAt b).lopen + Config.lWindow && !late.isEmpty) then s
    else
      let s := late.foldl State.deferArea s
      let s := is.foldl (fun s i => s.modArea i (fun a => if a.phase == .loaded then { a with dfr := 0 } else a)) s
      s.modBays bs (fun x => { x with phase := .exec }))

/-! ### X (R79, R101) -/

/-- A record of the spill ring, read back: its words, with the bytes of each tile. -/
def spillSyms (n : Nat) (bs : List Byte) : List (Word × List Byte) :=
  let word (k : Nat) : Word := BitVec.ofNat 64 (leNat ((bs.drop (8 * k)).take 8))
  (upto 0 n).map (fun k =>
    let w := word k
    if isTile w then (w, (bs.drop (word (n + tileOff w)).toNat).take (tileLen w)) else (w, []))

/-- The cells of an area are done with it. -/
def State.leaveCells (s : State) (i : Nat) : State :=
  s.overCells (s.areaAt i).cells (fun x => { x with serve := x.serve.filter (· != i) })

/-- The ring frees a record; one freed out of turn leaves its bytes to the record before it (R89, R91). -/
def freeSpill (off : Nat) : List SpillRec → List SpillRec
  | [] => []
  | [r] => [r]
  | r :: q :: rs => if q.off = off then { r with skip := r.skip + q.len + q.skip } :: rs else r :: freeSpill off (q :: rs)

/-- A record leaves the ring; the next stub may be considered. -/
def Ctx.freeSpill (c : Ctx) (off : Nat) : Ctx :=
  { c with
    spills := if (c.spills.head?.map SpillRec.off) == some off then c.spills.drop 1 else Sys2Proof.Machine.freeSpill off c.spills
    restoring := false }

/-- The hub reads a run back through the stage cache of the bay it was spilled from (R89): the bytes, and the state with the lines that
leaves. -/
def State.spillRead (s : State) (d va b n : Nat) : Option (List Byte × State) :=
  (s.hubEnts d false (upto va n)).map (fun l =>
    (l.map (fun q => s.readByte (Party.ofBay b) 0 (paOf q)), s.keepLines (some b) 0 false l))

/-- A system application ends with an error in its first cell. -/
def State.sysRefuse (s : State) (i : Nat) (a : Area) (e : Nat) : State :=
  let c := a.cells.headD 0
  (s.leaveCells i).putArea i { a with phase := .over, cmt := true, fate := .sysRepl [(c, ⟨symError e 0, c⟩)] }

/-- `restore` reads the run its stub stands for (R28, R91); a parameter other than 0, or a stub that names no record of the
context, is refused (R24). -/
def State.sysRestore (s : State) (i : Nat) (a : Area) : State :=
  let d := a.desc
  let c := s.ctxAt d
  if a.parm != 0 then s.sysRefuse i a errBADOP
  else
    match (a.operand.map SymAt.word).find? (fun w => symTag w == tagSPILL && decide (a.opLen = 1)) with
    | none => s.sysRefuse i a errDOMAIN
    | some w =>
      match c.spills.find? (fun r => r.off == 8 * spillWord w && r.count == spillCount w) with
      | none => s.sysRefuse i a errDOMAIN
      | some r =>
        let va := (s.descUse d).spbase.toNat + r.off
        match s.spillRead d va r.bay r.len with
        | none => s.hubFault d ((s.hubMiss d va r.len false).getD va) false (.hubCtx d)
        | some (bs, s) => (s.leaveCells i).putArea i { a with phase := .over, cmt := true, fate := .restored (spillSyms r.count bs) }

/-- The trap operator registered by a context's image (R34). -/
def State.trapid (s : State) (d : Nat) : Nat := ((s.ctxAt d).image.map (fun im => im.trapid)).getD 0

/-- A system operator reduces as its area starts. Of two aborts of one context in one sweep the code of the first to start is kept
(R31; assumption 107, DESIGN CHOICE). -/
def State.sysStart (s : State) (i : Nat) (a : Area) : State :=
  if a.opid = opRestore then s.sysRestore i a
  else
    let s := if a.opid = opAbort then
        s.modCtx a.desc (fun c => { c with stop := match c.stop with | some x => some x | none => some (.aborted a.parm) })
      else s
    (s.leaveCells i).putArea i
      { a with phase := .over, cmt := true, fate := .sysRepl (sysReplacement (s.trapid a.desc) (a.cells.headD 0) a.syms) }

/-- The fault-table entry that a `page` application names. -/
def Area.pageEntry (a : Area) : BitVec 32 := ((a.operand.head?.map SymAt.word).getD 0).setWidth 32

/-- Why a `page` application is not run: its parameter is not 0, or its operand is no `INT` (R24, R30). -/
def Area.pageBad (a : Area) : Option Nat :=
  if a.parm != 0 then some errBADOP
  else
    match a.operand.map SymAt.word with
    | [w] => if symTag w == tagINT then none else some errDOMAIN
    | _ => some errDOMAIN

/-- A cell has finished an area in which its application has trapped or is to be voided, before the root acts on it (R79). -/
def State.finishedIn (s : State) (c j : Nat) : Bool :=
  let a := s.areaAt j
  (a.appAt c).trap.isSome || (!a.cmt && (a.appAt c).fault.isSome)

/-- A cell serves an area and has finished every one to its left. -/
def State.mayStartIn (s : State) (i c : Nat) : Bool :=
  let l := (s.cellAt c).serve
  l.contains i && (l.takeWhile (· != i)).all (s.finishedIn c)

/-- A cell runs an area now: its microprogram counts as used, and what the cell has finished stands behind it until its root acts. -/
def Cell.runs (x : Cell) (i now : Nat) (a : Area) : Cell :=
  { x with serve := i :: x.serve.filter (· != i), cache := x.cache.map (fun t => if a.hits t then { t with used := now } else t) }

/-- An area's microprogram starts in its cells. -/
def execAreaStart (s : State) : Out :=
  let i := s.unit
  let a := s.areaAt i
  .next (
    if !a.live || a.phase != .loaded || (a.desc == 0 && !s.pagerUp) || (s.bayAt (a.bays.headD 0)).phase != .exec ||
        !a.cells.all (s.mayStartIn i) then s
    else
      let s := s.overCells a.cells (fun x => x.runs i s.cyc a)
      if a.sys && a.opid != opPage then s.sysStart i a
      else if a.sys && a.pageBad.isSome then s.sysRefuse i a (a.pageBad.getD 0)
      else
        let a := { a with phase := .running, moved := s.cyc, apps := [] }
        s.putArea i (if a.sys then a.cells.foldl (fun a c => a.putApp c { AppCell.start with frec := a.pageEntry }) a else a))

end Sys2Proof.Machine
end

