-- ==== Sys2Proof/Machine/Landing.lean ====
section
/-! DEFINITION. Buffered writes on their way to the point of coherence (R239), with the effects that land there (R364), and
the references to a context's cells when its span moves (R86, R359). -/

namespace Sys2Proof.Machine

open Sys2Proof

/-! ### Landing -/

/-- A performed operation has landed once no write of it stands in a buffer (R364). -/
def State.landedStore (s : State) (w : BufWrite) : State :=
  if (s.ctxAt w.desc).landing.contains w.op && !s.bufs.any (fun v => v.op == w.op && v.desc == w.desc) then
    (s.modCtx w.desc (fun c => { c with landing := c.landing.erase w.op })).landed w.desc
  else s

/-- Action 2 of R239 on the write at place `k`, with what lands. -/
def State.propagateAt (s : State) (k : Nat) : State :=
  match s.bufs[k]? with
  | none => s
  | some w =>
    if !s.mayMove k then s
    else if w.level < 3 then s.propagate k
    else (s.propagate k).landedStore w

def execPropagateWrite (s : State) : Out := .next (s.propagateAt s.unit)

/-- Moves the writes of a context outward, the outermost first, until none stands in a buffer. -/
def State.flushCtx (s : State) (d : Nat) : Nat → State
  | 0 => s
  | fuel + 1 =>
    let cand := (upto 0 s.bufs.length).filter (fun k => (match s.bufs[k]? with | some w => w.desc == d | none => false) && s.mayMove k)
    let level (k : Nat) : Nat := (s.bufs[k]?.map BufWrite.level).getD 0
    match cand.foldl (fun b k => match b with | none => some k | some j => if level j < level k then some k else some j) none with
    | none => s
    | some k => (s.propagateAt k).flushCtx d fuel

def State.flushed (s : State) (d : Nat) : State := s.flushCtx d (4 * s.bufs.length + 1)

/-! ### Moving a context's cells -/

/-- A cell number after a move from `lo` to `base` of `n` cells. -/
def shifted (lo n base c : Nat) : Nat := if lo ≤ c && c < lo + n then c - lo + base else c

/-- The references that an operation, an area and a saved cell hold to cells of the span. -/
def OpKind.shift (f : Nat → Nat) : OpKind → OpKind
  | .brUpd d (.slot c i) va u scp => .brUpd d (.slot (f c) i) va u scp
  | .brWait d (.slot c i) va p scp e => .brWait d (.slot (f c) i) va p scp e
  | .brTest d (.slot c i) va scp => .brTest d (.slot (f c) i) va scp
  | k => k

def PendOp.shift (f : Nat → Nat) (o : PendOp) : PendOp := { o with kind := o.kind.shift f }

/-- A `gld` asks for sails of the die that its cell stands in, and waits in the FABRIC queue of that die's plane (R289, R302). -/
def PendOp.rehome (c : Nat) (o : PendOp) : PendOp :=
  match o.kind with
  | .gld _ p _ _ _ => { o with que := planeQue (dieOf c) p }
  | _ => o

def Bridle.shift (mine : Nat → Bool) (f : Nat → Nat) (b : Bridle) : Bridle :=
  let w (x : BrWaiter) : BrWaiter := if mine x.op then { x with cell := f x.cell } else x
  { b with upd := b.upd.map (fun u => (u.1, u.2.map w))
           wait := b.wait.map (fun q => (q.1, w q.2)) }

/-- A cell that has moved to place `at_`. -/
def Cell.shift (mine : Nat → Bool) (f : Nat → Nat) (at_ : Nat) (x : Cell) : Cell :=
  { x with pend := x.pend.map (fun o => (o.shift f).rehome at_)
           bridles := x.bridles.map (fun q => (q.1, q.2.shift mine f)) }

def AppCell.shift (f : Nat → Nat) (a : AppCell) : AppCell :=
  { a with out := a.out.map (fun o => { o with tcell := f o.tcell })
           ballast := a.ballast.map (fun h => { h with op := h.op.shift f }) }

def Area.shift (f : Nat → Nat) (a : Area) : Area :=
  let cs := a.cells.map f
  { a with
    cells := cs
    bays := (cs.map bayOf).eraseDups
    first := f a.first
    last := f a.last
    syms := a.syms.map (fun y => { y with cell := f y.cell })
    missed := a.missed.map f
    apps := a.apps.map (fun p => (f p.1, p.2.shift f))
    colls := a.colls.map (fun p => { p with cell := f p.cell })
    joins := a.joins.map (fun j => { j with cell := f j.cell }) }

/-- Waiters of an operation named by its cell. -/
def Waiter.shift (mine : Nat → Bool) (f : Nat → Nat) : Waiter → Waiter
  | .cellOp c op => if mine op then .cellOp (f c) op else .cellOp c op
  | w => w

def WatchWho.shift (mine : Nat → Bool) (f : Nat → Nat) : WatchWho → WatchWho
  | .cell c op => if mine op then .cell (f c) op else .cell c op
  | w => w

/-- What the hub, the bridle homes and the graphs know of operations that move with their cells. -/
def State.shiftRefs (s : State) (d : Nat) (mine : Nat → Bool) (f : Nat → Nat) : State :=
  { s with
    watch := s.watch.map (fun w => { w with who := w.who.map (WatchWho.shift mine f) })
    walks := s.walks.map (fun r => { r with asks := r.asks.map (fun a =>
      if a.desc == d && a.who.any (fun w => w.shift mine f != w) then { a with cell := f a.cell, who := a.who.map (Waiter.shift mine f) } else a) })
    faults := s.faults.map (fun p => (p.1, { p.2 with who := p.2.who.map (Waiter.shift mine f) }))
    chans := s.chans.map (fun p => (p.1, if p.2.bound == some d then { p.2 with run := (f p.2.run.1, p.2.run.2) } else p.2))
    mbridles := s.mbridles.map (fun p => (p.1, p.2.shift mine f))
    graphs := s.graphs.map (fun p =>
      let g (o : GOp) : GOp := if mine o.op then { o with cell := f o.cell } else o
      (p.1, { p.2 with ops := p.2.ops.map g, frz := p.2.frz.map (fun z => { z with ops := z.ops.map g }) })) }

end Sys2Proof.Machine
end

