-- ==== Sys2Proof/Machine/Preemption.lean ====
section
/-! DEFINITION. Killing a context (R355), pre-emption and resumption (R354, R356 to R360, R263, R304, R328), and the forms of
`ctxsv`. -/

namespace Sys2Proof.Machine

open Sys2Proof

/-! ### Killing a context (R355) -/

/-- The cells of a context's span. -/
def Ctx.cells (c : Ctx) : List Nat := if c.inRow then upto c.firstCell (c.endCell - c.firstCell) else []

/-- Its channels stop and abort their peers; the spec gives no error code (assumption 5). -/
def State.killChans (s : State) (d : Nat) : State :=
  (s.chansOf d).foldl (fun s p =>
    if (s.chanAt p.1 p.2).busy then
      let (e, s) := s.free 4
      s.chanHalt p.1 p.2 e.toNat true
    else s) s

/-- Its graphs' operations end with status FAULT. -/
def State.killFabric (s : State) (d : Nat) : State :=
  ((s.ctxAt d).cells.flatMap (fun c => ((s.cellAt c).pend.filter (fun o => o.kind.graphOf.isSome)).map (fun o => (c, o)))).foldl
    (fun s q =>
      match q.2.kind with
      | .gcol _ _ _ _ _ _ => (s.cancelGraphOps [q.2.id]).opDone q.1 q.2 [] 0 0 true
      | _ => s.fabFault q.1 q.2) s

/-- Its pending waits are cancelled. -/
def State.killWaits (s : State) (d : Nat) : State :=
  let cs := (s.ctxAt d).cells
  let ids := cs.flatMap (fun c => ((s.cellAt c).pend.filter s.endless).map PendOp.id)
  let s := s.overCells cs (fun x => { x with pend := x.pend.filter (fun o => !ids.contains o.id) })
  (s.unwatch (fun w => match w with
    | .guard e => e == d
    | .hold _ => false
    | .cell _ op => ids.contains op)).unbridle ids

def State.killCtx (s : State) (d : Nat) : State :=
  let s := (s.haltCtx d).killChans d
  let s := ((s.killFabric d).killWaits d).leavePre d
  s.modCtx d (fun c => { c with stop := some .killed, stopped := true })

/-! ### Requests (R354, R356) -/

/-- A request reaches the cells of a context: every sleep ends (R119). -/
def State.wakeSleepers (s : State) (d : Nat) : State :=
  { s with areas := s.areas.map (fun p =>
      if p.2.live && p.2.desc == d && p.2.apps.any (fun q => q.2.sleep.isSome) then
        (p.1, s.woken p.1 { p.2 with apps := p.2.apps.map (fun q => (q.1, { q.2 with sleep := none })) })
      else p) }

/-- The hub marks a context for pre-emption. -/
def State.preempt (s : State) (d : Nat) (force park : Bool) (op : Option (Nat × Nat)) : State :=
  (s.wakeSleepers d).modCtx d (fun c => { c with pre := .requested s.cyc force park op, sample := none })

/-- `ctxsv.save` and `ctxsv.force` performed. -/
def State.saveAsked (s : State) (c : Nat) (op : PendOp) (d : Nat) (force : Bool) : State :=
  let x := s.ctxAt d
  let me := some (c, op.id)
  if !(s.descAt d).live || d = 0 || x.stopped || x.stop.isSome || x.ending != .no then s.opDone c op [] 0 0 false
  else
    match x.pre with
    | .none => s.preempt d force true me
    | .requested t f _ none => s.modCtx d (fun x => { x with pre := .requested t (f || force) true me })
    | .cut _ none => s.modCtx d (fun x => { x with pre := .cut true me })
    | .out _ => (s.modCtx d (fun x => { x with pre := .out true, estate := 2 })).opDone c op [] 0 0 false
    | _ => s

/-- `ctxsv` performed: save, force, resume, kill. -/
def State.ctxsvPerform (s : State) (c : Nat) (op : PendOp) (fn d : Nat) : State :=
  match fn with
  | 0 => s.saveAsked c op d false
  | 1 => s.saveAsked c op d true
  | 2 =>
    (match (s.ctxAt d).pre with
     | .out true => s.modCtx d (fun x => { x with pre := .resuming (some (c, op.id)) })
     | _ => s.opDone c op [] 0 0 false)
  | _ =>
    if !(s.descAt d).live || d = 0 || (s.ctxAt d).ending != .no then s.opDone c op [] 0 0 false
    else if (s.ctxAt d).killOp.isSome then s
    else (s.killCtx d).modCtx d (fun x => { x with killOp := some (c, op.id) })

/-- What the forms of `ctxsv` share: the check at issue, commit, the queue PORTAL. -/
def State.ctxsvIssue (s : State) (f : FmtA) (fn : Nat) (bad : Nat → Option Nat) : Res :=
  let d := s.app.ctxsel.toNat
  tokGate s.app f.tv f.tok (
    match bad d with
    | some sub => .trap clsSystem sub 0
    | none => needCommit s (fun s => .ok (s.push .portal 3 (tokOf f.tv f.tok) [] (.ctxsv fn d))))

/-- NOTLIVE of R354. -/
def State.notLive (s : State) (d : Nat) : Option Nat := if (s.descAt d).live then none else some 2

def execCtxsvSave (h : Hdr) (f : FmtA) (s : State) : Out :=
  .next (issue h false [] id (fun s => s.ctxsvIssue f 0 s.notLive) s)

def execCtxsvForce (h : Hdr) (f : FmtA) (s : State) : Out :=
  .next (issue h false [] id (fun s => s.ctxsvIssue f 1 s.notLive) s)

def execCtxsvResume (h : Hdr) (f : FmtA) (s : State) : Out :=
  .next (issue h false [] id (fun s => s.ctxsvIssue f 2 (fun d => if (s.ctxAt d).pre = .out true then none else some 3)) s)

def execCtxsvKill (h : Hdr) (f : FmtA) (s : State) : Out :=
  .next (issue h false [] id (fun s => s.ctxsvIssue f 3 (fun d => if d = 0 then some 1 else if (s.ctxAt d).ending != .no then some 2 else s.notLive d)) s)

/-! ### The cut (R356, steps 3 and 4) -/

/-- One area at the cut: what runs and has not committed is voided under R341, what has is parked; what only waits for its
microprogram or behind a fence forms again later. -/
def State.cutArea (s : State) (i : Nat) : State :=
  let a := s.areaAt i
  let d := a.desc
  match a.phase with
  | .waiting => s.putArea i Area.blank
  | .formed => (s.leaveCells i).modArea i (fun a => { a with phase := .over, fate := .none })
  | .loaded => (s.leaveCells i).modArea i (fun a => { a with phase := .over, fate := .none })
  | .running =>
    if a.cmt then (s.leaveCells i).modArea i (fun a => { a with phase := .parked })
    else
      let s := (s.dropVoiding i).voidArea i
      (match (s.ctxAt d).freeTid with
       | none => s.modArea i (fun a => { a with fate := .none })
       | some tid =>
         (s.modCtx d (fun c => { c with tids := c.tids ++ [tid], waitToks := c.waitToks ++ [tid] })).modArea i
           (fun a => { a with fate := .awaitTok tid }))
  | .parked => s
  | .over => s

/-- Its channels pause (R328): a send in progress once its tail is out, a local copy that has started once it has ended, though a
fault of theirs wait for the pager; any other where it stands. -/
def State.pauseChans (s : State) (d : Nat) : State :=
  (s.chansOf d).foldl (fun s p => s.modChan p.1 p.2 (fun c =>
    if !c.busy then c
    else if c.midway then (if c.st == .running then { c with pcs := 2 } else c)
    else { c with st := .paused, pcs := 2 })) s

/-- Its graphs are frozen at a step boundary (R304); a `gld` of its own that waits for sails holds no plane up meanwhile. -/
def State.parkGraphs (s : State) (d : Nat) : State :=
  let s := s.dropHolds d
  { s with graphs := s.graphs.map (fun p => if p.1 / 256 == d && p.2.loaded then (p.1, { p.2 with parked := true }) else p) }

/-- The cut, once every area root has taken the trap or page fault that stands at it (R337). -/
def State.cutCtx (s : State) (d : Nat) (park : Bool) (op : Option (Nat × Nat)) : State :=
  let is := (s.areas.filter (fun p => p.2.live && p.2.desc == d)).map (·.1)
  let s := is.foldl State.rootTakes s
  if is.any (fun i => (s.areaAt i).live && (s.areaAt i).phase == .running && (s.areaAt i).taken.isSome) then s
  else (((is.foldl State.cutArea s).pauseChans d).parkGraphs d).modCtx d (fun c => { c with pre := .cut park op })

/-- A re-lay of the context is still shifting. -/
def State.shifting (s : State) (d : Nat) : Bool := s.bays.any (fun p => p.2.fences.any (fun f => f.1 == d))

/-- Every bay of the context has come to its P boundary: none of its areas takes part in a sweep. -/
def State.settledCtx (s : State) (d : Nat) : Bool := !s.areas.any (fun p => p.2.live && p.2.desc == d && p.2.phase != .waiting)

def execPreemptionCut (s : State) : Out :=
  let d := s.unit
  .next (match (s.ctxAt d).pre with
    | .requested _ force park op =>
      if s.shifting d || (!force && !s.settledCtx d) then s else s.cutCtx d park op
    | _ => s)

def execGracePeriodExpiry (s : State) : Out :=
  let d := s.unit
  .next (match (s.ctxAt d).pre with
    | .requested since _ park op =>
      if s.shifting d || s.cyc < since + Config.graceCycles then s else s.cutCtx d park op
    | _ => s)

/-! ### The save image (R357, R358) -/

def padTo (n : Nat) (bs : List Byte) : List Byte := bs ++ List.replicate (alignUp bs.length n - bs.length) 0

/-- An entry of section 0. -/
def Cell.image (x : Cell) : List Byte :=
  leBytes 8 (x.slots.length % 16 + 16 * x.tiles.length) ++ x.slots.flatMap (fun w => leBytes 8 w.toNat) ++
    x.tiles.flatMap (fun r => padTo 8 (leBytes 4 r.off ++ leBytes 4 r.len ++ x.tread r.off r.len))

/-- The registers of a class that a mask selects, in the order of R44, each as bytes. -/
def picked (m : BitVec 128) (k n first : Nat) (f : Nat → List Byte) : List Byte :=
  ((upto first (n - first)).filter (fun i => m.getLsbD (k + i))).flatMap f

def Acc.image (x : Acc) : List Byte :=
  leBytes 8 (if x.fp then 1 else 0) ++ (upto 0 256).flatMap (fun k => leBytes 4 (tget 0 x.el k).toNat)

def Bank.image (x : Bank) : List Byte :=
  leBytes 8 x.ty.toNat ++ (upto 0 16).flatMap (fun k => leBytes 128 (tget 0 x.col k).toNat) ++
    (upto 0 128).flatMap (fun k => leBytes 4 (tget 0 x.hdr k).toNat)

def five (t : Tbl (BitVec 32)) : List Byte := (upto 0 5).flatMap (fun k => leBytes 4 (tget 0 t k).toNat)

/-- The 64 bytes of a shape record (R163). -/
def ShapeRec.image (r : ShapeRec) : List Byte :=
  leBytes 8 r.base.toNat ++ leBytes 1 r.ety.toNat ++ leBytes 1 r.ndim ++ leBytes 1 r.baxis.toNat ++ leBytes 1 r.bnd.toNat ++
    leBytes 1 (if r.ts then 1 else 0) ++ leBytes 3 0 ++ five r.ext ++ five r.str ++ leBytes 8 r.hdr.toNat

def TlbEnt.image (e : TlbEnt) : List Byte :=
  let bit (b : Bool) : List Byte := leBytes 1 (if b then 1 else 0)
  leBytes 8 e.va ++ leBytes 8 e.size ++ leBytes 8 e.pa ++ leBytes 2 e.asid ++ leBytes 2 e.gen ++ bit e.w ++ bit e.pv ++ bit e.mig ++ leBytes 1 e.sc

/-- A stream register: record, cursor, whether it is valid and has an entry, the entry. -/
def StreamReg.image (x : StreamReg) : List Byte :=
  x.rc.image ++ five x.cur ++ leBytes 4 (if x.valid then 1 else 0) ++ leBytes 8 (if x.ent.isSome then 1 else 0) ++
    (match x.ent with | some e => e.image | none => leBytes 32 0)

/-- The registers that the live-state mask selects, in its order (R44); widths and padding are the model's (assumption 5). -/
def AppCell.image (m : BitVec 128) (a : AppCell) : List Byte :=
  picked m 0 32 1 (fun n => leBytes 8 (a.getS n).toNat) ++
  picked m 32 32 0 (fun n => leBytes 128 (a.getV n).bits.toNat ++ leBytes 32 (a.getV n).side.toNat) ++
  picked m 64 8 1 (fun n => leBytes 32 (a.getK n).toNat) ++
  picked m 72 4 0 (fun n => (a.getM n).image) ++
  picked m 76 2 0 (fun n => (a.getB n).image) ++
  picked m 78 8 0 (fun n => (a.getA n).image) ++
  picked m 86 8 0 (fun n => leBytes 8 (a.getT n)) ++
  picked m 94 1 0 (fun _ => leBytes 2 a.fflags.toNat ++ leBytes 2 a.mflags.toNat ++ leBytes 4 a.srseed.toNat)

/-- A readout of section 1: cell, instruction index, return stack, out-slot buffer, registers, bridle slots. -/
def Area.readout (a : Area) (lo c : Nat) (x : Cell) : List Byte :=
  let p := a.appAt c
  leBytes 4 (c - lo) ++ leBytes 4 p.pc ++ leBytes 4 p.rstk.length ++ leBytes 4 p.out.length ++ p.rstk.flatMap (leBytes 8) ++
    p.out.flatMap (fun o => leBytes 8 o.word.toNat) ++ p.image a.liveMask ++
    (upto 0 16).flatMap (fun i => leBytes 16 (tget Bridle.blank x.bridles i).pack)

/-- An entry of section 2: kind, id or index, expected value or parity. -/
def waitImage (kind id exp : Nat) : List Byte := leBytes 1 kind ++ leBytes 7 id ++ leBytes 8 exp

/-- The waits of section 2: tokens, flag guards, `flwait`, `brwait`. -/
def State.waitImages (s : State) (d : Nat) : List (List Byte) :=
  let c := s.ctxAt d
  c.tids.map (fun t => waitImage 0 t 0) ++
    (s.flagGuards d).map (fun w => waitImage 1 (flagIdx w) (flagExp w).toNat) ++
    (c.cells.flatMap (fun x => (s.cellAt x).pend)).filterMap (fun o => match o.kind with
      | .flwait _ idx exp _ _ _ => some (waitImage 2 idx exp.toNat)
      | .brWait _ (.slot x i) _ par _ _ => some (waitImage 3 (2 ^ 55 + 16 * (x - c.firstCell) + i) (if par then 1 else 0))
      | .brWait _ (.memory _) va par _ _ => some (waitImage 3 va (if par then 1 else 0))
      | _ => none)

def Chunk.image (k : Chunk) : List Byte :=
  leBytes 8 k.addr.toNat ++ leBytes 4 k.bytes ++ leBytes 1 k.ety.toNat ++ leBytes 1 k.xfi.toNat ++ leBytes 18 0

/-- A channel's state of R310 in section 3. -/
def Chan.image (c : Chan) (r ch : Nat) : List Byte :=
  leBytes 1 r ++ leBytes 1 ch ++ leBytes 2 c.pc ++ leBytes 8 (c.status (c.bound.getD 0) true).toNat ++
    (upto 0 4).flatMap (fun k => leBytes 4 (tget 0 c.c k).toNat) ++ leBytes 4 c.sgc.toNat ++
    leBytes 4 c.ranks.length ++ leBytes 4 c.posted.length ++ leBytes 8 c.window.length ++
    (upto 0 c.ranks.length).flatMap (fun k => leBytes 4 (tget 0 c.tx k).toNat ++ leBytes 4 (tget 0 c.rx k).toNat) ++
    c.posted.flatMap (fun q => q.1.image) ++
    c.window.flatMap (fun q => leBytes 4 q.1 ++ leBytes 4 q.2.1.toNat ++ leBytes 8 q.2.2.length ++ padTo 8 q.2.2)

/-- The sections of the save image with their entry counts; each graph keeps what its freeze record stands for. -/
def State.saveImage (s : State) (d : Nat) : List (List Byte × Nat) × State :=
  let c := s.ctxAt d
  let parked := s.areas.filter (fun p => p.2.live && p.2.desc == d && p.2.phase == .parked)
  let apps := parked.flatMap (fun p => p.2.cells.map (fun x => p.2.readout c.firstCell x (s.cellAt x)))
  let waits := s.waitImages d
  let chans := s.chansOf d
  let graphs := s.graphs.filter (fun p => p.1 / 256 == d && p.2.loaded)
  let (s4, t) := graphs.foldl (fun (q : List Byte × State) p =>
    let (o, t) := q.2.freeBytes 40
    (q.1 ++ p.2.record o, t.modGraph d (p.1 % 256) (fun g => t.wrote g o))) (([] : List Byte), s)
  ([(c.cells.flatMap (fun x => (s.cellAt x).image), c.cells.length), (apps.flatten, apps.length), (waits.flatten, waits.length),
    (chans.flatMap (fun p => (s.chanAt p.1 p.2).image p.1 p.2), chans.length), (s4, graphs.length)], t)

/-- Offsets of the sections from `envbase`, and the end of the last. -/
def sectOffsets : Nat → List (List Byte × Nat) → List Nat × Nat
  | o, [] => ([], o)
  | o, x :: xs =>
    let (os, e) := sectOffsets (alignUp (o + x.1.length) 64) xs
    (o :: os, if xs.isEmpty then o + x.1.length else e)

/-- The envelope's header. -/
def envHeader (estate len : Nat) (etnext : BitVec 32) (size : Nat) (offs cnts : List Nat) : List Byte :=
  leBytes 4 0x4C564E45 ++ leBytes 2 1 ++ leBytes 1 estate ++ leBytes 1 len ++ leBytes 4 etnext.toNat ++ leBytes 4 size ++
    offs.flatMap (leBytes 8) ++ cnts.flatMap (leBytes 4) ++ leBytes 180 0

/-- Header, and after the trap ring the save image, as runs of bytes at their offsets; no byte outside the image is written. -/
def envelope (estate len : Nat) (etnext : BitVec 32) (secs : List (List Byte × Nat)) : List (Nat × List Byte) × Nat :=
  let (offs, e) := sectOffsets 0x4100 secs
  ((0, envHeader estate len etnext (e - 0x4100) offs (secs.map (·.2))) ::
    (offs.zip secs).map (fun q => (q.1, q.2.1)), e - 0x4100)

/-- Writes runs of bytes of the context's memory, or names the address that misses. -/
def State.hubWrites (s : State) (d base : Nat) : List (Nat × List Byte) → Except Nat State
  | [] => .ok s
  | (o, bs) :: r =>
    match s.hubWrite d (base + o) bs with
    | none => .error ((s.hubMiss d (base + o) bs.length true).getD (base + o))
    | some t => t.hubWrites d base r

/-! ### Release and refusal (R356, R360) -/

/-- An operation that has to end before its context is saved: an atomic (R254), a copy that runs (R356). -/
def PendOp.unsaved (o : PendOp) : Bool :=
  match o.kind with
  | .atom _ _ _ _ _ _ _ _ => true
  | .copy _ _ _ _ _ _ => !o.paused
  | _ => false

/-- What a save waits for: the last S, the atomics and copies, the multicast rows that have begun, the sends in progress. -/
def State.readyToSave (s : State) (d : Nat) : Bool :=
  !s.shifting d && !s.areas.any (fun p => p.2.live && p.2.desc == d && (p.2.phase != .parked || p.2.bufs.any (fun b => !b.rows.isEmpty))) &&
    !(s.ctxAt d).cells.any (fun c => (s.cellAt c).pend.any PendOp.unsaved) &&
    !(s.chansOf d).any (fun p => let c := s.chanAt p.1 p.2; c.busy && c.pcs != 2 || c.st == .running)

/-- The cell a strand gets back: what it held of the context is gone. -/
def Cell.vacate (x : Cell) : Cell :=
  { Cell.blank with
    retired := x.retired || x.marked
    marked := false
    ts := x.ts
    bad := x.bad
    cache := x.cache
    errs := x.errs
    due := x.due }

/-- The context leaves the row; what it was is kept beside its save image. -/
def State.releaseSpan (s : State) (d : Nat) (park : Bool) (secs : List (List Byte)) : State :=
  let c := s.ctxAt d
  let keep := c.cells.map (fun x => (x, s.cellAt x))
  let mine := s.areas.filter (fun p => p.2.live && p.2.desc == d)
  let s : State := { s with areas := s.areas.filter (fun p => !(p.2.live && p.2.desc == d)) }
  let s := s.overCells c.cells Cell.vacate
  s.modCtx d (fun c => { c with
    pre := .out park
    estate := if park then 2 else 1
    placed := s.cyc
    saved := keep
    written := secs
    savedA := mine.map (fun p => ⟨p.1, p.2⟩) })

/-- Tokens that the end of a pre-emption completes. -/
def State.completeVoids (s : State) (d : Nat) : State :=
  s.modCtx d (fun c => { c.waitToks.foldl (fun c tid => c.post { flag := false, id := tid, exp := 0, sym := tokSym false }) c with waitToks := [] })

/-- A committed application that a pre-emption had stopped runs on in its cells. -/
def State.runAgain (s : State) (i : Nat) : State :=
  (s.modArea i (fun a => { a with phase := .running, moved := s.cyc })).overCells (s.areaAt i).cells
    (fun x => { x with serve := x.serve.filter (· != i) ++ [i] })

/-- The bays of a context have reason to start P. -/
def State.wakeBays (s : State) (d : Nat) : State := s.modBays (s.ctxAt d).bays (fun x => { x with due := true })

/-- The context runs on in its place. -/
def State.goOn (s : State) (d : Nat) : State :=
  let is := (s.areas.filter (fun p => p.2.live && p.2.desc == d && p.2.phase == .parked)).map (·.1)
  let s := is.foldl State.runAgain s
  ((s.thawGraphs d).unpauseChans d).completeVoids d |>.wakeBays d

/-- The save image is written and the strands are freed, or the save is refused. -/
def execPreemptionSaveWrite (s : State) : Out :=
  let d := s.unit
  .next (match (s.ctxAt d).pre with
    | .cut park op =>
      if !s.readyToSave d then s
      else
        let t := s.flushed d
        let c := t.ctxAt d
        let x := t.descUse d
        let (secs, t) := t.saveImage d
        let (runs, size) := envelope (if park then 2 else 1) c.len c.etnext secs
        let refused := decide (x.envsize.toNat < 0x4100 + size)
        let what := if refused then
            [(0, envHeader 3 c.len c.etnext size (sectOffsets 0x4100 secs).1 (secs.map (·.2)))] else runs
        match t.hubWrites d x.envbase.toNat what with
        | .error va => s.hubFault d va true (.hubCtx d)
        | .ok t =>
          if refused then ((t.modCtx d (fun c => { c with pre := .none, estate := 3 })).goOn d).finishPre op
          else (t.releaseSpan d park (secs.map (·.1))).finishPre op
    | _ => s)

/-! ### Resumption (R359) -/

/-- Unpredictable values for the registers that the live-state mask leaves out (R44). -/
def scrubS (m : BitVec 128) (q : AppCell × State) : AppCell × State :=
  (upto 1 31).foldl (fun q n => if m.getLsbD n then q else let (x, t) := q.2.free 64; (q.1.setS n x, t)) q

def scrubV (m : BitVec 128) (q : AppCell × State) : AppCell × State :=
  (upto 0 32).foldl (fun q n =>
    if m.getLsbD (32 + n) then q
    else
      let (x, t) := q.2.free 1024
      let (y, t) := t.free 256
      (q.1.setV n ⟨x, y⟩, t)) q

def scrubK (m : BitVec 128) (q : AppCell × State) : AppCell × State :=
  (upto 1 7).foldl (fun q n => if m.getLsbD (64 + n) then q else let (x, t) := q.2.free 256; (q.1.setK n x, t)) q

def scrubM (m : BitVec 128) (q : AppCell × State) : AppCell × State :=
  (upto 0 4).foldl (fun q n =>
    if m.getLsbD (72 + n) then q
    else
      let (f, t) := q.2.free 1
      let (e, t) := (upto 0 256).foldl (fun (r : Tbl (BitVec 32) × State) k => let (x, t) := r.2.free 32; (tset 0 r.1 k x, t)) ([], t)
      (q.1.setM n ⟨f == 1, e⟩, t)) q

def scrubB (m : BitVec 128) (q : AppCell × State) : AppCell × State :=
  (upto 0 2).foldl (fun q n =>
    if m.getLsbD (76 + n) then q
    else
      let (ty, t) := q.2.free 4
      let (cs, t) := (upto 0 16).foldl (fun (r : Tbl (BitVec 1024) × State) k => let (x, t) := r.2.free 1024; (tset 0 r.1 k x, t)) ([], t)
      let (hs, t) := (upto 0 128).foldl (fun (r : Tbl (BitVec 32) × State) k => let (x, t) := r.2.free 32; (tset 0 r.1 k x, t)) ([], t)
      (q.1.setB n ⟨ty, cs, hs⟩, t)) q

/-- A stream register left out: every field free. Its translation entry resumes empty and is found again in the tables: a free entry
would name memory that no table maps (assumption 111, DESIGN CHOICE). -/
def scrubA (m : BitVec 128) (q : AppCell × State) : AppCell × State :=
  (upto 0 8).foldl (fun q n =>
    if m.getLsbD (78 + n) then q
    else
      let (v, t) := q.2.free 1
      let (base, t) := t.free 64
      let (hdr, t) := t.free 64
      let (bits, t) := t.free 24
      let (nd, t) := t.free 8
      let five (t : State) : Tbl (BitVec 32) × State :=
        (upto 0 5).foldl (fun (r : Tbl (BitVec 32) × State) k => let (x, t) := r.2.free 32; (tset 0 r.1 k x, t)) ([], t)
      let (ext, t) := five t
      let (str, t) := five t
      let (cur, t) := five t
      let rc : ShapeRec := { base := base, ety := bits.extractLsb' 0 4, ndim := nd.toNat, baxis := bits.extractLsb' 7 8,
                             bnd := bits.extractLsb' 15 8, ts := bits.getLsbD 23, ext := ext, str := str, hdr := hdr }
      (q.1.setA n { valid := v == 1, rc := rc, cur := cur, ent := none }, t)) q

def scrubT (m : BitVec 128) (q : AppCell × State) : AppCell × State :=
  (upto 0 8).foldl (fun q n =>
    if m.getLsbD (86 + n) then q
    else let (x, t) := q.2.free 4; ({ q.1.setT n x.toNat with marks := q.1.marks.filter (fun k => k.det.isSome || k.tok != n) }, t)) q

/-- `x.FFLAGS`, `x.MFLAGS` and `x.SRSEED` left out: free, the seed but for the 0 that it never becomes (R203). -/
def scrubX (m : BitVec 128) (q : AppCell × State) : AppCell × State :=
  if m.getLsbD 94 then q
  else
    let (f, t) := q.2.free 6
    let (g, t) := t.free 3
    let (r, t) := t.free 32
    ({ q.1 with fflags := f, mflags := g, srseed := if r == 0 then 1 else r }, t)

/-- The writable special registers that no bit of the mask selects (R96, R358): `x.TRAP`, without its reserved bit, `x.TASID` and
`x.CTXSEL`. What else the cell keeps for the application (`x.CMT`, the kept copy statuses, the fault-record index of `page`) is no
register that the mask could name and resumes as it was (assumption 111, DESIGN CHOICE). -/
def scrubSp (q : AppCell × State) : AppCell × State :=
  let (e, t) := q.2.free 9
  let (n, t) := t.free 14
  let (d, t) := t.free 7
  ({ q.1 with trapen := e &&& 0x17F, tasid := n, ctxsel := d }, t)

/-- Unpredictable values for every register that the live-state mask does not keep over a pre-emption (R44). -/
def AppCell.scrub (m : BitVec 128) (a : AppCell) (s : State) : AppCell × State :=
  scrubSp <| scrubX m (scrubT m (scrubA m (scrubB m (scrubM m (scrubK m (scrubV m (scrubS m (a, s))))))))

/-- Microprograms of resumed applications, then those the cell holds, as far as they fit (R99). -/
def refetch (need have' : List Tag) : List Tag :=
  (need ++ have'.filter (fun t => !need.contains t)).foldl (fun l t =>
    if (l.map Tag.lines).sum + t.lines ≤ 64 && l.length < 16 then l ++ [t] else l) []

/-- Puts a saved cell back. -/
def State.restoreCell (s : State) (as : List SavedArea) (mine : Nat → Bool) (f : Nat → Nat) (q : Nat × Cell) : State :=
  let need := as.filterMap (fun a => if a.area.cells.contains q.1 then a.area.tagIn q.2 else none)
  s.modCell (f q.1) (fun y =>
    { q.2.shift mine f (f q.1) with
      retired := y.retired
      marked := y.marked
      errs := y.errs
      due := y.due
      cache := refetch need y.cache
      serve := (as.filter (fun a => a.area.cells.contains q.1)).map SavedArea.id })

/-- An application of whose readouts software has changed the bytes: nothing of what they hold is promised (R357). -/
def AppCell.wild (a : AppCell) (s : State) : AppCell × State :=
  let (a, s) := a.scrub 0 s
  let (pc, s) := s.free 12
  let (rs, s) := a.rstk.foldl (fun (q : List Nat × State) _ => let (x, t) := q.2.free 12; (q.1 ++ [x.toNat], t)) ([], s)
  let (os, s) := a.out.foldl (fun (q : List OutSym × State) o => let (x, t) := q.2.free 64; (q.1 ++ [{ o with word := x }], t)) ([], s)
  ({ a with pc := pc.toNat, rstk := rs, out := os }, s)

/-- Puts a saved application back, the registers outside its mask unpredictable. -/
def State.restoreArea (s : State) (f : Nat → Nat) (wild : Bool) (x : SavedArea) : State :=
  let (apps, s) := x.area.apps.foldl (fun (q : Tbl AppCell × State) p =>
    let (a, t) := if wild then p.2.wild q.2 else p.2.scrub x.area.liveMask q.2
    (q.1 ++ [(p.1, a)], t)) (([] : Tbl AppCell), s)
  s.putArea x.id { { x.area with apps := apps }.shift f with phase := .running, moved := s.cyc }

/-- How the loading of an unloaded graph ends. -/
inductive Reload where
  | ok (s : State)
  | wait (s : State)
  | miss (va : Nat)
  | bad
  deriving DecidableEq, Repr

/-- The registers of a graph's nodes alone: a graph loaded anew holds nothing in its joins. -/
def Graph.ownRegs (g : Graph) : Tbl (List Int) :=
  g.regs.filterMap (fun p => if (p.2.take 1).all (· == 0) then none else some (p.1, p.2.take 1))

/-- One unloaded graph is loaded again from its image (R304). -/
def State.reloadGraph (s : State) (d h : Nat) (g : Graph) : Reload :=
  let base := g.fimg.toNat
  let miss (n : Nat) : Reload := .miss ((s.hubMiss d base n false).getD base)
  match s.hubRead d base 64 with
  | none => miss 64
  | some hd =>
    if !(GHead.ofBytes hd).fieldsOk hd then .bad
    else
      match s.hubRead d base (max 64 (isize hd)) with
      | none => miss (max 64 (isize hd))
      | some bs =>
        match graphHead bs with
        | .error _ => .bad
        | .ok gh =>
          match graphOf gh bs with
          | .error _ => .bad
          | .ok _ =>
            match s.allocSails g.die g.plane (g.sail0 / 16) gh.nsail with
            | .at sail t => .ok (t.putGraph d h { g with sail0 := sail, unloaded := false, regs := g.ownRegs })
            | .wait t => .wait t
            | .full _ => .bad

/-- The graphs of some handles are loaded again; true once none has to wait. One that cannot be loaded is lost. A plane is held for a graph
only while its compaction waits (R290). -/
def State.reloadGraphs (s : State) (d : Nat) : List Nat → Bool × State
  | [] => (true, s)
  | h :: hs =>
    let g := s.graphAt d h
    if g.lost then s.reloadGraphs d hs
    else
      match s.reloadGraph d h g with
      | .ok t => t.reloadGraphs d hs
      | .wait t => (false, t)
      | .miss va => (false, (s.setHold g.die g.plane false).hubFault d va false (.graph d h))
      | .bad => ((s.setHold g.die g.plane false).modGraph d h (fun g => { g with lost := true })).reloadGraphs d hs

/-- The graphs of a context that are back: lost ones end their operations with FAULT and free their handles; of the others the
registers that the state mask leaves out read 0 (R299, R304). -/
def State.settleGraphs (s : State) (d : Nat) : State :=
  (s.graphs.filter (fun p => p.1 / 256 == d && p.2.loaded)).foldl (fun s p =>
    let h := p.1 % 256
    if p.2.lost then
      let ops := s.cells.flatMap (fun c => (c.2.pend.filter (fun o => o.desc == d && o.kind.graphOf == some h)).map (fun o => (c.1, o)))
      let s := ops.foldl (fun s q => match q.2.kind with
        | .gcol _ _ _ _ _ _ => s.opDone q.1 q.2 [] 0 0 true
        | _ => s.fabFault q.1 q.2) s
      s.freeGraph d h
    else s.modGraph d h (fun g => { g with regs := g.restoreRegs (g.record (List.replicate 40 0)) })) s

/-- The hub's checks of an envelope (R357). -/
def envOk (size : Nat) (bs : List Byte) : Bool :=
  let f (o n : Nat) : Nat := leNat ((bs.drop o).take n)
  f 0 4 == 0x4C564E45 && f 4 2 == 1 &&
    (upto 0 5).all (fun k => decide (f (16 + 8 * k) 8 ≤ size) && decide (f (56 + 4 * k) 4 ≤ size))

/-! What is read back (R357, R358): the hub uses what it finds. -/

/-- A run of the context's memory, or the address that misses. -/
def State.hubRun (s : State) (d va n : Nat) : Except Nat (List Byte) :=
  match s.hubRead d va n with
  | some bs => .ok bs
  | none => .error ((s.hubMiss d va n false).getD va)

/-- `n` tile runs of an entry of section 0, and the address after them. -/
def State.runsBack (s : State) (d : Nat) (x : Cell) : Nat → Nat → Except Nat (List (TileRun × List Byte) × Nat)
  | 0, va => .ok ([], va)
  | n + 1, va =>
    match s.hubRun d va 8 with
    | .error e => .error e
    | .ok hd =>
      let off := fieldAt hd 0 4
      let len := fieldAt hd 4 4
      let fits := decide (off + len ≤ Config.tileBytes)
      match s.hubRun d (va + 8) (if fits then len else 0), s.runsBack d x n (va + alignUp (8 + len) 8) with
      | .error e, _ => .error e
      | _, .error e => .error e
      | .ok bs, .ok (l, e) =>
        let r := (x.tiles.find? (fun r => r.off == off && r.len == len)).getD ⟨off, len, none, false, 0⟩
        .ok (if fits then (r, bs) :: l else l, e)

/-- The cell of an entry of section 0 as it is read back, and the address after it; a cell has eight slots and its tile bytes only. -/
def State.cellBack (s : State) (d : Nat) (x : Cell) (va : Nat) : Except Nat (Cell × Nat) :=
  match s.hubRun d va 8 with
  | .error e => .error e
  | .ok hd =>
    let n := fieldAt hd 0 8 % 16
    match s.hubRun d (va + 8) (8 * n), s.runsBack d x (fieldAt hd 0 8 / 16 % 4096) (va + 8 + 8 * n) with
    | .error e, _ => .error e
    | _, .error e => .error e
    | .ok ws, .ok (l, e) =>
      .ok ({ x with
        slots := (upto 0 (min n 8)).map (fun k => BitVec.ofNat 64 (fieldAt ws (8 * k) 8))
        tiles := l.map (·.1)
        ts := l.foldl (fun t q => tsetRun 0 t q.1.off q.2) x.ts }, e)

/-- The cells of a span from section 0 as it is read back. -/
def State.cellsBack (s : State) (d : Nat) : Nat → List (Nat × Cell) → Except Nat (List (Nat × Cell))
  | _, [] => .ok []
  | va, q :: qs =>
    match s.cellBack d q.2 va with
    | .error e => .error e
    | .ok (x, va) => (s.cellsBack d va qs).map ((q.1, x) :: ·)

/-- The save image as it is read back: the cells of section 0; whether software has changed section 1 or 3; and each graph's freeze
record where section 4 has changed. -/
structure EnvBack where
  cells  : List (Nat × Cell)
  apps   : Bool
  chans  : Bool
  graphs : List (Nat × List Byte)
  deriving DecidableEq, Repr

/-- The freeze records of section 4, one after another. -/
def State.recordsBack (s : State) (d : Nat) : Nat → List (Nat × Graph) → Except Nat (List (Nat × List Byte))
  | _, [] => .ok []
  | va, q :: qs =>
    match s.hubRun d va q.2.recordSize with
    | .error e => .error e
    | .ok bs => (s.recordsBack d (va + q.2.recordSize) qs).map ((q.1, bs) :: ·)

/-- Whether section `k`, found where the header has it, is not what was written. -/
def State.changed (s : State) (d base : Nat) (hd : List Byte) (k : Nat) : Except Nat Bool :=
  let was := (s.ctxAt d).written.getD k []
  (s.hubRun d (base + fieldAt hd (16 + 8 * k) 8) was.length).map (· != was)

/-- The save image of a context behind its header. The waits of section 2 stand registered all along (R263). -/
def State.readBack (s : State) (d base : Nat) (hd : List Byte) : Except Nat EnvBack :=
  let c := s.ctxAt d
  let at' (k : Nat) : Nat := base + fieldAt hd (16 + 8 * k) 8
  let gs := (s.graphs.filter (fun p => p.1 / 256 == d && p.2.loaded)).map (fun p => (p.1 % 256, p.2))
  match s.changed d base hd 0, s.changed d base hd 1, s.changed d base hd 3, s.changed d base hd 4 with
  | .ok c0, .ok c1, .ok c3, .ok c4 =>
    (match (if c0 then s.cellsBack d (at' 0) c.saved else .ok c.saved), (if c4 then s.recordsBack d (at' 4) gs else .ok []) with
     | .ok cells, .ok graphs => .ok ⟨cells, c1, c3, graphs⟩
     | .error e, _ => .error e
     | _, .error e => .error e)
  | .error e, _, _, _ => .error e
  | _, .error e, _, _ => .error e
  | _, _, .error e, _ => .error e
  | _, _, _, .error e => .error e

/-- Channels of whose state software has changed the bytes: their counters are not promised (R357). -/
def State.wildChans (s : State) (d : Nat) : State :=
  (s.chansOf d).foldl (fun s p =>
    let x := s.chanAt p.1 p.2
    let some' (s : State) (n : Nat) : Tbl (BitVec 32) × State :=
      (upto 0 n).foldl (fun (q : Tbl (BitVec 32) × State) k => let (v, t) := q.2.free 32; (tset 0 q.1 k v, t)) ([], s)
    let (pc, s) := s.free 12
    let (sg, s) := s.free 32
    let (c, s) := some' s 4
    let (tx, s) := some' s x.ranks.length
    let (rx, s) := some' s x.ranks.length
    s.putChan p.1 p.2 { x with pc := pc.toNat, sgc := sg, c := c, tx := tx, rx := rx }) s

/-- Graphs thawed from freeze records that were read back (R300, R359). -/
def State.thawBack (s : State) (d : Nat) (l : List (Nat × List Byte)) : State :=
  l.foldl (fun s q =>
    let g := s.graphAt d q.1
    if !g.loaded then s
    else
    let (z, s) := s.frzOf g ((q.2.drop 24).take 40)
    s.putGraph d q.1 { g.thaw z q.2 with frozen := g.frozen }) s

/-- The operations that a context brings back stand in their planes' queues by their issue, before a younger `gld` that waits for a compaction:
no plane of theirs is held for it until it is at the head again (R290, R302). -/
def State.unholdFor (s : State) (d : Nat) : State :=
  (s.cells.flatMap (fun p => (p.2.pend.filter (fun o => o.desc == d && o.planeEntry)).map PendOp.que)).foldl
    (fun s r => s.setHold (r / 4) (r % 4) false) s

/-- A context whose graphs are all loaded comes back into the strands from `st` on. -/
def State.comeBack (s : State) (d st : Nat) (e : EnvBack) : State :=
  let c := s.ctxAt d
  let f := shifted (Config.strandCells * c.start) (Config.strandCells * c.len) (Config.strandCells * st)
  let ids := c.savedOps
  let mine (id : Nat) : Bool := ids.contains id
  let s := s.modCtx d (fun c => { c with pre := .none, start := st, saved := [], savedA := [], written := [], placed := s.cyc })
  let s := e.cells.foldl (fun s q => s.restoreCell c.savedA mine f q) s
  let s := c.savedA.foldl (fun s a => s.restoreArea f e.apps a) s
  let s := ((s.shiftRefs d mine f).settleGraphs d).thawBack d e.graphs
  let s := (if e.chans then s.wildChans d else s).failKept d
  ((((s.thawGraphs d).unpauseChans d).completeVoids d |>.wakeBays d).finishPre c.pre.op).unholdFor d

/-- A resumption into the strands from `st` on; it waits, still out, while a graph cannot be loaded yet. -/
def State.resumeAt (s : State) (d st : Nat) : State :=
  let c := s.ctxAt d
  let x := s.descUse d
  match s.hubRead d x.envbase.toNat 256 with
  | none => s.hubFault d ((s.hubMiss d x.envbase.toNat 256 false).getD x.envbase.toNat) false (.hubCtx d)
  | some hd =>
    if !envOk x.envsize.toNat hd then
      match s.writeTrap d (rowTrap 1) with
      | .error va => s.hubFault d va true (.hubCtx d)
      | .ok (n, t) => t.stopCtx d (.rowInt n)
    else
      match s.readBack d x.envbase.toNat hd with
      | .error va => s.hubFault d va false (.hubCtx d)
      | .ok e =>
      let hs := (s.graphs.filter (fun p => p.1 / 256 == d && p.2.unloaded)).map (fun p => p.1 % 256)
      let (all, t) := (s.modCtx d (fun c => { c with pre := .none })).reloadGraphs d hs
      let t := t.modCtx d (fun x => { x with pre := c.pre })
      if all then t.comeBack d st e else t

end Sys2Proof.Machine
end

