-- ==== Sys2Proof/Machine/Layout.lean ====
section
/-! DEFINITION. The storage algorithm (R19 to R22, R80 to R82, R85, R89, R90, R384): where each symbol and tile goes, which
strands a growth takes, and what is spilled. -/

namespace Sys2Proof.Machine

open Sys2Proof

/-! ### Symbols to be placed -/

/-- A symbol on its way through S: its word, the cell it stands in (or is emitted in), where it stood before, the tile it
names (cell and offset; from 8,192 on the tiles of an image), which copy of that tile it shares where sharers have been split (R22: the
emission cell and the group, none for the tile itself), the bytes of a tile that stands in no cell, and the area it belongs to. -/
structure PSym where
  word  : Word
  home  : Nat
  tile  : Option (Nat × Nat)
  copy  : Option (Nat × Nat)
  fresh : List Byte
  area  : Option Nat
  old   : Option (Nat × Nat)
  deriving DecidableEq, Repr

def PSym.len (y : PSym) : Nat := if isTile y.word then tileLen y.word else 0

/-- A symbol with its tile in cell `t`, and one with its tile's bytes. -/
def PSym.held (w : Word) (home t : Nat) (area : Option Nat) : PSym :=
  { word := w, home := home, tile := if isTile w then some (t, tileOff w) else none, copy := none, fresh := [], area := area, old := none }

def PSym.unheld (w : Word) (home : Nat) (bs : List Byte) (area : Option Nat) : PSym :=
  { word := w, home := home, tile := none, copy := none, fresh := bs, area := area, old := none }

/-- The replacement of an area by its fate, in row order (R25, R28, R29, R77, R132, R339, R341). The one symbol that replaces an application
by a tree rewrite stands in the area's first cell (assumption 111, DESIGN CHOICE). -/
def State.replacementOf (s : State) (i : Nat) (a : Area) : List PSym :=
  let one (w : Word) (c : Nat) : PSym := PSym.held w c c (some i)
  let same : List PSym := a.syms.map (fun y => one y.word y.cell)
  match a.fate with
  | .none => same
  | .one w => [one w a.first]
  | .replaced => a.cells.flatMap (fun c => (a.appAt c).out.map (fun o => PSym.held o.word c o.tcell (some i)))
  | .sysRepl l => l.map (fun q => PSym.held q.2.word q.1 q.2.tcell (some i))
  | .restored l => l.map (fun q => PSym.unheld q.1 a.first q.2 (some i))
  | .awaitTok tid =>
    [one symOpen a.first, one (symOper true opAwait 0) a.first, one symSeq a.first, one (symToken tid) a.first] ++ same ++
      [one symEnd a.last, one symClose a.last]
  | .trapped n =>
    if s.trapid a.desc = 0 then [one (symError errTRAP n) a.first]
    else
      [one symOpen a.first, one (symOper true opTrapop 0) a.first, one symSeq a.first, one (symInt n) a.first] ++
        (match same with | y :: ys => { y with word := symHeld } :: ys | [] => []) ++ [one symEnd a.last, one symClose a.last]

/-- The sharers of a tile that are emitted, or stand, in one cell: in groups of 8 in their order, of which each but the first shares a copy
of its own (R22). -/
def splitSharers : List PSym → List PSym → List PSym
  | _, [] => []
  | ys, y :: r =>
    let n := (ys.filter (fun z => z.home == y.home && z.tile == y.tile)).length / 8
    { y with copy := if y.tile.isSome && n ≠ 0 then some (y.home, n) else none } :: splitSharers (ys ++ [y]) r

/-- The symbols of a context after X: every area of the sweep replaced, the others as they stand. -/
def State.afterX (s : State) (d : Nat) (is : List Nat) : List PSym :=
  let as := (is.map (fun i => (i, s.areaAt i))).filter (fun p => p.2.desc == d)
  let kept := s.areas.filter (fun p => p.2.live && p.2.desc == d && p.2.phase != .waiting && !is.contains p.1)
  let stands (y z : SymAt) : Bool := y.cell == z.cell && y.slot == z.slot
  splitSharers [] <| (s.exprOf d).flatMap (fun y =>
    match as.find? (fun p => p.2.syms.any (stands y)) with
    | none =>
      let own := (kept.find? (fun p => p.2.syms.any (stands y))).map (·.1)
      [{ PSym.held y.word y.cell y.cell own with old := some (y.cell, y.slot) }]
    | some (i, a) => if (a.syms.head?.map (stands y)) == some true then s.replacementOf i a else [])

/-! ### One cell -/

/-- Tile capacity of a cell. -/
def Cell.cap (x : Cell) : Nat := if x.retired then 0 else Config.tileBytes - 16 * x.bridles.length

/-- The sharers of `y`'s tile among symbols already placed in a cell. -/
def sharersIn (ys : List PSym) (y : PSym) : Nat := (ys.filter (fun z => z.tile.isSome && z.tile == y.tile && z.copy == y.copy)).length

/-- The tile bytes that `y` adds to a cell in which `ys` are placed: none when a sharer is there, but for every ninth (R22). -/
def newBytes (ys : List PSym) (y : PSym) : Nat := if sharersIn ys y % 8 = 0 then y.len else 0

def demand : List PSym → List PSym → Nat
  | _, [] => 0
  | ys, y :: r => newBytes ys y + demand (ys ++ [y]) r

/-- A tile that a cell must hold: its place in the order of symbols, its source and which copy of it, its length, its bytes. -/
structure Share where
  syms  : List Nat
  tile  : Option (Nat × Nat)
  copy  : Option (Nat × Nat)
  len   : Nat
  fresh : List Byte
  deriving DecidableEq, Repr

/-- The tiles of a cell's symbols: sharers in groups of 8, in symbol order. -/
def sharesOf : Nat → List Share → List PSym → List Share
  | _, gs, [] => gs
  | k, gs, y :: ys =>
    if !isTile y.word then sharesOf (k + 1) gs ys
    else
      match gs.find? (fun g => g.tile.isSome && g.tile == y.tile && g.copy == y.copy && decide (g.syms.length < 8)) with
      | some g => sharesOf (k + 1) (gs.map (fun h => if h == g then { h with syms := h.syms ++ [k] } else h)) ys
      | none => sharesOf (k + 1) (gs ++ [{ syms := [k], tile := y.tile, copy := y.copy, len := y.len, fresh := y.fresh }]) ys

/-- The share that keeps its bytes in cell `c`: the first one of a tile that stands there. -/
def stays (c : Nat) (gs : List Share) (g : Share) : Bool :=
  match g.tile with
  | some (t, _) => t == c && g.copy.isNone && ((gs.find? (fun h => h.tile == g.tile && h.copy.isNone)).map (fun h => h == g)).getD false
  | none => false

/-- The lowest free offset among runs given by offset and length. -/
def lowestFree (runs : List (Nat × Nat)) (len : Nat) : Option Nat :=
  let cand := (0 :: runs.map (fun r => alignUp (r.1 + r.2) 32)).filter (fun o =>
    decide (o + len ≤ Config.tileBytes) && runs.all (fun r => decide (o + len ≤ r.1) || decide (r.1 + r.2 ≤ o)))
  cand.foldl (fun b o => match b with | none => some o | some m => some (min m o)) none

/-- Gives shares their offsets one after another. -/
def offsets : List (Nat × Nat) → List Share → Option (List (Share × Nat))
  | _, [] => some []
  | runs, g :: gs =>
    match lowestFree runs g.len with
    | none => none
    | some o => (offsets ((o, g.len) :: runs) gs).map ((g, o) :: ·)

/-- Runs of a cell that cannot move: pinned ones, and those of an area that lives outside this sweep. -/
def State.unmoved (s : State) (is : List Nat) (x : Cell) : List TileRun :=
  x.tiles.filter (fun r => r.pin != 0 || (match r.alloc with | some i => s.alive i && !is.contains i | none => false))

/-- The shares of a cell with their offsets: what stays keeps its offset and arrivals take the lowest free one; where none is
free, the cell first compacts its tile store in symbol order. -/
def State.shareOffsets (s : State) (is : List Nat) (c : Nat) (gs : List Share) : Option (List (Share × Nat)) :=
  let x := s.cellAt c
  let offOf (g : Share) : Nat := match g.tile with | some q => q.2 | none => 0
  let keep := gs.filter (stays c gs)
  let come := gs.filter (fun g => !stays c gs g)
  let rigid := s.unmoved is x
  let rigidRuns := rigid.map (fun r => (r.off, r.len))
  let extra := rigidRuns.filter (fun r => !keep.any (fun g => offOf g == r.1))
  match offsets (extra ++ keep.map (fun g => (offOf g, g.len))) come with
  | some l => some (keep.map (fun g => (g, offOf g)) ++ l)
  | none =>
    let firm := keep.filter (fun g => rigid.any (fun r => r.off == offOf g))
    let loose := keep.filter (fun g => !rigid.any (fun r => r.off == offOf g))
    (offsets rigidRuns (loose ++ come)).map (fun l => firm.map (fun g => (g, offOf g)) ++ l)

/-- The bytes of a share, and which of them are uncorrectable. -/
def State.shareBytes (s : State) (g : Share) : List Byte × List Nat :=
  match g.tile with
  | some (t, o) =>
    let x := s.cellAt t
    if Config.cells ≤ t then (g.fresh, [])
    else (x.tread o g.len, (x.bad.filter (fun p => decide (o ≤ p) && decide (p < o + g.len))).map (· - o))
  | none => (g.fresh, [])

/-- A cell that holds these symbols and no others; none where they do not fit. -/
def State.layCell (s : State) (is : List Nat) (c : Nat) (ys : List PSym) : Option Cell :=
  let x := s.cellAt c
  if 8 < ys.length || (x.retired && !ys.isEmpty) || x.cap < demand [] ys then none
  else
    let gs := sharesOf 0 [] ys
    match s.shareOffsets is c gs with
    | none => none
    | some l =>
      let offAt (k : Nat) : Option Nat := (l.find? (fun q => q.1.syms.contains k)).map (·.2)
      let words := (ys.zip (upto 0 ys.length)).map (fun q =>
        match offAt q.2 with
        | some o => if isTile q.1.word then withOff q.1.word o else q.1.word
        | none => q.1.word)
      let run (q : Share × Nat) : TileRun :=
        let pin := match x.runAt q.2 with | some r => if stays c gs q.1 then r.pin else 0 | none => 0
        { off := q.2, len := q.1.len, alloc := none, emitted := true, pin := pin }
      let rest := (s.unmoved is x).filter (fun r => !l.any (fun q => q.2 == r.off))
      let move (y : Cell) (q : Share × Nat) : Cell :=
        if stays c gs q.1 && (match q.1.tile with | some t => t == (c, q.2) | none => false) then y
        else
          let (bs, bad) := s.shareBytes q.1
          let z := y.twrite q.2 bs
          { z with bad := z.bad ++ bad.map (· + q.2) }
      let y := l.foldl move x
      some { y with slots := words, tiles := rest ++ l.map run }

/-! ### Local fit and re-lay (R81, R82) -/

/-- The cells a storage phase reaches, of a context's span. -/
structure Reach where
  cells : List Nat
  lo    : Nat
  hi    : Nat
  deriving DecidableEq, Repr

def State.reachOf (s : State) (d : Nat) (bs : List Nat) (granted : List Nat) : Reach :=
  let c := s.ctxAt d
  { cells := (upto c.firstCell (c.endCell - c.firstCell)).filter (fun x => inBays bs x || granted.contains (strandOf x))
    lo := c.firstCell
    hi := c.endCell }

def Reach.covers (r : Reach) (lo hi : Nat) : Bool := (upto lo (hi - lo)).all r.cells.contains

/-- The candidate ranges for cells `a` to `b`: the nodes over them within reach, then the whole span. -/
def Reach.candidates (r : Reach) (a b : Nat) : List (Nat × Nat) :=
  let nodes := (upto 1 13).filterMap (fun h =>
    let n := 2 ^ h
    if a / n = b / n then some (a / n * n, a / n * n + n) else none)
  ((nodes.filter (fun q => decide (r.lo ≤ q.1) && decide (q.2 ≤ r.hi))) ++ [(r.lo, r.hi)]).filter (fun q => r.covers q.1 q.2)

def inRange (lo hi : Nat) (y : PSym) : Bool := decide (lo ≤ y.home) && decide (y.home < hi)

/-- The walk of R82: cells still to fill with their places, symbols with theirs; `got` is what the current cell holds. -/
def layWalk (n k : Nat) : Nat → List (Nat × Nat × Nat) → List PSym → List (Nat × PSym) → Option (List PSym)
  | 0, _, _, _ => none
  | _, _, _, [] => some []
  | _, [], _, _ :: _ => none
  | fuel + 1, (i, c, cap) :: cs, got, (j, y) :: ys =>
    if j < (i + 1) * n / k && got.length < 8 && demand [] got + newBytes got y ≤ cap then
      (layWalk n k fuel ((i, c, cap) :: cs) (got ++ [y]) ys).map ({ y with home := c } :: ·)
    else layWalk n k fuel cs [] ((j, y) :: ys)

/-- A symbol that stays in its cell: an operation in flight pins its tile (R116), or it belongs to an application that is
not over. -/
def State.pinned (s : State) (is : List Nat) (y : PSym) : Bool :=
  (match y.area with | some j => !is.contains j | none => false) ||
    (match (if y.copy.isSome then none else y.tile) with
     | some (t, o) => (match (s.cellAt t).runAt o with | some r => r.pin != 0 | none => false)
     | none => false)

/-- The symbols of a range after a re-lay; none where it fails. -/
def State.relay (s : State) (is : List Nat) (lo hi : Nat) (l : List PSym) : Option (List PSym) :=
  let ys := l.filter (inRange lo hi)
  let cs := (upto lo (hi - lo)).filter (fun c => !(s.cellAt c).retired)
  let n := ys.length
  let k := cs.length
  if 8 * k < n || (cs.map (fun c => (s.cellAt c).cap)).sum < (cs.map (fun c => demand [] (ys.filter (fun y => y.home == c)))).sum then none
  else
    match layWalk n k (n + k + 1) ((upto 0 k).zip (cs.map (fun c => (c, (s.cellAt c).cap)))) [] ((upto 0 n).zip ys) with
    | none => none
    | some zs =>
      if (ys.zip zs).any (fun q => s.pinned is q.1 && q.1.home != q.2.home) ||
          !cs.all (fun c => (s.layCell is c (zs.filter (fun y => y.home == c))).isSome) then none
      else some (l.filter (fun y => decide (y.home < lo)) ++ zs ++ l.filter (fun y => decide (hi ≤ y.home)))

/-- Local fit of cells. -/
def State.fitsIn (s : State) (is : List Nat) (l : List PSym) (cs : List Nat) : Bool :=
  cs.all (fun c => (s.layCell is c (l.filter (fun y => y.home == c))).isSome)

/-- Ranges that lie in no other one of a list. -/
def outermost (rs : List (Nat × Nat)) : List (Nat × Nat) :=
  let once := rs.eraseDups
  once.filter (fun r => !once.any (fun q => q != r && decide (q.1 ≤ r.1) && decide (r.2 ≤ q.2)))

/-- Re-lays each of some ranges. -/
def State.relays (s : State) (is : List Nat) : List (Nat × Nat) → List PSym → Option (List PSym)
  | [], l => some l
  | r :: rs, l => (s.relay is r.1 r.2 l).bind (s.relays is rs)

/-- Steps 1 and 2 of R81 for runs of cells: the symbols placed, and the ranges re-laid. -/
def State.placeIn (s : State) (is : List Nat) (r : Reach) (l : List PSym) (as : List (List Nat)) :
    Option (List PSym × List (Nat × Nat)) :=
  let late := as.filter (fun cs => !s.fitsIn is l cs)
  match allSome (late.map (fun cs =>
      (r.candidates (cs.headD 0) (cs.getLastD 0)).find? (fun q => (s.relay is q.1 q.2 l).isSome))) with
  | none => none
  | some qs => let rs := outermost qs; (s.relays is rs l).map (fun l => (l, rs))

/-! ### Growth (R85) -/

/-- A strand that no span holds, or is about to hold, and that may be granted. -/
def State.freeStrand (s : State) (k : Nat) : Bool :=
  decide (k < Config.pagerStrand) && !s.ctxs.any (fun p => p.2.inRow && decide (p.2.start ≤ k) && decide (k < p.2.start + p.2.len)) &&
    (match s.moving with
     | some (d, st) => decide (k < st) || decide ((s.ctxAt d).start ≤ k)
     | none => true)

/-- Free strands that follow one another from `k` on, and down from `k`. -/
def State.freeUp (s : State) : Nat → Nat → Nat
  | 0, _ => 0
  | n + 1, k => if s.freeStrand k then s.freeUp n (k + 1) + 1 else 0

def State.freeDown (s : State) : Nat → Nat
  | 0 => 0
  | k + 1 => if s.freeStrand k then s.freeDown k + 1 else 0

def State.freeTotal (s : State) : Nat := ((upto 0 Config.pagerStrand).filter s.freeStrand).length

/-- The span of a context with `g` adjacent strands more, right side first; none when they are not free. -/
def State.grown (s : State) (d g : Nat) : Option (Nat × Nat) :=
  let c := s.ctxAt d
  let r := min g (s.freeUp g (c.start + c.len))
  let l := g - r
  if l ≤ s.freeDown c.start then some (c.start - l, c.len + g) else none

def State.working (s : State) (lo n : Nat) : List Nat := (upto lo n).filter (fun c => !(s.cellAt c).retired)

/-- `g` more strands would hold the expression. -/
def State.growthFits (s : State) (d : Nat) (l : List PSym) (g : Nat) : Bool :=
  let c := s.ctxAt d
  let (st, n) := (s.grown d g).getD (c.start, c.len)
  let more := if (s.grown d g).isSome then 0 else Config.strandCells * g
  let cs := s.working (Config.strandCells * st) (Config.strandCells * n)
  let nby := ((l.map PSym.home).eraseDups.map (fun x => demand [] (l.filter (fun y => y.home == x)))).sum
  decide (l.length ≤ (cs.length + more) * 6) && decide (nby ≤ (cs.map (fun x => (s.cellAt x).cap)).sum + more * Config.tileBytes)

/-- What growth comes to: granted, or refused for good beyond `maxstr`, or a request that waits. One asked for again while it waits
keeps the time of its first S and takes the newest g (R85; assumption 107, DESIGN CHOICE). It asks for at least one strand where R85's inequalities
hold for the span as it is (assumption 110, DESIGN CHOICE). -/
def State.growth (s : State) (d : Nat) (l : List PSym) : State × List Nat :=
  let c := s.ctxAt d
  match (upto 1 127).find? (s.growthFits d l) with
  | none => (s, [])
  | some g =>
    if (s.descUse d).maxstr.toNat < c.len + g then (s, [])
    else
      match s.grown d g with
      | some (st, n) => (s.modCtx d (fun c => { c with start := st, len := n, grow := none }),
          (upto st n).filter (fun k => decide (k < c.start) || decide (c.start + c.len ≤ k)))
      | none => (s.modCtx d (fun c => { c with grow := some ((c.grow.map (·.1)).getD s.cyc, g) }), [])

/-! ### Spilling (R89, R90) -/

/-- The record of a run: words, tile table, tiles. -/
def State.spillBytes (s : State) (run : List PSym) : List Byte :=
  let n := run.length
  let tiles := run.filter (fun y => isTile y.word)
  let start := alignUp (8 * (n + tiles.length)) 32
  let offs := tiles.foldl (fun (q : List Nat × Nat) y => (q.1 ++ [q.2], q.2 + alignUp y.len 32)) ([], start)
  let words := run.foldl (fun (q : List Byte × Nat) y =>
    if isTile y.word then (q.1 ++ leBytes 8 (withOff y.word q.2).toNat, q.2 + 1) else (q.1 ++ leBytes 8 y.word.toNat, q.2)) ([], 0)
  let bytes (y : PSym) : List Byte := match y.tile with
    | some (t, o) => if Config.cells ≤ t then y.fresh else (s.cellAt t).tread o y.len
    | none => y.fresh
  let head := words.1 ++ offs.1.flatMap (leBytes 8)
  if tiles.isEmpty then head
  else head ++ List.replicate (start - head.length) 0 ++ tiles.flatMap (fun y => bytes y ++ List.replicate (alignUp y.len 32 - y.len) 0)

/-- A record's place in a ring of `size` bytes, and the bytes skipped before it; none when there is too little contiguous room. An
empty ring has none in use. -/
def Ctx.ringPlace (c : Ctx) (size len : Nat) : Option (Nat × Nat) :=
  let (off, skip) := if c.rtail + len ≤ size then (c.rtail, 0) else (0, if c.spills.isEmpty then 0 else size - c.rtail)
  let used := (c.spills.map (fun r => r.len + r.skip)).sum
  if used + skip + len ≤ size then some (off, skip) else none

/-- Bytes skipped at the end of the store go with the record before them. -/
def skipAfter (n : Nat) : List SpillRec → List SpillRec
  | [] => []
  | [r] => [{ r with skip := r.skip + n }]
  | r :: rs => r :: skipAfter n rs

/-- Spill traffic goes through the stage cache of the bay that holds the run, in the order of a copy (R89). -/
def State.spillWrite (s : State) (d b va : Nat) (bs : List Byte) : Option State :=
  (s.hubEnts d true (upto va bs.length)).map (fun l =>
    (s.keepLines (some b) 0 true l).writeAll (Party.ofBay b) .copy 0 Config.cells 0 d ((l.map paOf).zip bs))

/-- The first index of the element that ends at index `p` of a list of words. -/
def elemStart (ws : List Word) (p : Nat) : Option Nat :=
  let w := ws.getD p 0
  if isOpener w then none
  else if !isCloser w then some p
  else
    let back := (upto 0 p).reverse
    (back.foldl (fun (q : Nat × Option Nat) i =>
      match q.2 with
      | some _ => q
      | none =>
        let v := ws.getD i 0
        if isCloser v then (q.1 + 1, none)
        else if isOpener v then (if q.1 = 0 then (0, some i) else (q.1 - 1, none))
        else q) (0, none)).2

/-- A symbol that no spill may take: of an area, of a guard, fenced, or out of reach. -/
def State.unspilled (s : State) (d : Nat) (r : Reach) (l : List PSym) : List Bool :=
  let gs := guardPlaces (l.map PSym.word)
  let waits := s.areas.flatMap (fun p =>
    if p.2.live && p.2.phase == .waiting && p.2.desc == d then p.2.syms.map (fun y => (y.cell, y.slot)) else [])
  (l.zip (upto 0 l.length)).map (fun q =>
    q.1.area.isSome || gs.contains q.2 || s.fencedRange q.1.home q.1.home || s.pinned [] q.1 || !r.cells.contains q.1.home ||
      (match q.1.old with | some o => waits.contains o | none => false))

/-- What a spill works on: the symbols left, and the state with the records written. -/
structure Spilled where
  syms : List PSym
  st   : State
  deriving DecidableEq, Repr

/-- How a spill ends. -/
inductive SpillEnd where
  | done (x : Spilled) (l : List PSym) (rs : List (Nat × Nat))
  | full
  | miss (va : Nat)
  deriving DecidableEq, Repr

/-- A run replaced by a stub. -/
def stubbed (l : List PSym) (a b : Nat) (w : Word) : List PSym :=
  l.take a ++ [PSym.held w ((l[a]?.map PSym.home).getD 0) 0 none] ++ l.drop (b + 1)

/-- Closes a run: its record is written, through the stage cache of the bay of its first symbol (R89; assumption 112, DESIGN CHOICE), its stub
put in its place. -/
def State.closeRun (s : State) (d : Nat) (src : State) (l : List PSym) (a z : Nat) : Except SpillEnd Spilled :=
  let run := (l.drop a).take (z + 1 - a)
  let bs := src.spillBytes run
  let x := s.descUse d
  let b := bayOf ((run.head?.map PSym.home).getD 0)
  match (s.ctxAt d).ringPlace x.spsize.toNat bs.length with
  | none => .error .full
  | some (off, skip) =>
    let va := x.spbase.toNat + off
    match s.spillWrite d b va bs with
    | none => .error (.miss ((s.hubMiss d va bs.length true).getD va))
    | some t =>
      .ok { syms := stubbed l a z (symSpill run.length (off / 8))
            st := t.modCtx d (fun c => { c with
              rtail := off + bs.length
              spills := skipAfter skip c.spills ++
                [{ off := off, len := bs.length, skip := 0, kinds := run.map (fun y => if isTile y.word then some y.len else none), bay := b }] }) }

/-- Step 4 of R81: whole elements from the right end of the reach, until `test` passes. -/
def State.spill (s : State) (d : Nat) (r : Reach) (test : List PSym → Option (List PSym × List (Nat × Nat))) :
    Nat → Spilled → Nat → Option (Nat × Nat) → SpillEnd
  | 0, _, _, _ => .full
  | fuel + 1, x, p, run =>
    match p with
    | 0 => .full
    | q + 1 =>
      let l := x.syms
      let no := s.unspilled d r l
      let take := match elemStart (l.map PSym.word) q with
        | some a => if ((no.drop a).take (q + 1 - a)).any id then none else some a
        | none => none
      match take with
      | some a =>
        let b := match run with | some (_, b) => b | none => q
        if (test (stubbed l a b (symSpill 1 0))).isSome then
          (match x.st.closeRun d s l a b with
           | .error e => e
           | .ok y => (match test y.syms with | some (l, rs) => .done y l rs | none => .full))
        else s.spill d r test fuel x a (some (a, b))
      | none =>
        match run with
        | none => s.spill d r test fuel x q none
        | some (a, b) =>
          match x.st.closeRun d s l a b with
          | .error e => e
          | .ok y => s.spill d r test fuel y q none

end Sys2Proof.Machine
end

