-- ==== Sys2Proof/Machine/Storage.lean ====
section
/-! DEFINITION. The phase S (R80 to R83, R90, R91, R384) and the end of a shift (R83, R236). -/

namespace Sys2Proof.Machine

open Sys2Proof

/-! ### Restore (R91) -/

/-- The stub words of a context's records, oldest first. -/
def SpillRec.stub (r : SpillRec) : Word := symSpill r.count (r.off / 8)

/-- Symbols that stand for the restored ones, in their order: only their bytes count. -/
def restored (h : Nat) (r : SpillRec) : List PSym :=
  r.kinds.map (fun k => match k with
    | some n => PSym.unheld (symWord 8 (n * 2 ^ 19)) h (List.replicate n 0) none
    | none => PSym.held symNil h 0 none)

/-- `<restore s>` around the oldest stub of a context, where room for its run has returned: the symbols, and the ranges
re-laid for the three added ones. For the room test the run's symbols stand after the CLOSE of `<restore s>` (R91; assumption
107, DESIGN CHOICE). -/
def State.formRestore (s : State) (is : List Nat) (c : Ctx) (r : Reach) (l : List PSym) : Option (List PSym × List PSym × List (Nat × Nat)) :=
  if c.restoring then none
  else
    match c.spills.find? (fun q => l.any (fun y => y.word == q.stub)) with
    | none => none
    | some q =>
      let k := l.findIdx (fun y => y.word == q.stub)
      let h := (l[k]?.map PSym.home).getD 0
      let one (w : Word) : PSym := PSym.held w h h none
      let open2 := [one symOpen, one (symOper true opRestore 0)]
      let test := l.take k ++ open2 ++ (l.drop k).take 1 ++ [one symClose] ++ restored h q ++ l.drop (k + 1)
      if !r.cells.contains h || !(r.candidates h h).any (fun q => (s.relay is q.1 q.2 test).isSome) then none
      else
        let l' := l.take k ++ open2 ++ (l.drop k).take 1 ++ [one symClose] ++ l.drop (k + 1)
        (s.placeIn is r l' [[h]]).map (fun x => (l', x.1, x.2))

/-! ### One context -/

/-- The ranges in which some symbol has moved. -/
def movedRanges (before after : List PSym) (rs : List (Nat × Nat)) : List (Nat × Nat) :=
  rs.filter (fun q => (before.zip after).any (fun p => inRange q.1 q.2 p.2 && p.1.home != p.2.home))

/-- The row as the placement leaves it: `s` is what stood before, `t` takes the new cells. -/
def State.settle (t s : State) (d : Nat) (is : List Nat) (r : Reach) (l : List PSym) : State :=
  let at' (c : Nat) : List PSym := l.filter (fun y => y.home == c)
  let cs := r.cells.filter (fun c => !(s.cellAt c).slots.isEmpty || !(s.cellAt c).tiles.isEmpty || l.any (fun y => y.home == c))
  let t := cs.foldl (fun t c => t.putCell c ((s.layCell is c (at' c)).getD (s.cellAt c))) t
  let tbl := (l.map PSym.home).eraseDups.flatMap (fun c => ((at' c).zip (upto 0 (at' c).length)).map (fun q => (q.1.old, c, q.2)))
  t.moveSyms d (fun c slot => (tbl.find? (fun q => q.1 == some (c, slot))).map (·.2))

/-- What S makes of a context: the new state, the ranges with moves, whether a `restore` was formed; or the address of the
spill ring or trap ring that does not translate. -/
abbrev Stored := Except Nat (State × List (Nat × Nat) × Bool)

/-- The ring frees the records of the `restore` applications that reduce in this S (R91). -/
def State.freeRestored (s : State) (d : Nat) (is : List Nat) : State :=
  is.foldl (fun s i =>
    let a := s.areaAt i
    match a.fate with
    | .restored _ => if a.desc == d then s.modCtx d (fun c => c.freeSpill (8 * spillWord ((a.operand.head?.map SymAt.word).getD 0))) else s
    | _ => s) s

def State.finishS (s : State) (d : Nat) (is : List Nat) (r : Reach) (x : Spilled) (l : List PSym) (rs : List (Nat × Nat)) : Stored :=
  let m := movedRanges x.syms l rs
  match s.formRestore is (x.st.ctxAt d) r l with
  | none => .ok (x.st.settle s d is r l, m, false)
  | some (l1, l2, rs2) =>
    .ok ((x.st.settle s d is r l2).modCtx d (fun c => { c with restoring := true }), outermost (m ++ movedRanges l1 l2 rs2), true)

/-- S for one context: local fit, re-lay, growth, spill (R81), and at the end R91. A growth that waits goes on waiting when a later S has no need
of it (R85; assumption 110, DESIGN CHOICE). When a record of a spill finds no room, the context stops as it stood before the spill: the records that
this spill has written are not in the ring (R90; assumption 111, DESIGN CHOICE). -/
def State.storeCtx (s : State) (d : Nat) (bs is : List Nat) : Stored :=
  if (s.ctxAt d).stopped then .ok (s, [], false)
  else
    let s := s.freeRestored d is
    let l := s.afterX d is
    let as := (is.filter (fun i => (s.areaAt i).desc == d)).map (fun i => (s.areaAt i).cells)
    let r := s.reachOf d bs []
    match s.placeIn is r l as with
    | some (l', rs) => s.finishS d is r ⟨l, s⟩ l' rs
    | none =>
      let (g, strands) := s.growth d l
      let r := g.reachOf d bs strands
      match (if strands.isEmpty then none else g.placeIn is r l as) with
      | some (l', rs) => g.finishS d is r ⟨l, g⟩ l' rs
      | none =>
        match g.spill d r (fun l => g.placeIn is r l as) (l.length + 1) ⟨l, g⟩ l.length none with
        | .done x l' rs => g.finishS d is r x l' rs
        | .miss va => .error va
        | .full =>
          match g.writeTrap d (rowTrap 2) with
          | .ok (n, t) => .ok (t.stopCtx d (.rowFull n), [], false)
          | .error va => .error va

/-- S for the contexts of some bays, in the order of their descriptors: where two ask for the same free strands the lower one takes them (R85;
assumption 112, DESIGN CHOICE). -/
def State.storeCtxs (s : State) (bs is : List Nat) : List Nat → Except (Nat × Nat) (State × List (Nat × Nat × Nat) × Bool)
  | [] => .ok (s, [], false)
  | d :: ds =>
    match s.storeCtx d bs is with
    | .error va => .error (d, va)
    | .ok (t, m, f) =>
      match t.storeCtxs bs is ds with
      | .error e => .error e
      | .ok (u, m', f') => .ok (u, m.map (fun q => (d, q.1, q.2 - 1)) ++ m', f || f')

/-! ### The phase -/

/-- Every area of the sweep is over; what a trap has stopped after its commit has no operation left (R340), and no row of a multicast
send is on its way. -/
def State.readyForS (s : State) (is : List Nat) : Bool :=
  is.all (fun i =>
    let a := s.areaAt i
    let own (o : PendOp) : Bool := o.area == i && o.det.isNone
    let rows (o : PendOp) : Bool := o.area == i && (match o.kind with
      | .msend _ _ _ _ => true
      | .mrecv g k _ => (a.mcSender g k).isSome
      | _ => false)
    a.phase == .over && a.cells.all (fun c => !(s.cellAt c).pend.any rows) &&
      (match a.fate with
       | .trapped _ => a.cells.all (fun c => !(s.cellAt c).pend.any own)
       | .one _ => a.cells.all (fun c => !(s.cellAt c).pend.any own)
       | _ => true))

/-- An innermost application that waits in some bays: its microprogram came too late, or it is fenced. -/
def State.waitsIn (s : State) (bs : List Nat) : Bool :=
  s.areas.any (fun p => p.2.live && p.2.phase == .waiting && p.2.bays.all bs.contains)

/-- The bays that a range of cells meets. -/
def baysOver (lo hi : Nat) : List Nat := upto (bayOf lo) (bayOf hi + 1 - bayOf lo)

/-- Each re-laid range is fenced in the bay of its first cell; a bay that symbols moved into has not reported them yet, and one
that does not sweep with the others has reason to start P (R75, R83, R84). -/
def State.fence (s : State) (bs : List Nat) (f : Nat × Nat × Nat) : State :=
  let t := s.modBay (bayOf f.2.1) (fun x => { x with fences := x.fences ++ [f] })
  t.modBays ((baysOver f.2.1 f.2.2).filter (fun b => !bs.contains b)) (fun x => { x with due := true, fresh := true })

/-- The cells of some bays serve the areas of a sweep no more, and those areas' bridle slots are free. -/
def State.dropServed (s : State) (bs is : List Nat) : State :=
  { s with cells := s.cells.map (fun p =>
      if inBays bs p.1 then
        (p.1, { p.2 with
          serve := p.2.serve.filter (fun i => !is.contains i)
          bridles := p.2.bridles.filter (fun q => !(match q.2.area with | some i => is.contains i | none => false)) })
      else p) }

def execStoragePhase (s : State) : Out :=
  let b := s.unit
  let bs := s.group b
  let is := s.areasIn bs
  .next (
    if 16 ≤ b || (s.bayAt b).phase != .exec || !s.readyForS is then s
    else
      let found := !is.isEmpty || s.waitsIn bs
      let s0 := s.dropServed bs is
      match s0.storeCtxs bs is (s0.ctxsIn bs) with
      | .error (d, va) => s.hubFault d va true (.hubCtx d)
      | .ok (t, fences, formed) =>
        let t : State := { t with areas := t.areas.filter (fun p => !is.contains p.1) }
        let t := t.modBays bs (fun x => { x with
          phase := .boundary
          join := []
          due := x.due || found || formed || !fences.isEmpty })
        let t := fences.foldl (fun t f => t.fence bs f) t
        ((t.ctxsIn bs).foldl (fun t d => if (t.ctxAt d).stopped then t else t.enterGuards d) t).report bs)

/-- Every symbol and tile bound for one re-laid range has landed: fence `unit / 16` of bay `unit % 16` is lifted. -/
def execShiftComplete (s : State) : Out :=
  let b := s.unit % 16
  let k := s.unit / 16
  .next (match (s.bayAt b).fences[k]? with
    | none => s
    | some f =>
      (s.modBay b (fun x => { x with fences := x.fences.eraseIdx k })).modBays (baysOver f.2.1 f.2.2) (fun x => { x with due := true }))

end Sys2Proof.Machine
end

