-- ==== Sys2Proof/Machine/Retirement.lean ====
section
/-! DEFINITION. The hub's reads and writes of context memory, refusals at the head of a queue (R62, R64, R367, R368), the
termination test (R364, R365), result readout and completion (R366 to R368), and the release of a context (R369). -/

namespace Sys2Proof.Machine

open Sys2Proof

/-! ### The hub's accesses to context memory (R62, R64, R344, R367) -/

/-- Why an access of the hub does not go through now: a fault that the pager serves, or a permission fault. -/
inductive HubMiss where
  | absent (va : Nat)
  | denied
  deriving DecidableEq, Repr

/-- The first byte of a run that does not translate, by kind; a run outside the context range never does (R146). -/
def State.hubBad (s : State) (d va n : Nat) (write : Bool) : Option HubMiss :=
  if va < 0x10000 || 2 ^ 54 < va + n then some .denied
  else
    match s.hubMiss d va n write with
    | none => none
    | some a =>
      match s.walk [] ⟨d, false⟩ a write with
      | .ok _ => none
      | .torn => some (.absent a)
      | .bad kind _ _ _ => some (if kind = 2 then .denied else .absent a)

def State.hubGet (s : State) (d va n : Nat) : Except HubMiss (List Byte) :=
  match s.hubBad d va n false with
  | some m => .error m
  | none => .ok ((s.hubRead d va n).getD [])

def State.hubPut (s : State) (d va : Nat) (bs : List Byte) : Except HubMiss State :=
  match s.hubBad d va bs.length true with
  | some m => .error m
  | none => .ok ((s.hubWrite d va bs).getD s)

/-! ### What every retirement does (R63, R65, R368) -/

/-- The status of a launch among the last 256 of its queue. -/
def Queue.retire (x : Queue) (seq : BitVec 32) (status : Nat) : Queue :=
  let l := x.retired ++ [(seq, status)]
  { x with retired := l.drop (l.length - 256) }

/-- Token ids of launch dependences (R65). -/
def depTok (i : Nat) : Nat := 0xFFFC + i

/-- The completion of a dependence: `nil`, or `err.FAULTED` where `depfail` is set and the status is not OK. -/
def depCompl (l : Launch) (i status : Nat) : Compl :=
  { flag := false, id := depTok i, exp := 0, sym := tokSym (l.lflags.getLsbD 2 && status != 0) }

/-- A checked `HOLD` record with `depfail` set, at the head of its queue, depends on a launch (R63; only `HOLD`: assumption 41). -/
def Queue.hangsOn (x : Queue) (q : Nat) (seq : BitVec 32) : Bool :=
  x.stage == .checked && (match x.head with | some l => !l.place && l.lflags.getLsbD 2 && l.deps.contains (q, seq) | none => false)

/-- A launch has retired with a status other than OK: every record that waits for it ends with DEPFAIL, decided at once (R63). Its
refusal is recorded as the hub comes to it. -/
def State.failDependents (s : State) (q : Nat) (seq : BitVec 32) (status : Nat) : State :=
  if status = 0 then s
  else ((s.queues.map (·.1)).filter (fun p => (s.queueAt p).hangsOn q seq)).foldl (fun s p =>
    ((s.unwatch (· == .hold p)).dropWaiter (.hubLaunch p)).modQueue p (fun x =>
      { x with stage := .refused 6, ifail := false, entered := [], watching := [] })) s

/-- A launch has retired: dependences of placed contexts on it complete their tokens, and those of waiting records fail with it. -/
def State.launchRetired (s : State) (q : Nat) (seq : BitVec 32) (status : Nat) : State :=
  let s := (s.modQueue q (fun x => x.retire seq status)).failDependents q seq status
  { s with ctxs := s.ctxs.map (fun p =>
      match p.2.launch with
      | some l =>
        if p.2.live && l.place && p.2.ending == .no then
          (p.1, ((l.deps.zip (upto 0 4)).filter (fun e => e.1 == (q, seq))).foldl (fun c e => c.post (depCompl l e.2 status)) p.2)
        else p
      | none => p) }

/-- The completion flag and the queue's vector (R368). -/
def State.notify (s : State) (l : Launch) : State :=
  let s := if l.lflags.getLsbD 0 then s.pokeNat (flagAddr l.cfidx) 8 l.cfval.toNat else s
  if l.lflags.getLsbD 1 then s.raiseBoth (s.queueAt l.q).vec.toNat else s

/-! ### Refusals (R62, R64, R367) -/

/-- The record at the head leaves its queue. -/
def Queue.consume (x : Queue) : Queue :=
  { x with cc := x.cc + 1, head := none, stage := .none, image := none, ifail := false, entered := [], watching := [] }

/-- A refused launch is consumed and has retired. -/
def State.consumeHead (s : State) (q : Nat) (seq : BitVec 32) (status : Nat) : State :=
  (s.modQueue q Queue.consume).launchRetired q seq status

/-- The completion record of a refusal: `cseq`, `cstat`, `cq` and `cend`, and in `cflg` bit 2 where the completion flag is written (R368);
every other field, `cstart` among them, is 0 (R367; assumption 42, DEDUCED). -/
def refusalRecord (l : Launch) (q st cyc : Nat) : List Byte :=
  leBytes 4 l.seq.toNat ++ leBytes 1 st ++ leBytes 1 q ++ leBytes 2 (if l.lflags.getLsbD 0 then 4 else 0) ++ leBytes 32 0 ++ leBytes 8 cyc ++ leBytes 16 0

/-- Writes the completion record of a refusal and ends the launch. -/
def State.refuseNow (s : State) (q : Nat) : State :=
  let x := s.queueAt q
  match x.head, x.stage with
  | some l, .refused st =>
    let fin (s : State) : State := (s.notify l).consumeHead q l.seq st
    if l.crec = 0 then fin s
    else if x.ifail then fin (s.queueError q 7)
    else
      (match s.hubBad l.ctxd l.crec.toNat 64 true with
       | some .denied => fin (s.queueError q 7)
       | some (.absent va) => s.hubFault l.ctxd va true (.hubLaunch q)
       | none =>
         fin ((s.hubWrite l.ctxd l.crec.toNat (refusalRecord l q st s.cyc)).getD s))
  | _, _ => s

/-- Ends the launch at the head with a status. -/
def State.refuse (s : State) (q status : Nat) : State :=
  let s := (s.unwatch (· == .hold q)).dropWaiter (.hubLaunch q)
  (s.modQueue q (fun x => { x with stage := .refused status, ifail := false, entered := [], watching := [] })).refuseNow q

/-! ### The termination test (R364, R365) -/

/-- A bay of the span reports normal form: its last P found it so, or it holds no symbol of the context. -/
def State.bayDone (s : State) (d b : Nat) : Bool :=
  (s.ctxAt d).normal.contains b || !(s.exprOf d).any (fun y => bayOf y.cell == b)

/-- A context is stopping: what it was stopped for stands, and its applications have not all ended yet. -/
def Ctx.stopping (c : Ctx) : Bool := !c.stopped && (c.stop.isSome || c.rowf.isSome)

/-- The conditions of a sample. -/
def State.sampleOk (s : State) (d : Nat) : Bool :=
  let c := s.ctxAt d
  c.live && c.ending == .no && c.pre == .none && !c.stopping && c.esent == c.eland &&
    (c.stopped || c.bays.all (s.bayDone d)) &&
    ((c.stopped && c.stop != some .killed) || !(s.chansOf d).any (fun p => (s.chanAt p.1 p.2).busy))

/-- A bay stands idle: at its boundary with no reason to start P (R75). -/
def State.bayIdle (s : State) (b : Nat) : Bool := (s.bayAt b).phase == .boundary && !s.bayDue b

def execTerminationFirstSample (s : State) : Out :=
  let d := s.unit
  let c := s.ctxAt d
  .next (
    if c.ending != .no then s
    else if !c.bays.isEmpty && !c.bays.any (fun b => (s.bayAt b).phase == .boundary) then s
    else
      let x : Option Sample := if s.sampleOk d then
          some { cyc := s.cyc, esent := c.esent, pcs := c.bays.map (fun b => ((s.bayAt b).pcount, s.bayIdle b)) }
        else none
      s.modCtx d (fun c => { c with sample := x }))

/-- The second sample confirms the first. -/
def State.sampleHolds (s : State) (d : Nat) (x : Sample) : Bool :=
  let c := s.ctxAt d
  s.sampleOk d && c.esent == x.esent && c.bays.length == x.pcs.length

/-- Every bay of the span has ended a P since the first sample, or has stood idle throughout. -/
def State.sampleRipe (s : State) (d : Nat) (x : Sample) : Bool :=
  decide (x.cyc + Config.sampleGap ≤ s.cyc) &&
    ((s.ctxAt d).bays.zip x.pcs).all (fun q =>
      decide (q.2.1 < (s.bayAt q.1).pcount) || (q.2.2 && s.bayIdle q.1))

/-! ### Result readout (R366) -/

/-- The result image in `room` bytes, whether it was truncated, and its number of symbols. -/
def State.resultImage (s : State) (d room : Nat) : List Byte × Bool × Nat :=
  let e := s.exprOf d
  let tiles := e.filter (fun y => isTile y.word)
  let start := alignUp (8 * (e.length + tiles.length)) 32
  let offs := tiles.foldl (fun (q : List Nat × Nat) y => (q.1 ++ [alignUp q.2 32], alignUp q.2 32 + tileLen y.word)) ([], start)
  let whole := if tiles.isEmpty then 8 * e.length else offs.2
  let words := (e.foldl (fun (q : List Byte × Nat) y =>
    if isTile y.word then (q.1 ++ leBytes 8 (withOff y.word q.2).toNat, q.2 + 1) else (q.1 ++ leBytes 8 y.word.toNat, q.2)) ([], 0)).1
  if room < whole then (words.take (8 * min e.length (room / 8)), true, e.length)
  else if tiles.isEmpty then (words, false, e.length)
  else
    let table := offs.1.flatMap (leBytes 8)
    let body := (tiles.zip offs.1).foldl (fun (bs : List Byte) q =>
      bs ++ List.replicate (q.2 - bs.length) 0 ++ (s.cellAt q.1.cell).tread (tileOff q.1.word) (tileLen q.1.word)) (words ++ table)
    (body, false, e.length)

/-- Writes the result image, or waits for the pager; without a translation there is no result. -/
def State.writeResult (s : State) (d : Nat) : State :=
  let c := s.ctxAt d
  let x := s.descUse d
  let none_ (s : State) : State := s.modCtx d (fun c => { c with ending := .record 0 0 0 0, rfault := false })
  if c.ending != .result then s
  else if c.rfault then none_ s
  else
    let at' := x.envbase.toNat + 0x4100
    let (bs, cut, n) := s.resultImage d (x.envsize.toNat - 0x4100)
    match s.hubPut d at' bs with
    | .error .denied => none_ s
    | .error (.absent va) => s.hubFault d va true (.hubCtx d)
    | .ok t => t.modCtx d (fun c => { c with ending := .record (if cut then 3 else 2) n at' bs.length })

/-! ### Release (R369) -/

/-- Status and code of the completion record. -/
def Ctx.outcome (c : Ctx) : Nat × Nat :=
  match c.stop with
  | none => (0, 0)
  | some (.aborted code) => (0x0C, code.toNat)
  | some (.rowInt n) => (0x0D, n % 2 ^ 32)
  | some (.rowFull n) => (0x0E, n % 2 ^ 32)
  | some .killed => (0x0F, 0)

/-- Everything the context held is free. -/
def State.releaseCtx (s : State) (d : Nat) : State :=
  let c := s.ctxAt d
  let ids := c.cells.flatMap (fun x => (s.cellAt x).pend.map PendOp.id)
  let chans := s.chansOf d
  let s : State := { s with areas := s.areas.filter (fun p => !(p.2.live && p.2.desc == d)) }
  let s := s.overCells c.cells Cell.vacate
  let s := s.modBays (upto 0 16) (fun b => { b with fences := b.fences.filter (fun f => f.1 != d) })
  let s := ((s.graphs.filter (fun p => p.1 / 256 == d)).map (fun p => p.1 % 256)).foldl (fun s h => s.freeGraph d h) s
  let s := s.killChans d
  let s := chans.foldl (fun s p => s.putChan p.1 p.2 Chan.blank) s
  let s := (s.forget d ids chans).unwatch (· == .guard d)
  let s := match c.killOp with
    | some q => s.finishOp q.2 [] false
    | none => s
  let s : State := if s.hub.kbusy && s.hub.kwho.toNat == d then { s with hub := { s.hub with kbusy := false, kst := 0 } } else s
  ((s.dropShapes d).putCtx d Ctx.blank).modDesc d (fun x => { x with live := false })

/-! ### The completion record (R367, R368) -/

def complRecord (l : Launch) (c : Ctx) (flg cnsym cres cresb cyc : Nat) : List Byte :=
  leBytes 4 l.seq.toNat ++ leBytes 1 c.outcome.1 ++ leBytes 1 l.q ++ leBytes 2 flg ++ leBytes 4 c.outcome.2 ++ leBytes 4 cnsym ++
    leBytes 8 cres ++ leBytes 8 cresb ++ leBytes 8 c.cstart ++ leBytes 8 cyc ++ leBytes 4 c.etnext.toNat ++ leBytes 12 0

/-- Record, flag, interrupt, retirement, release. -/
def State.writeRecord (s : State) (d : Nat) : State :=
  let c := s.ctxAt d
  match c.ending, c.launch with
  | .record flg n cres cresb, some l =>
    let fin (s : State) : State := ((s.notify l).launchRetired l.q l.seq c.outcome.1).releaseCtx d
    let flg := if l.lflags.getLsbD 0 then flg + 4 else flg
    if l.crec = 0 then fin s
    else if c.rfault then fin (s.queueError l.q 7)
    else
      (match s.hubPut d l.crec.toNat (complRecord l c flg n cres cresb s.cyc) with
       | .error .denied => fin (s.queueError l.q 7)
       | .error (.absent va) => s.hubFault d va true (.hubCtx d)
       | .ok t => fin t)
  | .record _ _ _ _, none => s.releaseCtx d
  | _, _ => s

def execTerminationSecondSample (s : State) : Out :=
  let d := s.unit
  let c := s.ctxAt d
  .next (match c.ending, c.sample with
    | .no, none => s
    | .no, some x =>
      if !s.sampleHolds d x then s.modCtx d (fun c => { c with sample := none })
      else if !s.sampleRipe d x then s
      else
        ((s.modCtx d (fun c => { c with
          sample := none
          rfault := false
          ending := if c.stopped then .record 0 0 0 0 else .result })).writeResult d).writeRecord d
    | _, _ => (s.writeResult d).writeRecord d)

end Sys2Proof.Machine
end

