-- ==== Sys2Proof/Machine/Launch.lean ====
section
/-! DEFINITION. A launch at the head of its queue (R60 to R64), the image (R34 to R47, R54), and placement (R39, R40, R65, R85). -/

namespace Sys2Proof.Machine

open Sys2Proof

/-! ### The launch record (R60) -/

/-- The bytes of a slot. -/
def Queue.slot (x : Queue) (k : Nat) : List Byte := tgetRun 0 x.bytes (256 * k) 256

def Launch.ofBytes (q : Nat) (bs : List Byte) : Launch :=
  let f (o n : Nat) : Nat := fieldAt bs o n
  { q := q, seq := BitVec.ofNat 32 (f 0 4), ctxd := f 4 1 % 128, place := f 5 1 % 2 == 1, asid := f 6 2 % 1024,
    image := BitVec.ofNat 64 (f 8 8), root := f 16 4 % 2 ^ 20, wrap := (f 16 4).testBit 31, rparm := BitVec.ofNat 32 (f 20 4),
    prio := f 24 1 % 8, nstr := f 25 1,
    flags := (upto 0 (min 4 (f 26 1))).map (fun i => (f (48 + 8 * i) 2, BitVec.ofNat 32 (f (52 + 8 * i) 4))),
    deps := (upto 0 (min 4 (f 27 1))).map (fun i => (f (96 + i) 1, BitVec.ofNat 32 (f (80 + 4 * i) 4))),
    lflags := BitVec.ofNat 32 (f 28 4), crec := BitVec.ofNat 64 (f 32 8), cfidx := f 40 2, cfval := BitVec.ofNat 32 (f 44 4),
    args := (upto 0 16).map (fun i => BitVec.ofNat 64 (f (112 + 8 * i) 8)) }

/-- Check 1 of R62. -/
def launchClean (bs : List Byte) : Bool :=
  let f (o n : Nat) : Nat := fieldAt bs o n
  decide (f 4 1 < 128) && decide (f 5 1 < 2) && decide (f 6 2 < 1024) && bits (f 16 4) 30 20 == 0 && decide (f 24 1 < 8) &&
    decide (f 28 4 < 8) && f 42 2 == 0 && f 100 12 == 0 && f 240 8 == 0 && f 252 4 == 0 &&
    f 8 8 % 64 == 0 && f 32 8 % 64 == 0 && decide (1 ≤ f 25 1) && decide (f 25 1 ≤ 127) && decide (f 26 1 ≤ 4) && decide (f 27 1 ≤ 4) &&
    (upto 0 (min 4 (f 26 1))).all (fun i => f (50 + 8 * i) 2 == 0) &&
    (upto 0 (min 4 (f 27 1))).all (fun i => decide (f (96 + i) 1 ≤ 63))

/-! ### The head (R61, R62) -/

/-- Committed records that the hub has not consumed. -/
def Queue.waiting (x : Queue) : Nat := (x.pc - x.cc).toNat

/-- `seq` against the expected value: whether it matches, and the value after it. -/
def Queue.follows (x : Queue) (seq : BitVec 32) : Bool × Option (BitVec 32) :=
  match x.expect with
  | none => (true, some (seq + 1))
  | some e => if e == seq then (true, some (e + 1)) else (false, some e)

/-- The descriptor that a record names is one its queue may launch into, and is bound to its ASID. A record whose descriptor is 0
never passes, at check 1 or 2 as at check 3 (R62; assumption 107, DESIGN CHOICE): its completion record is not written. -/
def State.ctxOk (s : State) (q : Nat) (l : Launch) : Bool :=
  let x := s.queueAt q
  let d := s.descAt l.ctxd
  decide (x.dlo.toNat ≤ l.ctxd) && decide (l.ctxd ≤ x.dhi.toNat) && l.ctxd != 0 && d.valid && d.basid.toNat == l.asid

/-- Takes the head record in hand. -/
def State.takeHead (s : State) (q : Nat) (l : Launch) (stage : Stage) (expect : Option (BitVec 32)) : State :=
  s.modQueue q (fun x => { x with head := some l, stage := stage, expect := expect, ifail := false, entered := [], watching := [] })

/-- A committed record that has not been checked ends with FLUSHED (R64). -/
def State.flushNext (s : State) (q : Nat) : State :=
  let x := s.queueAt q
  let l := Launch.ofBytes q (x.slot (x.cc.toNat % 32))
  let t := s.takeHead q l .none (x.follows l.seq).2
  if s.ctxOk q l && l.crec.toNat % 64 == 0 then t.refuse q 0x0B else t.consumeHead q l.seq 0x0B

/-- Records end with FLUSHED up to the commit count of the flush, as far as their completion records can be written. -/
def State.flushRun (s : State) (q : Nat) : Nat → State
  | 0 => s
  | fuel + 1 =>
    let x := s.queueAt q
    match x.flushTo with
    | none => s
    | some p =>
      if x.cc == p then s.modQueue q (fun x => { x with flushTo := none })
      else
        match x.stage with
        | .refused _ => s
        | .none => (s.flushNext q).flushRun q fuel
        | _ => (s.refuse q 0x0B).flushRun q fuel

/-! ### Waits (R63) -/

/-- The status of a launch that is neither waiting in its queue nor placed and unretired; OK where nothing is kept of it. -/
def State.depStatus (s : State) (q : Nat) (seq : BitVec 32) : Option Nat :=
  let x := s.queueAt q
  let inQueue := (upto 0 x.waiting).any (fun k => fieldAt (x.slot ((x.cc.toNat + k) % 32)) 0 4 == seq.toNat)
  let placed := s.ctxs.any (fun p => p.2.live && (match p.2.launch with | some l => l.q == q && l.seq == seq | none => false))
  if inQueue || placed then none
  else some (((x.retired.reverse.find? (fun r => r.1 == seq)).map (·.2)).getD 0)

/-- A `HOLD` record that asks for it depends on a launch known to have retired with a status other than OK. -/
def State.depFails (s : State) (l : Launch) : Bool :=
  !l.place && l.lflags.getLsbD 2 && l.deps.any (fun p => match s.depStatus p.1 p.2 with | some n => n != 0 | none => false)

/-- The checks at the head; a record that passes them and depends on a launch that has failed already ends with DEPFAIL at once (R62, R63). -/
def execHeadChecks (s : State) : Out :=
  let q := s.unit
  let x := s.queueAt q
  .next (
    if 64 ≤ q then s
    else
      match x.stage with
      | .refused _ => (s.refuseNow q).flushRun q 34
      | .none =>
        if x.flushTo.isSome then s.flushRun q 34
        else if x.waiting = 0 then s
        else
          let bs := x.slot (x.cc.toNat % 32)
          let l := Launch.ofBytes q bs
          let (m, e) := x.follows l.seq
          let d := s.descAt l.ctxd
          let early (status cause : Nat) : State :=
            if s.ctxOk q l && l.crec.toNat % 64 == 0 then (s.takeHead q l .none e).refuse q status
            else ((s.takeHead q l .none e).queueError q cause).consumeHead q l.seq status
          if !launchClean bs then early 1 8
          else if !m then early 2 9
          else if !s.ctxOk q l then ((s.takeHead q l .none e).queueError q 6).consumeHead q l.seq 0xFF
          else if d.pceil.toNat < l.prio then (s.takeHead q l .none e).refuse q 3
          else if d.maxstr.toNat < l.nstr then (s.takeHead q l .none e).refuse q 4
          else if l.deps.any (fun p => !(s.queueAt p.1).seqs.contains p.2 || p == (q, l.seq)) then (s.takeHead q l .none e).refuse q 5
          else if s.depFails l then (s.takeHead q l .none e).refuse q 6
          else s.takeHead q l .checked e
      | _ => s)

/-! ### Release (R63) -/

/-- Enters the record's flags in the watch table, all of them once there are entries enough. -/
def State.watchFlags (s : State) (q : Nat) (l : Launch) : State :=
  let new := (l.flags.filter (fun f => !s.watch.any (fun w => w.shares f.1 f.2))).eraseDups
  if !(s.queueAt q).entered.isEmpty || l.flags.isEmpty || 1024 < s.watching.length + new.length then s
  else
    let s := l.flags.foldl (fun s f => s.watchAdd f.1 f.2 (.hold q)) s
    s.modQueue q (fun x => { x with entered := l.flags.map (·.1), watching := l.flags.map (·.1) })

def execHoldRelease (s : State) : Out :=
  let q := s.unit
  let x := s.queueAt q
  .next (match x.head, x.stage with
    | some l, .checked =>
      let sts := l.deps.map (fun p => s.depStatus p.1 p.2)
      if s.depFails l then s.refuse q 6
      else
        let t := if l.place then s else s.watchFlags q l
        let y := t.queueAt q
        let ready := l.place || ((l.flags.isEmpty || !y.entered.isEmpty) && y.watching.isEmpty && sts.all (·.isSome))
        if ready && !(s.descAt l.ctxd).live then t.modQueue q (fun x => { x with stage := .released }) else t
    | _, _ => s)

/-! ### The image (R34 to R47, R54, R64) -/

/-- Why an image cannot be taken: a status, or an address that the pager must serve first. -/
inductive ImgBad where
  | status (n : Nat)
  | absent (va : Nat)
  deriving DecidableEq, Repr

def State.imgGet (s : State) (d va n : Nat) : Except ImgBad (List Byte) :=
  match s.hubGet d va n with
  | .ok bs => .ok bs
  | .error .denied => .error (.status 7)
  | .error (.absent va) => .error (.absent va)

def needImg (b : Bool) (status : Nat) : Except ImgBad Unit := if b then .ok () else .error (.status status)

/-- R34. -/
def headerOk (h : List Byte) : Bool :=
  fieldAt h 0 4 == 0x1A4F5645 && fieldAt h 4 2 == 1 && fieldAt h 6 2 == 2 && decide (1 ≤ fieldAt h 8 2) && decide (fieldAt h 8 2 ≤ 64) &&
    fieldAt h 10 2 == 64 && decide (fieldAt h 12 4 < 4) && fieldAt h 16 8 % 8 == 0 && fieldAt h 36 28 == 0

def loads (kind : Nat) : Bool := decide (4 ≤ kind) && decide (kind ≤ 7)

/-- One entry of R35, R36, R146. The hub does not look at `name` or at the names of the string table: R34 to R36 give it no use for
them (assumption 105, DESIGN CHOICE). -/
def sectOk (n : Nat) (e : List Byte) : Bool :=
  let k := fieldAt e 4 2
  let va := fieldAt e 24 8
  decide (1 ≤ k) && decide (k ≤ 11) && fieldAt e 6 2 == (if loads k then 1 else 0) && decide (3 ≤ fieldAt e 32 1) &&
    decide (fieldAt e 32 1 ≤ 16) && fieldAt e 8 8 % 2 ^ fieldAt e 32 1 == 0 && fieldAt e 33 1 == 0 && fieldAt e 36 4 == 0 &&
    (if k = 9 then decide (fieldAt e 34 2 < n) else fieldAt e 34 2 == 0) &&
    (if loads k then decide (0x10000 ≤ va) && decide (va + fieldAt e 16 8 ≤ 2 ^ 54) else va == 0)

def Sect.ofBytes (e : List Byte) : Sect :=
  { kind := fieldAt e 4 2, foff := fieldAt e 8 8, size := fieldAt e 16 8, vaddr := fieldAt e 24 8, link := fieldAt e 34 2 }

/-- Ranges, given by start and length, that do not overlap. -/
def disjoint : List (Nat × Nat) → Bool
  | [] => true
  | r :: rs => rs.all (fun q => r.2 == 0 || q.2 == 0 || !overlap r.1 r.2 q.1 q.2) && disjoint rs

/-- The section table as a whole (R36). -/
def tableOk (ss : List Sect) : Bool :=
  let count (k : Nat) : Nat := (ss.filter (fun x => x.kind == k)).length
  decide (count 1 ≤ 1) && decide (count 4 ≤ 1) && decide (count 11 ≤ 1) && disjoint (ss.map (fun x => (x.foff, x.size))) &&
    disjoint ((ss.filter (fun x => loads x.kind)).map (fun x => (x.vaddr, x.size))) &&
    (match ss.find? (fun x => x.kind == 11) with
     | some g => ss.all (fun x => decide (x.foff ≤ g.foff))
     | none => true)

/-- A declaration of R45. The rule names the link alone; that the hub checks them too, an operator with a bad one ending in
`err.BADOP` at L, is the model's (assumption 105, DESIGN CHOICE). -/
def declOk (e : List Byte) : Bool :=
  let w := fieldAt e 0 4
  let dk := w % 8
  let scp := w / 8 % 8
  let home := w / 64 % 4
  decide (scp ≤ 4) &&
    ((dk == 1 && ((home == 0 && decide (scp ≤ 1)) || (home == 1 && (scp == 2 || scp == 3)))) || (dk == 2 && home == 0))

/-- The operator records of a section from offset `o` on (R43 to R45): each one begins where the one before it ends. Nonzero reserved bits 31 to
23 of `idf`, and nonzero bytes 40 to 63, break a limit of R43's table; the reserved bits 127 to 95 of the live mask do not (assumption 110, DESIGN
CHOICE). -/
def State.opsFrom (s : State) (d va size : Nat) : Nat → Nat → Except ImgBad (List OpRec)
  | 0, _ => .ok []
  | fuel + 1, o =>
    if size < o + 64 then .ok []
    else do
      let h ← s.imgGet d (va + o) 64
      let f (k n : Nat) : Nat := fieldAt h k n
      let idf := f 0 4
      let n := f 4 2
      let nd := f 7 1
      let doff := f 32 4
      let coff := f 36 4
      let bytes := max (max 64 (if nd = 0 then 0 else doff + 8 * nd)) (coff + 8 * n)
      let fit := decide (1 ≤ n) && decide (n ≤ 4096) && decide (f 6 1 ≤ 16) && decide (nd ≤ 16) && f 8 4 % 32 == 0 &&
        decide (f 8 4 ≤ 393216) && doff % 8 == 0 && coff % 8 == 0 && decide (idf < 2 ^ 23) && f 40 24 == 0 && decide (o + bytes ≤ size)
      let ds ← if fit then s.imgGet d (va + o + doff) (8 * nd) else .ok []
      let es := (upto 0 nd).map (fun k => (ds.drop (8 * k)).take 8)
      let r : OpRec :=
        { id := idf % 2 ^ 20, urgent := idf.testBit 20, erracc := idf.testBit 21, priv := idf.testBit 22, ncode := n, slotb := f 6 1,
          tileb := f 8 4, live := BitVec.ofNat 128 (f 16 16), decls := es.map (fun e => (fieldAt e 0 1 % 8, fieldAt e 0 1 / 8 % 8)),
          code := va + o + coff, ok := fit && es.all declOk, bytes := bytes }
      let rest ← s.opsFrom d va size fuel (o + bytes)
      .ok (r :: rest)

/-- The operator records of every OPS section. -/
def State.opsOf (s : State) (d base : Nat) : List Sect → Except ImgBad (List OpRec)
  | [] => .ok []
  | x :: xs => do
    let a ← if x.kind = 2 then s.opsFrom d (base + x.foff) x.size (x.size / 64 + 1) 0 else .ok []
    let b ← s.opsOf d base xs
    .ok (a ++ b)

/-- A relocation entry of R38: target section, offset, kind, symbol. -/
structure Reloc where
  sect : Nat
  off  : Nat
  kind : Nat
  sym  : Nat
  deriving DecidableEq, Repr

/-- The relocations of an image. -/
def State.relocsOf (s : State) (d base : Nat) : List Sect → Except ImgBad (List Reloc)
  | [] => .ok []
  | x :: xs => do
    let a ← if x.kind = 9 then do
        needImg (x.size % 24 == 0) 7
        let bs ← s.imgGet d (base + x.foff) x.size
        .ok ((upto 0 (x.size / 24)).map (fun k =>
          let e := (bs.drop (24 * k)).take 24
          { sect := x.link, off := fieldAt e 0 8, kind := fieldAt e 8 2, sym := fieldAt e 12 4 }))
      else .ok []
    let b ← s.relocsOf d base xs
    .ok (a ++ b)

/-- The `value` of a symbol (R37), by its index, of a kind. -/
def State.symValue (s : State) (d base : Nat) (tab : Sect) (k : Nat) (kinds : List Nat) : Except ImgBad Nat := do
  needImg (decide (24 * k + 24 ≤ tab.size)) 7
  let e ← s.imgGet d (base + tab.foff + 24 * k) 24
  needImg (kinds.contains (fieldAt e 4 1)) 7
  .ok (fieldAt e 8 8)

/-- The launch argument that a relocation names. -/
def State.argOf (s : State) (l : Launch) (base : Nat) (tab : Sect) (r : Reloc) : Except ImgBad Word := do
  let n ← s.symValue l.ctxd base tab r.sym [11]
  needImg (decide (n < 16)) 7
  .ok (l.args.getD n 0)

/-- The relocations with their arguments, those of kind TILEIX left out. -/
def State.argsOf (s : State) (l : Launch) (base : Nat) (tab : Sect) : List Reloc → Except ImgBad (List (Reloc × Word))
  | [] => .ok []
  | r :: rs => do
    needImg (r.kind == 9 || r.kind == 10 || r.kind == 11) 7
    let a ← if r.kind = 10 then .ok [] else (s.argOf l base tab r).map (fun w => [(r, w)])
    let b ← s.argsOf l base tab rs
    .ok (a ++ b)

/-- Signature and privilege (R47, R54): the status of the refusal, or 0. `tend` is where the section table ends: no byte of the file
may lie after the SIG section. Where a signature is needed, an image with a SIG section whose flags do not say so is refused like one without
(assumption 111, DESIGN CHOICE). -/
def State.signature (s : State) (l : Launch) (flags tend : Nat) (ss : List Sect) (ops : List OpRec) : Except ImgBad Nat :=
  let d := s.descAt l.ctxd
  let manifest := flags.testBit 1
  let usesPriv := ops.any (·.priv)
  if !manifest && !d.signed then .ok (if usesPriv then 9 else 0)
  else
    match ss.find? (fun x => x.kind == 11) with
    | none => .ok 8
    | some g =>
      if !flags.testBit 0 || g.size != 2484 || decide (g.foff < max 64 tend) || ss.any (fun x => x.kind != 11 && decide (g.foff < x.foff + x.size)) then .ok 8
      else do
        let file ← s.imgGet l.ctxd l.image.toNat g.foff
        let sig ← s.imgGet l.ctxd (l.image.toNat + g.foff) 2484
        let id := BitVec.ofNat 256 (fieldAt sig 0 32)
        let dig := Config.sha3 file
        let good (key : List Byte) : Bool := Config.sha3 key == id && Config.mldsaVerify key dig (sig.drop 64)
        let fresh := BitVec.ofNat 256 (fieldAt sig 32 32) == dig
        let own := s.read Party.reel 0 d.keyaddr.toNat 1312
        let byManifest := fresh && s.board.mkeys.any good
        let byOwner := fresh && d.keyid == id && good own
        .ok (if (manifest && !byManifest) || (d.signed && !byOwner) then 8
          else if usesPriv && !(manifest && byManifest) then 9 else 0)

/-- A shape record of the placed copy: its bytes with the arguments that touch it. -/
def patched (bs : List Byte) (patch : List (Nat × BitVec 32)) : List Byte :=
  patch.foldl (fun bs p => bs.take p.1 ++ leBytes 4 p.2.toNat ++ bs.drop (p.1 + 4)) bs

/-- R42 on a record changed by ARGEXT, its footprint in a DATA section among it (R40); the footprint is that of the elements, the
header plane of a BX record left out (assumption 100, DESIGN CHOICE). A tile-store offset names no section. -/
def shapeOk (ss : List Sect) (bs : List Byte) : Bool :=
  let r := (ShapeRec.ofBytes bs).1
  r.r42 && (r.ts || r.inData ss)

/-- The directory index and address of each tile that an expression names (R39). -/
def State.tilesOf (s : State) (d base : Nat) (dir : Option Sect) : List Nat → Except ImgBad (List (Nat × Nat))
  | [] => .ok []
  | k :: ks =>
    match dir with
    | none => .error (.status 7)
    | some x => do
      needImg (decide (16 * k + 16 ≤ x.size)) 7
      let e ← s.imgGet d (base + x.foff + 16 * k) 16
      needImg (decide (fieldAt e 0 4 + fieldAt e 4 4 ≤ x.size) && fieldAt e 0 4 % 32 == 0) 7
      let rest ← s.tilesOf d base dir ks
      .ok ((k, base + x.foff + fieldAt e 0 4) :: rest)

/-- The checks of R64, in order, and what the hub keeps of the image. Of several SYMTAB sections the first one is meant by the entry
and by every relocation (assumption 105, DESIGN CHOICE). `ptroot`, `dflags`, `keyid` and `keyaddr` are those the descriptor holds as the
image is fetched (R66 names a read at check 3 and one at placement; assumption 107, DESIGN CHOICE). A TILEIX relocation on a word that is no TILE changes nothing, and
the symbol of a TILEIX is not read (R38; assumption 111, DESIGN CHOICE). Of two ARGINT on one word the first is applied, of two ARGEXT on one
field the last (assumption 112, DESIGN CHOICE). -/
def State.imageOf (s : State) (l : Launch) : Except ImgBad Image := do
  let d := l.ctxd
  let base := l.image.toNat
  let h ← s.imgGet d base 64
  needImg (headerOk h) 7
  let n := fieldAt h 8 2
  let t ← s.imgGet d (base + fieldAt h 16 8) (40 * n)
  let es := (upto 0 n).map (fun k => (t.drop (40 * k)).take 40)
  let ss := es.map Sect.ofBytes
  needImg (es.all (sectOk n) && tableOk ss && (ss[fieldAt h 32 4]?.map Sect.kind) == some 10) 7
  match ss.find? (fun x => x.kind == 8), ss.find? (fun x => x.kind == 1) with
  | some tab, some ex => do
    let first ← s.symValue d base tab (fieldAt h 24 4) [2]
    let bs ← s.imgGet d (base + ex.foff) ex.size
    let ops ← s.opsOf d base ss
    let rs ← s.relocsOf d base ss
    let as ← s.argsOf l base tab rs
    let kindOf (r : Reloc) : Nat := ((ss[r.sect]?).map Sect.kind).getD 0
    needImg (rs.all (fun r => if r.kind = 11 then kindOf r == 4 && r.off % 4 == 0 else kindOf r == 1 && r.off % 8 == 0 && decide (r.off < ex.size))) 7
    let ints := as.filter (fun p => p.1.kind == 9)
    let exts := as.filter (fun p => p.1.kind == 11)
    let words := (upto 0 (ex.size / 8)).map (fun k =>
      match ints.find? (fun p => p.1.off == 8 * k) with
      | some p => symInt p.2.toInt
      | none => BitVec.ofNat 64 (fieldAt bs (8 * k) 8))
    let e := (words.drop first).take (elemLen 0 (words.drop first))
    needImg (!e.isEmpty && bracketed [] e) 7
    let tiles ← s.tilesOf d base (ss.find? (fun x => x.kind == 3)) ((e.filter isTile).map tileOff).eraseDups
    let patch := exts.map (fun p => (p.1.off, p.2.setWidth 32))
    let (sva, ssz) := ((ss.find? (fun x => x.kind == 4)).map (fun x => (x.foff, x.size))).getD (0, 0)
    needImg (patch.all (fun p => decide (p.1 + 4 ≤ ssz) && decide (16 ≤ p.1 % 64) && decide (p.1 % 64 < 56))) 7
    let shapes ← s.imgGet d (base + (if patch.isEmpty then 0 else sva)) (if patch.isEmpty then 0 else ssz)
    let sg ← s.signature l (fieldAt h 12 4) (fieldAt h 16 8 + 40 * n) ss ops
    needImg (sg == 0) sg
    let new := patched shapes patch
    needImg (ints.all (fun p => decide (-(2 ^ 59 : Int) ≤ p.2.toInt) && decide (p.2.toInt < (2 ^ 59 : Int))) &&
      patch.all (fun p => (decide (36 ≤ p.1 % 64) || p.2 != 0) && shapeOk ss ((new.drop (p.1 / 64 * 64)).take 64))) 10
    .ok { addr := base, flags := BitVec.ofNat 32 (fieldAt h 12 4), sects := ss, entry := first, words := e, trapid := fieldAt h 28 4,
          ops := ops, patch := patch, tiles := tiles }
  | _, _ => .error (.status 7)

def execImageFetch (s : State) : Out :=
  let q := s.unit
  let x := s.queueAt q
  .next (match x.head, x.stage with
    | some l, .released =>
      if x.ifail then s.refuse q 7
      else if (s.descAt l.ctxd).live then s
      else
        (match s.imageOf l with
         | .error (.status n) => s.refuse q n
         | .error (.absent va) => s.hubFault l.ctxd va false (.hubLaunch q)
         | .ok im => s.modQueue q (fun x => { x with stage := .strands, image := some im, since := s.cyc, ifail := false }))
    | _, _ => s)

end Sys2Proof.Machine
end

