-- ==== Sys2Proof/Machine/Allocator.lean ====
section
/-! DEFINITION. The strand allocator (R71, R85, R86): placement of an expression (R39, R40, R65, R82), growth and resumption by
priority and age, compaction, and pre-emption for a launch that waits. -/

namespace Sys2Proof.Machine

open Sys2Proof

/-! ### Runs of free strands -/

/-- Maximal runs of free strands: start and length. -/
def State.freeRuns (s : State) : List (Nat × Nat) :=
  (upto 0 Config.pagerStrand).filterMap (fun k =>
    if s.freeStrand k && (k = 0 || !s.freeStrand (k - 1)) then some (k, s.freeUp Config.pagerStrand k) else none)

/-- The smallest run that holds `n` strands, the lowest of them where runs tie. -/
def smallestRun (n : Nat) (l : List (Nat × Nat)) : Option Nat :=
  ((l.filter (fun r => decide (n ≤ r.2))).foldl (fun (b : Option (Nat × Nat)) r =>
    match b with
    | none => some r
    | some t => if r.2 < t.2 then some r else some t) none).map (·.1)

/-- Saved or moved cells that hold something and would come to a retired cell. -/
def State.landsOn (s : State) (cs : List (Nat × Cell)) (f : Nat → Nat) : Bool :=
  cs.all (fun p => (p.2.slots.isEmpty && p.2.tiles.isEmpty) || !(s.cellAt (f p.1)).retired)

/-- Where a context that is out could stand: the smallest run with such a place, and in it the lowest. -/
def State.resumeRun (s : State) (d : Nat) : Option Nat :=
  let c := s.ctxAt d
  let lo := Config.strandCells * c.start
  let ok (st : Nat) : Bool := s.landsOn c.saved (shifted lo (Config.strandCells * c.len) (Config.strandCells * st))
  let places := s.freeRuns.filterMap (fun r =>
    ((upto r.1 (r.2 + 1 - c.len)).find? (fun st => decide (c.len ≤ r.2) && ok st)).map (fun st => (st, r.2)))
  smallestRun 0 places

/-! ### Placement (R39, R40, R65, R82) -/

/-- The placed expression: `<await (g, root)>` under its guards (R13, R65). The root OPER of `wrap` = 1 has `sys` 0 whatever its operator id
(assumption 110, DESIGN CHOICE). -/
def Launch.words (l : Launch) (e : List Word) : List Word :=
  let root := if l.wrap then [symOpen, symOper false l.root l.rparm.toNat] ++ e ++ [symClose] else e
  let guards := l.flags.map (fun f => symWord 11 (f.2.toNat * 2 ^ 16 + f.1)) ++
    (upto 0 l.deps.length).map (fun i => symToken (depTok i))
  if !l.place || guards.isEmpty then root
  else
    [symOpen, symOper true opAwait 0, symSeq] ++
      (match guards with
       | [g] => [g]
       | gs => [symSeq] ++ gs ++ [symEnd]) ++ root ++ [symEnd, symClose]

/-- The symbols of a placed expression with the bytes of its tiles, all of them before the first cell. As many bytes are copied as
the symbol's own `tlen` says, whatever its directory record holds, and `toff` is a directory index with or without a TILEIX
relocation (assumption 105, DESIGN CHOICE). -/
def State.placedSyms (s : State) (d home : Nat) (im : Image) : List Word → Except ImgBad (List PSym)
  | [] => .ok []
  | w :: ws => do
    let y ← if isTile w then do
        let bs ← s.imgGet d (((im.tiles.find? (fun t => t.1 == tileOff w)).map (·.2)).getD 0) (tileLen w)
        .ok { word := w, home := home, tile := some (Config.cells + tileOff w, 0), copy := none, fresh := bs, area := none, old := none : PSym }
      else .ok (PSym.held w home home none)
    let ys ← s.placedSyms d home im ws
    .ok (y :: ys)

/-- The loadable sections go to their addresses, the SHAPE section with its arguments (R36, R40). -/
def State.loadSects (s : State) (d : Nat) (im : Image) : List Sect → Except ImgBad State
  | [] => .ok s
  | x :: xs =>
    if loads x.kind then do
      let bs ← s.imgGet d (im.addr + x.foff) x.size
      match s.hubPut d x.vaddr (if x.kind = 4 then patched bs im.patch else bs) with
      | .error .denied => .error (.status 7)
      | .error (.absent va) => .error (.absent va)
      | .ok t => t.loadSects d im xs
    else s.loadSects d im xs

/-- Every entry of a descriptor leaves the microprogram caches (R99). -/
def State.dropCode (s : State) (d : Nat) : State :=
  { s with
    cells := s.cells.map (fun p => (p.1, { p.2 with cache := p.2.cache.filter (fun t => t.sys || t.desc != d) }))
    hubCache := s.hubCache.filter (fun t => t.desc != d) }

/-- The bays of a context that has come to its place have reason to start P; their next report knows its symbols. -/
def State.freshBays (s : State) (d : Nat) : State := s.modBays (s.ctxAt d).bays (fun x => { x with due := true, fresh := true })

/-- The expression goes over the span: the walk of R82, growth, spill. -/
def State.layOut (s : State) (d : Nat) (l : List PSym) : Except ImgBad State :=
  let whole (t : State) (l : List PSym) : Option (List PSym) := let r := t.reachOf d (t.ctxAt d).bays []; t.relay [] r.lo r.hi l
  let r := s.reachOf d (s.ctxAt d).bays []
  match whole s l with
  | some l' => .ok (s.settle s d [] r l')
  | none =>
    let g := (s.growth d l).1
    let r := g.reachOf d (g.ctxAt d).bays []
    match whole g l with
    | some l' => .ok (g.settle g d [] r l')
    | none =>
      match g.spill d r (fun l => (whole g l).map (fun l => (l, []))) (l.length + 1) ⟨l, g⟩ l.length none with
      | .done x l' _ => .ok (x.st.settle g d [] r l')
      | .miss va => .error (.absent va)
      | .full =>
        match g.writeTrap d (rowTrap 2) with
        | .ok (n, t) => .ok (t.stopCtx d (.rowFull n))
        | .error va => .error (.absent va)

/-- The context of a launch starts in the strands from `st` on. Its descriptor is read again (R66) and checks 3 to 5 of R62 are not made anew
(assumption 110, DESIGN CHOICE). -/
def State.place (s : State) (q : Nat) (l : Launch) (im : Image) (st : Nat) : Except ImgBad State := do
  let d := l.ctxd
  let ctx : Ctx := { Ctx.blank with
    live := true, launch := some l, image := some im, kept := some (s.descAt d), gen := s.genOf l.asid, prio := l.prio, start := st, len := l.nstr,
    placed := s.cyc, cstart := s.cyc, tids := if l.place then (upto 0 l.deps.length).map depTok else [] }
  let ys ← s.placedSyms d (Config.strandCells * st) im (l.words im.words)
  let t ← s.loadSects d im im.sects
  let t := ((t.dropCode d).putCtx d ctx).modDesc d (fun x => { x with live := true })
  let t ← t.layOut d ys
  let t := ((t.modQueue q Queue.consume).freshBays d).enterGuards d
  .ok (if l.place then
      (l.deps.zip (upto 0 4)).foldl (fun t e =>
        match s.depStatus e.1.1 e.1.2 with
        | some n => t.modCtx d (fun c => c.post (depCompl l e.2 n))
        | none => t) t
    else t)

/-! ### Requests (R85) -/

/-- A request that waits for strands. -/
inductive Request where
  | place (q : Nat) (l : Launch) (im : Image)
  | grow (d n : Nat)
  | resume (d : Nat)
  deriving DecidableEq, Repr

/-- The requests that wait, each with its priority and the time it ages from. -/
def State.requests (s : State) : List (Nat × Nat × Request) :=
  (s.queues.filterMap (fun p =>
    match p.2.stage, p.2.head, p.2.image with
    | .strands, some l, some im => if (s.descAt l.ctxd).live then none else some (l.prio, p.2.since, .place p.1 l im)
    | _, _, _ => none)) ++
  (s.ctxs.filterMap (fun p =>
    match p.2.grow with
    | some (t, n) => if p.2.inRow && !p.2.stopped && p.2.pre == .none && p.2.ending == .no then some (p.2.prio, t, .grow p.1 n) else none
    | none => none)) ++
  (s.ctxs.filterMap (fun p =>
    if p.2.stopped then none
    else
      match p.2.pre with
      | .out false => some (p.2.prio, p.2.placed, .resume p.1)
      | .resuming _ => some (p.2.prio, p.2.placed, .resume p.1)
      | _ => none))

/-- Strands a request asks for. -/
def State.asks (s : State) : Request → Nat
  | .place _ l _ => l.nstr
  | .grow _ n => n
  | .resume d => (s.ctxAt d).len

/-- The free strands satisfy a request. -/
def State.satisfied (s : State) : Request → Bool
  | .place _ l _ => (smallestRun l.nstr s.freeRuns).isSome
  | .grow d n => (s.grown d n).isSome
  | .resume d => (s.resumeRun d).isSome

/-- The first of some requests by priority, then by age. -/
def firstRequest (l : List (Nat × Nat × Request)) : Option Request :=
  (l.foldl (fun (b : Option (Nat × Nat × Request)) r =>
    match b with
    | none => some r
    | some t => if t.1 < r.1 || (t.1 = r.1 && r.2.1 < t.2.1) then some r else some t) none).map (·.2.2)

/-- Every one of some bays stands at its P boundary: only then does a launch place symbols in it (R84). -/
def State.standStill (s : State) (bs : List Nat) : Bool := bs.all (fun b => (s.bayAt b).phase == .boundary)

/-- One request is granted. A page fault met while placing undoes the whole placement, which is tried again once the pager has ended it; one that
the pager fails, a write that is not allowed among them, refuses the launch with IMAGE (R65; assumption 111, DESIGN CHOICE). -/
def State.grant (s : State) (r : Request) : State :=
  match r with
  | .place q l im =>
    if (s.queueAt q).ifail then s.refuse q 7
    else
      (match smallestRun l.nstr s.freeRuns with
       | none => s
       | some st =>
         match s.place q l im st with
         | .ok t => if s.standStill (t.ctxAt l.ctxd).bays then t else s
         | .error (.status n) => s.refuse q n
         | .error (.absent va) => s.hubFault l.ctxd va (!(s.hubMiss l.ctxd va 1 true).isNone) (.hubLaunch q))
  | .grow d n =>
    (match s.grown d n with
     | some (st, len) => s.modCtx d (fun c => { c with start := st, len := len, grow := none })
     | none => s)
  | .resume d =>
    match s.resumeRun d with
    | some st => let t := s.resumeAt d st; if s.standStill (t.ctxAt d).bays then t.freshBays d else s
    | none => s

def execStrandGrant (s : State) : Out :=
  .next (match firstRequest (s.requests.filter (fun r => s.satisfied r.2.2)) with
    | some r => s.grant r
    | none => s)

/-! ### Compaction (R86) -/

/-- Some request waits that the free strands satisfy in total and no run of them does. For a growth, too, the total alone is tested, not whether
sliding would bring its strands beside the span (R85, R86; assumption 110, DESIGN CHOICE). -/
def State.compacts (s : State) : Bool := s.requests.any (fun r => !s.satisfied r.2.2 && decide (s.asks r.2.2 ≤ s.freeTotal))

/-- Where a span slides to: as far to the left across free strands as its cells can stand. -/
def State.slideTo (s : State) (d : Nat) : Option Nat :=
  let c := s.ctxAt d
  let cs := c.cells.map (fun x => (x, s.cellAt x))
  (upto (c.start - s.freeDown c.start) (s.freeDown c.start)).find? (fun st =>
    s.landsOn cs (shifted c.firstCell (c.endCell - c.firstCell) (Config.strandCells * st)))

/-- The bays a move concerns: those the span occupies and those it moves into. -/
def Ctx.moveBays (c : Ctx) (st : Nat) : List Nat := upto (Config.strandCells * st / 512) ((c.endCell - 1) / 512 + 1 - Config.strandCells * st / 512)

/-- The span of the descriptor begins a move: its bays are held at their boundaries. -/
def execCompaction (s : State) : Out :=
  let d := s.unit
  let c := s.ctxAt d
  .next (
    if s.moving.isSome || d = 0 || !c.inRow || c.pre != .none || c.ending != .no || s.shifting d || !s.compacts then s
    else
      match s.slideTo d with
      | none => s
      | some st =>
        let bs := c.moveBays st
        if bs.any (fun b => (s.bayAt b).phase != .boundary) then s
        else { s.modBays bs (fun x => { x with held := true }) with moving := some (d, st) })

/-- A plane that waits for a compaction on behalf of a `gld` goes on once the cell of that `gld` moves to another die (R86, R290). -/
def State.dropMoved (s : State) (f : Nat → Nat) (cs : List Nat) : State :=
  cs.foldl (fun s c =>
    if dieOf (f c) = dieOf c then s
    else (s.cellAt c).pend.foldl (fun s o => match o.kind with | .gld _ p _ _ _ => s.setHold (dieOf c) p false | _ => s) s) s

/-- The cells of a span stand at their new place. A strand that the span still holds has not become free: a cell of it that is marked
stays so (R382). -/
def State.relocate (s : State) (d st : Nat) : State :=
  let c := s.ctxAt d
  let n := c.endCell - c.firstCell
  let f := shifted c.firstCell n (Config.strandCells * st)
  let ids := c.cells.flatMap (fun x => (s.cellAt x).pend.map PendOp.id)
  let mine (id : Nat) : Bool := ids.contains id
  let s := s.dropMoved f c.cells
  let old := c.cells.map (fun x => (x, s.cellAt x))
  let kept (x : Nat) : Bool := decide (Config.strandCells * st ≤ x) && decide (x < Config.strandCells * st + n)
  let t := (s.overCells (c.cells.filter (fun x => !kept x)) Cell.vacate).overCells (c.cells.filter kept)
    (fun x => { x.vacate with retired := x.retired, marked := x.marked })
  let t := old.foldl (fun t q => t.modCell (f q.1) (fun y => { q.2.shift mine f (f q.1) with
      retired := y.retired
      marked := y.marked
      errs := y.errs
      due := y.due
      cache := y.cache })) t
  let t : State := { t with areas := t.areas.map (fun p => if p.2.live && p.2.desc == d then (p.1, p.2.shift f) else p) }
  (t.shiftRefs d mine f).modCtx d (fun c => { c with start := st, told := [], normal := [], sample := none })

/-- The bays of a span that has moved know its symbols once they report; they have the reasons to start P that its old bays had. -/
def execCompactionMoveDone (s : State) : Out :=
  .next (match s.moving with
    | none => s
    | some (d, st) =>
      let c := s.ctxAt d
      let why := c.bays.any (fun b => (s.bayAt b).due || !(s.bayAt b).mark.isEmpty)
      let t := if c.inRow then
          let t := (s.flushed d).relocate d st
          t.modBays (t.ctxAt d).bays (fun x => { x with fresh := true, due := x.due || why })
        else s
      { t.modBays (upto 0 16) (fun x => { x with held := false }) with moving := none })

/-! ### Pre-emption for a launch that waits (R85, R360) -/

/-- Contexts that may yield to a launch of priority `p`. -/
def State.yielding (s : State) (p : Nat) : List (Nat × Ctx) :=
  s.ctxs.filter (fun q => q.1 != 0 && q.2.inRow && q.2.pre == .none && !q.2.stopped && q.2.ending == .no && q.2.estate != 3 && decide (q.2.prio < p))

/-- Pre-emption for a launch that has waited its time: the contexts of lower priority hold enough strands when theirs with the free ones come to
`nstr` (R85; assumption 110, DESIGN CHOICE). -/
def execAllocatorPreemptionTimeout (s : State) : Out :=
  let q := s.unit
  let x := s.queueAt q
  .next (match x.stage, x.head, x.image with
    | .strands, some l, some im =>
      let ys := s.yielding l.prio
      let under := s.ctxs.any (fun p => match p.2.pre with | .requested _ _ false _ => true | .cut false _ => true | _ => false)
      if s.cyc < x.since + Config.waitCycles || s.satisfied (.place q l im) || under || (s.descAt l.ctxd).live ||
          s.freeTotal + (ys.map (fun p => p.2.len)).sum < l.nstr then s
      else
        (match ys.foldl (fun (b : Option (Nat × Ctx)) p =>
            match b with
            | none => some p
            | some t => if p.2.prio < t.2.prio || (p.2.prio = t.2.prio && t.2.placed < p.2.placed) then some p else some t) none with
         | some p => s.preempt p.1 false false none
         | none => s)
    | _, _, _ => s)

end Sys2Proof.Machine
end

