-- ==== Sys2Proof/Machine/HostAccess.lean ====
section
/-! DEFINITION. Host accesses through the control and user windows (R55 to R59, R64, R66, R67, R355, R371, R372, R377, R378).
They take effect once the control windows are open (R376). -/

namespace Sys2Proof.Machine

open Sys2Proof

/-- A host access, which the module answers once its windows are open; through Maryon nothing of it is reached. -/
def State.answers (s : State) (a : HostAcc) (k : State → State) : Out := .next (if s.board.opened && !a.i3c then k s else s)

/-- A configuration request, which the ports answer once the windows are open, and in recovery (R375, R376). -/
def State.configures (s : State) (a : HostAcc) (k : State → State) : Out :=
  .next (if (s.board.opened || s.board.recovery) && !a.i3c then k s else s)

/-! ### Launch queues (R58, R59, R64) -/

/-- The hardware owns a slot: its record is committed and not yet consumed. -/
def Queue.owns (x : Queue) (slot : Nat) : Bool := decide ((slot + 32 - x.cc.toNat % 32) % 32 < x.waiting)

def Queue.putSlot (x : Queue) (slot off : Nat) (data : List Byte) : Queue :=
  { x with bytes := tsetRun 0 x.bytes (256 * slot + off) data }

/-- A write into a slot: one that covers the final word is a commit and is judged by R59 alone. One that runs past the end of its slot is
dropped whole, with no error (assumption 112, DESIGN CHOICE). -/
def State.slotWrite (s : State) (q slot off : Nat) (data : List Byte) : State :=
  let x := s.queueAt q
  if 64 ≤ q || 32 ≤ slot || 256 < off + data.length then s
  else if 248 < off || off + data.length < 256 then
    (if x.owns slot then s.queueError q 5 else s.putQueue q (x.putSlot slot off data))
  else
    let y := x.putSlot slot off data
    let bs := y.slot slot
    let seq := fieldAt bs 0 4
    if !x.en then s.queueError q 1
    else if slot != x.pc.toNat % 32 then s.queueError q 2
    else if x.waiting = 32 then s.queueError q 3
    else if fieldAt bs 248 4 != seq then s.queueError q 4
    else s.putQueue q { y with pc := x.pc + 1, seqs := x.seqs ++ [BitVec.ofNat 32 seq] }

def execQueueSlotWrite (a : HostAcc) (q slot off : Nat) (data : List Byte) (s : State) : Out :=
  s.answers a (fun s => s.slotWrite q slot off data)

def execLaunchCommit (a : HostAcc) (q slot off : Nat) (data : List Byte) (s : State) : Out :=
  s.answers a (fun s => s.slotWrite q slot off data)

def State.clearErrv (s : State) (q : Nat) : State := s.modQueue q (fun x => { x with errv := false, ecause := 0 })

def execQstatErrvClear (a : HostAcc) (q : Nat) (s : State) : Out := s.answers a (fun s => if 64 ≤ q then s else s.clearErrv q)

/-- `flush` (R64): records committed until now end with FLUSHED. -/
def State.flushQueue (s : State) (q : Nat) : State := (s.modQueue q (fun x => { x with flushTo := some x.pc })).flushRun q 34

/-- The unprivileged view of `flush` is none. -/
def execQueueFlush (a : HostAcc) (q : Nat) (s : State) : Out :=
  s.answers a (fun s =>
    if 64 ≤ q then s else if a.user then s.logRefusal a (0x80000 + 0x40 * q) true else s.flushQueue q)

/-! ### Semaphores (R57) -/

def State.semAt (s : State) (n : Nat) : Sem := tget Sem.blank s.sems n
def State.putSem (s : State) (n : Nat) (x : Sem) : State := { s with sems := tset Sem.blank s.sems n x }

/-- What a read of a semaphore returns. -/
def Sem.word (x : Sem) (won : Bool) : Word :=
  BitVec.ofNat 64 (x.rid.toNat + (match x.port with | .A => 0 | .B => 2 ^ 16) + (if x.held then 2 ^ 17 else 0) + (if won then 2 ^ 31 else 0))

def State.semRead (s : State) (a : HostAcc) (n : Nat) : State :=
  let x := s.semAt n
  if x.held then { s with lastRead := x.word false }
  else
    let y : Sem := { rid := a.rid, port := a.port, held := true }
    { s.putSem n y with lastRead := y.word true }

def semOff (n : Nat) : Nat := 0x90000 + 8 * n

def State.semWrite (s : State) (a : HostAcc) (n : Nat) (force : Bool) : State :=
  let x := s.semAt n
  if (force && !a.user) || (x.held && x.rid == a.rid && x.port == a.port) then s.putSem n Sem.blank else s.logRefusal a (semOff n) true

def execSemaphoreClaim (a : HostAcc) (n : Nat) (s : State) : Out := s.answers a (fun s => if 64 ≤ n then s else s.semRead a n)
def execSemaphoreRelease (a : HostAcc) (n : Nat) (s : State) : Out := s.answers a (fun s => if 64 ≤ n then s else s.semWrite a n false)
def execSemaphoreForceRelease (a : HostAcc) (n : Nat) (s : State) : Out := s.answers a (fun s => if 64 ≤ n then s else s.semWrite a n true)

/-! ### Binding an ASID (R67) -/

/-- The descriptors bound to an ASID. -/
def State.boundTo (s : State) (a : Nat) : List Nat := (s.descs.filter (fun p => p.2.basid.toNat == a)).map (·.1)

def State.bindAsid (s : State) (a d : Nat) : State :=
  let g : BitVec 4 := tget 0 s.asgen a + 1
  let s : State := { s with asgen := tset 0 s.asgen a g }
  let s := if g = 0 then s.dropTrans a none 0 (2 ^ 64) else s
  let s := (s.boundTo a).foldl (fun s e => s.modDesc e (fun x => { x with basid := 0xFFFF })) s
  let s := s.modDesc d (fun x => { x with basid := BitVec.ofNat 16 a })
  { s with hub := { s.hub with busy := true, bst := 0, gen := g } }

/-- A write of `HUB.ASBIND`. R67 lists descriptors 1 to 127 and gives descriptor 0 no fate: it is bound like any other (assumption
105, DESIGN CHOICE). -/
def State.asbindWrite (s : State) (v : Word) : State :=
  let a := v.extractLsb' 0 10
  let d := v.extractLsb' 10 7
  if !v.getLsbD 17 then { s with hub := { s.hub with asid := a, desc := d } }
  else if s.hub.busy then s
  else
    let s : State := { s with hub := { s.hub with asid := a, desc := d } }
    if (s.boundTo a.toNat).any (fun e => (s.descAt e).live) then { s with hub := { s.hub with bst := 1 } }
    else if (s.descAt d.toNat).live then { s with hub := { s.hub with bst := 2 } }
    else s.bindAsid a.toNat d.toNat

def execAsidBind (a : HostAcc) (v : Word) (s : State) : Out :=
  s.answers a (fun s => if a.user then s.logRefusal a 0xB0000 true else s.asbindWrite v)

def execAsidBindDone (s : State) : Out := .next { s with hub := { s.hub with busy := false } }

/-! ### Killing a context (R355) -/

def State.ctxkillWrite (s : State) (v : Word) : State :=
  let d := v.extractLsb' 0 7
  if !v.getLsbD 7 then { s with hub := { s.hub with kdesc := d } }
  else if s.hub.kbusy then s
  else
    let s : State := { s with hub := { s.hub with kdesc := d } }
    if d = 0 then { s with hub := { s.hub with kst := 2 } }
    else if !(s.descAt d.toNat).live || (s.ctxAt d.toNat).ending != .no then { s with hub := { s.hub with kst := 1 } }
    else
      let t := s.killCtx d.toNat
      { t with hub := { t.hub with kbusy := true, kwho := d, kst := 0 } }

def execCtxkill (a : HostAcc) (v : Word) (s : State) : Out :=
  s.answers a (fun s => if a.user then s.logRefusal a 0xB0008 true else s.ctxkillWrite v)

/-! ### Port registers (R372) -/

def State.clearErrlog (s : State) (p : Port) : State := s.putPort p { s.portAt p with ev := false, eovf := false }

def execErrlogClear (a : HostAcc) (s : State) : Out := s.answers a (fun s => s.clearErrlog a.port)

def PortRegs.errlog (p : PortRegs) : Word :=
  BitVec.ofNat 64 (p.eoff.toNat + (if p.ewin then 2 ^ 22 else 0) + (if p.ewr then 2 ^ 23 else 0) + (if p.ev then 2 ^ 24 else 0) +
    (if p.eovf then 2 ^ 25 else 0))

/-- Unmasking a vector, or enabling a port's MSI-X, sends what is pending. The table lies outside the user window, and the
enable in the port's configuration space. -/
def execMsixUnmask (a : HostAcc) (vec : Option Nat) (s : State) : Out :=
  let r := s.portAt a.port
  match vec with
  | none => s.configures a (fun s => (s.putPort a.port { r with msix := true }).sendPending a.port)
  | some v =>
    s.answers a (fun s =>
      if a.user || 2048 ≤ v then s
      else (s.putPort a.port (r.putTableWord (2 * v + 1) (r.tableWord (2 * v + 1) &&& ~~~((1 : Word) <<< 32)))).sendPending a.port)

/-! ### Power and attestation (R377, R378) -/

/-- A cap outside its limits is logged in the port's `PORT.ERRLOG` (R378). One that comes through Maryon comes through no port: it is logged
in both, as an access of the control window (assumption 112, DESIGN CHOICE). -/
def State.logCap (s : State) (a : HostAcc) : State :=
  if a.i3c then
    ([Port.A, Port.B]).foldl (fun s p => s.logRefusal { a with port := p, user := false } 0xC0100 true) s
  else s.logRefusal a 0xC0100 true

/-- `HUB.PCAP`, read-only in the user window, which Maryon is not: a cap outside its limits is refused; with `pen` = 0 the power step is 0. -/
def State.pcapWrite (s : State) (a : HostAcc) (v : Word) : State :=
  let cap := v.extractLsb' 0 12
  let pen := v.getLsbD 12
  if a.user && !a.i3c then s
  else if cap.toNat < 1200 || 3200 < cap.toNat then s.logCap a
  else { s with board := { s.board with cap := cap, pen := pen, pstep := if pen then s.board.pstep else 0 } }

/-- Maryon answers once the management controller has given it an address (R374). -/
def State.maryonAnswers (s : State) (k : State → State) : Out := .next (if s.board.maryon.isSome then k s else s)

def execPcapWrite (a : HostAcc) (v : Word) (s : State) : Out :=
  if a.i3c then s.maryonAnswers (fun s => s.pcapWrite a v) else s.answers a (fun s => s.pcapWrite a v)

def Board.pcap (b : Board) : Word :=
  BitVec.ofNat 64 (b.cap.toNat + (if b.pen then 2 ^ 12 else 0) + 2 ^ 16 * max b.pstep b.tstep + (if b.tstep = 0 then 0 else 2 ^ 21) +
    (if b.pstep = 0 then 0 else 2 ^ 22))

/-- The word at offset 0 of the attestation buffer. -/
def Board.attestWord (b : Board) : Nat := leNat (tgetRun 0 b.attest 0 4)

/-- Starts a report; a request made while one is being written is discarded. -/
def State.attestAsk (s : State) : State :=
  if s.board.attestWord = 1 then s else { s with board := { s.board with attest := tsetRun 0 s.board.attest 0 (leBytes 4 1) } }

def execAttestationRequest (a : HostAcc) (s : State) : Out :=
  if a.i3c then s.maryonAnswers State.attestAsk
  else s.answers a (fun s => if a.user then s.logRefusal a 0xC1000 true else s.attestAsk)

/-- A write into the attestation buffer: the request word, or the nonce. -/
def State.attestWrite (s : State) (o : Nat) (v : Word) : State :=
  if o = 0 then (if v.extractLsb' 0 32 = 1 then s.attestAsk else s)
  else if 32 ≤ o && o < 64 then { s with board := { s.board with attest := tsetRun 0 s.board.attest o (leBytes 8 v.toNat) } }
  else s

/-- A read of the attestation buffer: request word, nonce and report, then the identity's public key and its certificate, whose places
the spec does not give and whose contents are the maker's (R377; assumption 104). -/
def State.attestRead (s : State) (o : Nat) : State :=
  if o < 2752 then { s with lastRead := BitVec.ofNat 64 (leNat (tgetRun 0 s.board.attest o 8)) }
  else if o < 4064 then { s with lastRead := BitVec.ofNat 64 (leNat (((Config.mldsaKey s.board.fseed).drop (o - 2752)).take 8)) }
  else { s with lastRead := Config.identityCert s.board.fseed (o - 4064) }

/-! ### Tree directory entries (R73, R74) -/

/-- Node `j` of level `h` over an area: 0 where the area is rooted there, 1 where it passes across the node's left edge, 2 across its
right edge (one that covers the whole node: assumption 104). -/
def Area.role (a : Area) (h j : Nat) : Option Nat :=
  let lo := j * 2 ^ h
  let hi := lo + 2 ^ h - 1
  if a.last < lo || hi < a.first then none
  else if a.first < lo then some 1
  else if hi < a.last then some 2
  else if h = 0 || (a.first < lo + 2 ^ (h - 1) && lo + 2 ^ (h - 1) ≤ a.last) then some 0
  else none

/-- The bits of an entry for an area in a role. -/
def Area.dirEntry (a : Area) (role : Nat) : Nat :=
  1 + 2 * role + 2 ^ 3 * (a.desc % 128) + 2 ^ 10 * (a.opid % 2 ^ 20) + 2 ^ 30 * (a.first % 2 ^ 13) + 2 ^ 43 * (a.last % 2 ^ 13) +
    2 ^ 56 * (a.dfr % 16) + 2 ^ 60 * (a.cls % 16) + 2 ^ 64 * a.birth.toNat + (if a.urg then 2 ^ 96 else 0)

/-- The directory entry of a node in a role: that of the live area which the node serves so; of two areas rooted in one cell, that
of the first live one (R73; assumption 107, DESIGN CHOICE). -/
def State.dirEntry (s : State) (h j role : Nat) : Nat :=
  match s.areas.find? (fun p => p.2.live && p.2.role h j == some role) with
  | some p => p.2.dirEntry role
  | none => 0

/-- The word at an offset of the debug region: node `j` of level `h` has its three entries from 64 (2^(13 − h) + j) on
(assumption 104). -/
def State.debugWord (s : State) (o : Nat) : Word :=
  let n := o / 64
  let h := 13 - Nat.log2 n
  if n = 0 || o % 64 / 16 = 3 then 0
  else BitVec.ofNat 64 (s.dirEntry h (n - 2 ^ (13 - h)) (o % 64 / 16) / 2 ^ (64 * (o % 16 / 8)))

/-! ### Descriptors (R66) -/

/-- Descriptor words that the hub keeps as one 128-byte record. -/
def Desc.word (x : Desc) (o : Nat) : Word :=
  match o with
  | 0 => x.ptroot
  | 8 => BitVec.ofNat 64 (x.basid.toNat + 2 ^ 16 * ((if x.valid then 1 else 0) + (if x.signed then 2 else 0) + (if x.live then 4 else 0)) +
      2 ^ 32 * x.pceil.toNat + 2 ^ 40 * x.maxstr.toNat)
  | 16 => x.spbase
  | 24 => x.spsize
  | 32 => x.envbase
  | 40 => x.envsize
  | 48 => x.keyid.extractLsb' 0 64
  | 56 => x.keyid.extractLsb' 64 64
  | 64 => x.keyid.extractLsb' 128 64
  | 72 => x.keyid.extractLsb' 192 64
  | 80 => x.keyaddr
  | _ => 0

/-- One word of the key digest replaced. -/
def putKey (k : BitVec 256) (n : Nat) (v : Word) : BitVec 256 :=
  BitVec.ofNat 256 (leNat ((leBytes 32 k.toNat).take (8 * n) ++ leBytes 8 v.toNat ++ (leBytes 32 k.toNat).drop (8 * n + 8)))

/-- A write of a descriptor word: `basid` and `live` are read-only, reserved bytes stay zero. -/
def Desc.putWord (x : Desc) (o : Nat) (v : Word) : Desc :=
  match o with
  | 0 => { x with ptroot := v }
  | 8 => { x with valid := v.getLsbD 16, signed := v.getLsbD 17, pceil := v.extractLsb' 32 8, maxstr := v.extractLsb' 40 8 }
  | 16 => { x with spbase := v }
  | 24 => { x with spsize := v }
  | 32 => { x with envbase := v }
  | 40 => { x with envsize := v }
  | 48 => { x with keyid := putKey x.keyid 0 v }
  | 56 => { x with keyid := putKey x.keyid 1 v }
  | 64 => { x with keyid := putKey x.keyid 2 v }
  | 72 => { x with keyid := putKey x.keyid 3 v }
  | 80 => { x with keyaddr := v }
  | _ => x

/-! ### The register map (R56, R371) -/

def Queue.ctl (x : Queue) : Word :=
  BitVec.ofNat 64 ((if x.en then 1 else 0) + 2 * x.dlo.toNat + 2 ^ 8 * x.dhi.toNat + 2 ^ 15 * x.vec.toNat)

def Queue.stat (x : Queue) : Word :=
  BitVec.ofNat 64 (x.pc.toNat + 2 ^ 16 * x.cc.toNat + 2 ^ 32 * x.ecause.toNat + (if x.errv then 2 ^ 36 else 0))

/-- A write of `HUB.QCTL`: a queue that is enabled takes as expected the `seq` of the next record it checks, one that was committed
before a disable and still waits among them (R61; assumption 105, DESIGN CHOICE). -/
def State.qctlWrite (s : State) (q : Nat) (v : Word) : State :=
  let en := v.getLsbD 0
  let s := s.modQueue q (fun x => { x with
    en := en
    dlo := v.extractLsb' 1 7
    dhi := v.extractLsb' 8 7
    vec := v.extractLsb' 15 11
    expect := if en && !x.en then none else x.expect })
  if v.getLsbD 26 then s.flushQueue q else s

/-- Registers of the layout by window offset. -/
inductive Place where
  | slot (q k o : Nat)
  | qctl (q : Nat)
  | qstat (q : Nat)
  | sem (n : Nat)
  | desc (d o : Nat)
  | asbind
  | ctxkill
  | asgen (a : Nat)
  | errlog
  | pcap
  | attest (o : Nat)
  | debug (o : Nat)
  | msixTable (w : Nat)
  | msixPba (w : Nat)
  | nothing
  deriving DecidableEq, Repr

def placeOf (off : Nat) : Place :=
  if off % 8 != 0 then .nothing
  else if off < 0x80000 then .slot (off / 0x2000) (off % 0x2000 / 0x100) (off % 0x100)
  else if off < 0x81000 then (if off % 0x40 = 0 then .qctl ((off - 0x80000) / 0x40) else if off % 0x40 = 8 then .qstat ((off - 0x80000) / 0x40) else .nothing)
  else if 0x90000 ≤ off && off < 0x90200 then .sem ((off - 0x90000) / 8)
  else if 0xA0000 ≤ off && off < 0xA4000 then .desc ((off - 0xA0000) / 0x80) (off % 0x80)
  else if off = 0xB0000 then .asbind
  else if off = 0xB0008 then .ctxkill
  else if 0xB0100 ≤ off && off < 0xB2100 then .asgen ((off - 0xB0100) / 8)
  else if off = 0xC0000 then .errlog
  else if off = 0xC0100 then .pcap
  else if 0xC1000 ≤ off && off < 0xC2000 then .attest (off - 0xC1000)
  else if 0x100000 ≤ off && off < 0x200000 then .debug (off - 0x100000)
  else if 0x200000 ≤ off && off < 0x208000 then .msixTable ((off - 0x200000) / 8)
  else if 0x208000 ≤ off && off < 0x208100 then .msixPba ((off - 0x208000) / 8)
  else .nothing

/-- The unprivileged view of a place is none. -/
def Place.hidden : Place → Bool
  | .desc _ _ => true
  | .asbind => true
  | .ctxkill => true
  | .attest _ => true
  | .debug _ => true
  | _ => false

/-- The user window ends below the MSI-X structures (R55). -/
def Place.outside : Place → Bool
  | .msixTable _ => true
  | .msixPba _ => true
  | _ => false

/-- A read of a register: the word it returns. -/
def State.regRead (s : State) (a : HostAcc) (p : Place) : State :=
  let r := s.portAt a.port
  match p with
  | .slot q k o => { s with lastRead := BitVec.ofNat 64 (leNat (tgetRun 0 (s.queueAt q).bytes (256 * k + o) 8)) }
  | .qctl q => { s with lastRead := (s.queueAt q).ctl }
  | .qstat q => { s with lastRead := (s.queueAt q).stat }
  | .sem n => s.semRead a n
  | .desc d o => { s with lastRead := (s.descAt d).word o }
  | .asbind => { s with lastRead := BitVec.ofNat 64 (s.hub.asid.toNat + 2 ^ 10 * s.hub.desc.toNat + (if s.hub.busy then 2 ^ 18 else 0) +
      2 ^ 19 * s.hub.bst.toNat + 2 ^ 21 * s.hub.gen.toNat) }
  | .ctxkill => { s with lastRead := BitVec.ofNat 64 (s.hub.kdesc.toNat + (if s.hub.kbusy then 2 ^ 8 else 0) + 2 ^ 9 * s.hub.kst.toNat) }
  | .asgen n => { s with lastRead := BitVec.ofNat 64 (s.genOf n) }
  | .errlog => { s with lastRead := r.errlog }
  | .pcap => { s with lastRead := s.board.pcap }
  | .attest o => s.attestRead o
  | .debug o => { s with lastRead := s.debugWord o }
  | .msixTable w => { s with lastRead := r.tableWord w }
  | .msixPba w => { s with lastRead := BitVec.ofNat 64 (((upto 0 64).map (fun k => if r.pend.contains (64 * w + k) then 2 ^ k else 0)).sum) }
  | .nothing => { s with lastRead := 0 }

/-- A write of a register; a read-only one keeps its value. -/
def State.regWrite (s : State) (a : HostAcc) (off : Nat) (p : Place) (v : Word) : State :=
  match p with
  | .slot q k o => s.slotWrite q k o (leBytes 8 v.toNat)
  | .qctl q => if a.user then (if v.getLsbD 26 then s.logRefusal a off true else s) else s.qctlWrite q v
  | .qstat q => if v.getLsbD 36 then s.clearErrv q else s
  | .sem n => s.semWrite a n (v.getLsbD 63)
  | .desc d o => s.modDesc d (fun x => x.putWord o v)
  | .asbind => s.asbindWrite v
  | .ctxkill => s.ctxkillWrite v
  | .errlog => if v.getLsbD 24 then s.clearErrlog a.port else s
  | .pcap => s.pcapWrite a v
  | .attest o => s.attestWrite o v
  | .msixTable w => (s.putPort a.port ((s.portAt a.port).putTableWord w v)).sendPending a.port
  | .asgen _ => s
  | .debug _ => s
  | .msixPba _ => s
  | .nothing => s

/-- A report of a cold start: the step reached, whether the module is in recovery (then the step that failed), a recorded trip, the
ports that stayed down. -/
def Board.status (b : Board) : Word :=
  BitVec.ofNat 64 (b.boot % 16 + (if b.recovery then 2 ^ 4 else 0) + (if b.trip then 2 ^ 5 else 0) +
    ((b.bootDown.map (fun p => if p < 16 then 2 ^ (16 + p) else 0)).sum))

/-- What the management controller reads through Maryon, at offsets that are the model's (R374; assumption 104). -/
def State.maryonRead (s : State) (off : Nat) : State :=
  let b := s.board
  let give (w : Word) : State := { s with lastRead := w }
  if off % 8 != 0 then give 0
  else if off < 0x100 then give (BitVec.ofNat 64 (b.dies.getD (off / 8) 0))
  else if off = 0x100 then give (BitVec.ofNat 64 b.plate)
  else if off = 0x108 then give (BitVec.ofNat 64 b.lastW)
  else if off = 0x110 then give (b.softC.setWidth 64)
  else if off = 0x118 then give (b.softU.setWidth 64)
  else if off = 0x120 then give b.status
  else if off = 0xC0100 then give b.pcap
  else if 0xC1000 ≤ off && off < 0xC2000 then s.attestRead (off - 0xC1000)
  else give 0

/-- What it writes: `HUB.PCAP` and the attestation buffer. -/
def State.maryonWrite (s : State) (a : HostAcc) (off : Nat) (v : Word) : State :=
  if off = 0xC0100 then s.pcapWrite a v
  else if 0xC1000 ≤ off && off < 0xC2000 && off % 8 = 0 then s.attestWrite (off - 0xC1000) v
  else s

/-- A read (no value) or a write of 64 bits at an offset of the window. -/
def execRegisterWrite (a : HostAcc) (off : Nat) (v : Option Word) (s : State) : Out :=
  if a.i3c then
    s.maryonAnswers (fun s => match v with
      | some v => s.maryonWrite a off v
      | none => s.maryonRead off)
  else
    s.answers a (fun s =>
      let p := placeOf off
      if a.user && p.outside then s
      else if a.user && p.hidden then
        (match v with
         | some _ => s.logRefusal a off true
         | none => { s.logRefusal a off false with lastRead := 0 })
      else
        match v with
        | some v => s.regWrite a off p v
        | none => s.regRead a p)

end Sys2Proof.Machine
end

