-- ==== Sys2Proof/Machine/Module.lean ====
section
/-! DEFINITION. The module around its row: inbound requests (R147, R265, R329), power and temperature (R378), links and errors
(R379 to R382), identity and attestation (R377), management (R374), and the cold start (R375, R376). -/

namespace Sys2Proof.Machine

open Sys2Proof

/-! ### Inbound requests -/

/-- A range of HBM. -/
def inHbm (pa n : Nat) : Bool := decide (pa + n ≤ Config.hbmEnd)

/-- A posted write of a host, at its point of coherence (R265). -/
def execInboundPortWrite (_p : Port) (pa : Nat) (data : List Byte) (s : State) : Out :=
  .next (if s.board.opened && inHbm pa data.length then s.poke pa data else s)

/-- The flag region stands in a range: a peer sets no flag but by a chunk (R363). -/
def inFlags (o n : Nat) : Bool := decide (Config.flagBase < o + n) && decide (o < Config.hbmEnd)

/-- A UALink request of a peer: byte offsets of the exported window are those of HBM (assumption 8). -/
def State.peerRequest (s : State) (r : PeerReq) : State :=
  match r with
  | .read o n => if inHbm o n then { s with lastRead := BitVec.ofNat 64 (leNat (s.peek o (min n 8))) } else s
  | .write o data => if inHbm o data.length then s.poke o (data.take (Config.flagBase - o)) else s
  | .atomic aop wide o b c =>
    let ty := if wide then 3 else 2
    let n := atomBytes aop.toNat ty
    let old := s.peekNat o n
    if !inHbm o n || inFlags o n || o % n != 0 || !([0, 8, 9].contains aop.toNat) then s
    else
      let t := match (atomNew aop.toNat ty old b.toNat c.toNat).1 with
        | some v => s.pokeNat o n v
        | none => s
      { t with lastRead := BitVec.ofNat 64 old }

def execPeerInboundRequest (r : PeerReq) (s : State) : Out := .next (s.peerRequest r)

/-- A port reset releases every semaphore held through the port (R57). -/
def execPciExpressPortReset (p : Port) (s : State) : Out :=
  .next { s with sems := s.sems.filter (fun q => !(q.2.held && q.2.port == p)) }

/-! ### Power and temperature (R378) -/

def execPowerStepRise (s : State) : Out :=
  let b := s.board
  .next (if b.pen && decide (b.cap.toNat < b.lastW) && decide (b.pstep < 26) then { s with board := { b with pstep := b.pstep + 1 } } else s)

def execPowerStepFall (s : State) : Out :=
  let b := s.board
  .next (if b.pen && decide (100 * b.lastW < 95 * b.cap.toNat) then { s with board := { b with pstep := b.pstep - 1 } } else s)

def execThermalStepRise (s : State) : Out :=
  let b := s.board
  .next (if 100 < b.lastHot && b.tstep < 26 then { s with board := { b with tstep := b.tstep + 1 } } else s)

def execThermalStepFall (s : State) : Out :=
  let b := s.board
  .next (if b.lastHot ≤ 95 then { s with board := { b with tstep := b.tstep - 1 } } else s)

/-- A die at 110 °C stops every clock, and Maryon records it. -/
def execThermalTrip (s : State) : Out :=
  .next (if 110 ≤ s.board.lastHot then { s with board := { s.board with tripped := true, trip := true } } else s)

/-! ### Links (R379) -/

/-- The failures of one flit after which its link is left to its retrain: the first, and the failures of 8 retries. -/
def retrainAt : Nat := 9

/-- A flit that fails its CRC is sent again; after the failure of its eighth retry the link waits for its retrain. Whether the flit is
the one that failed last is the link's free choice: a retry that succeeded has ended the count (assumption 89). -/
def execFlitCrcRetry (s : State) : Out :=
  let n := tget 0 s.board.retries s.unit
  .next (
    if retrainAt ≤ n then s
    else
      let (same, t) := s.free 1
      { t with board := { t.board with retries := tset 0 t.board.retries t.unit (if same = 1 then n + 1 else 1) } })

def execLinkRetrain (link : Nat) (ok : Bool) (s : State) : Out :=
  .next (
    if tget 0 s.board.retries link < retrainAt then s
    else
      let t : State := { s with board := { s.board with retries := tset 0 s.board.retries link 0 } }
      if ok then t else t.machineCheck)

/-! ### Errors (R380 to R382) -/

/-- A corrected error of a cell: the sixteenth within one hour calls for its retirement. -/
def State.countError (s : State) (c : Nat) : State :=
  s.modCell c (fun x =>
    let l := s.cyc :: x.errs.filter (fun t => decide (s.cyc < t + Config.hourCycles))
    { x with errs := l, due := x.due || decide (16 ≤ l.length) })

/-- An uncorrectable error of its registers or its tile store does at once. -/
def State.condemn (s : State) (c : Nat) : State := s.modCell c (fun x => { x with due := true })

/-- The unit stands in a leaf cell. -/
def errInCell : ErrUnit → Bool
  | .register => true
  | .slot => true
  | .tileStore => true
  | .programCache => true
  | .outSlot => true
  | .stageCache => false
  | .hbm => false
  | .directory => false

def execCorrectedError (u : ErrUnit) (idx addr : Nat) (s : State) : Out :=
  .next (
    let t := s.softError u idx addr false
    if errInCell u then t.countError idx else t)

/-- The level-1, level-2 and level-3 tables of a descriptor: physical bases. -/
def State.tablesOf (s : State) (d : Nat) : List Nat :=
  let next (t : Nat) (bad : Word → Bool) : List Nat := (upto 0 8192).filterMap (fun k =>
    let e : Word := BitVec.ofNat 64 (s.peekNat (t + 8 * k) 8)
    if entV e && entTbl e && !bad e then some (entPa e) else none)
  let one := (s.descUse d).ptroot.toNat
  let two := next one tblBad
  one :: two ++ two.flatMap (fun t => next t tblBad)

/-- The descriptors whose page tables are in use: the valid ones, and those a live context keeps though its valid bit has been cleared
since (R66). -/
def State.tableDescs (s : State) : List Nat :=
  (s.descs.filter (fun p => p.2.valid)).map (·.1) ++ (s.ctxs.filter (fun p => p.2.kept.isSome)).map (·.1)

/-- The byte belongs to a page table that is in use. -/
def State.inTable (s : State) (pa : Nat) : Bool :=
  s.tableDescs.any (fun d => (s.tablesOf d).any (fun t => decide (t ≤ pa) && decide (pa < t + 65536)))

/-- Whether a cell lies in the pager strand. -/
def pagerCell (c : Nat) : Bool := strandOf c == Config.pagerStrand

/-- The context that stands in a cell stops as for a row-integrity fault; in the pager strand it is a machine check. -/
def State.rowHit (s : State) (c : Nat) : State :=
  if pagerCell c then s.machineCheck
  else
    match s.ctxOfCell c with
    | some d => if (s.ctxAt d).stopped || (s.ctxAt d).ending != .no then s else s.rowFault d 1
    | none => s

/-- A running application stands in the cell. -/
def State.runsIn (s : State) (c : Nat) : Bool :=
  s.areas.any (fun p => p.2.live && p.2.cells.contains c && (p.2.phase == .running || p.2.phase == .parked))

/-- An error that matters where an application runs; in the pager strand it always does. -/
def State.appHit (s : State) (c : Nat) : State := if pagerCell c || s.runsIn c then s.rowHit c else s

/-- A byte of memory is lost: what it holds is free, it is marked, and in a page table it is a machine check. -/
def State.loseByte (s : State) (pa : Nat) (inTable : Bool) : State :=
  let (x, t) := s.free 8
  let t : State := { t with mem := tset 0 t.mem pa x, bad := t.bad ++ (if t.bad.contains pa then [] else [pa]) }
  if inTable then t.machineCheck else t

/-- A microprogram cache with one word of its `n`th microprogram replaced. -/
def spoilWord (l : List Tag) (n word : Nat) (x : Word) : List Tag := l.modify n (fun t => { t with code := t.code.set word x })

/-- An uncorrectable error, by place (R380), with its record (R381). For a word of a microprogram cache and a line of the stage cache
R380 names no fate of their own: the word is a free value, a home line's byte is as the memory byte it stands for, and a guest line, a
clean copy, is dropped (assumption 91). -/
def execUncorrectableError (p : ErrPlace) (s : State) : Out :=
  .next (match p with
    | .slot c => (s.softError .slot c 0 true).rowHit c
    | .outSlot c => (s.softError .outSlot c 0 true).appHit c
    | .directory i =>
      let a := s.areaAt i
      if a.live then (s.softError .directory a.first 0 true).rowHit a.first else s.softError .directory 0 0 true
    | .register c => ((s.softError .register c 0 true).condemn c).appHit c
    | .tileByte c o =>
      let (x, t) := s.free 8
      let t := (t.softError .tileStore c o true).condemn c
      let t := t.modCell c (fun y => { y with ts := tset 0 y.ts o x, bad := y.bad ++ (if y.bad.contains o then [] else [o]) })
      if pagerCell c then t.machineCheck else t
    | .memByte pa =>
      if !inHbm pa 1 then s
      else
        (s.softError .hbm (pa / 2 ^ 36) pa true).loseByte pa (s.inTable pa)
    | .stageByte b pa =>
      if !(s.bayAt b).lines.any (fun l => l.num == pa / 128) then s
      else
        let t := s.softError .stageCache (pa / 2 ^ 36) pa true
        if b = homeSlice pa then t.loseByte pa (s.inTable pa)
        else t.modBay b (fun x => { x with lines := x.lines.filter (fun l => l.num != pa / 128) })
    | .program c n k =>
      let (x, t) := s.free 64
      let t := (t.softError .programCache c (512 * n + 8 * k) true).modCell c (fun y => { y with cache := spoilWord y.cache n k x })
      if pagerCell c then t.machineCheck else t
    | .hubProgram n k =>
      let (x, t) := s.free 64
      let t := t.softError .programCache 0xFFFF (512 * n + 8 * k) true
      { t with hubCache := spoilWord t.hubCache n k x }
    | .broadcast i =>
      let a := s.areaAt i
      let t := s.softError .programCache a.first 0 true
      if a.live && a.phase == .formed && (s.bayAt (a.bays.headD 0)).phase == .load then t.deferArea i else t)

/-- Firmware retires a cell: at once where its strand is free, and otherwise when it next is. -/
def execCellRetirement (s : State) : Out :=
  let c := s.unit
  let x := s.cellAt c
  .next (
    if Config.cells ≤ c || !x.due || s.board.retireMap.contains c then s
    else
      let t : State := { s with board := { s.board with retireMap := s.board.retireMap ++ [c] } }
      if t.freeStrand (strandOf c) then t.modCell c (fun y => { y with retired := true })
      else t.modCell c (fun y => { y with marked := true }))

/-! ### Management and attestation (R374, R377) -/

def execDynamicAddressAssignment (addr : BitVec 7) (s : State) : Out :=
  .next { s with board := { s.board with maryon := some addr } }

/-- The fuse state with the retirement map, in an order that is the model's (assumption 104). -/
def Board.fuses (b : Board) : List Byte :=
  b.fkeys.flatMap (fun k => leBytes 32 k.1.toNat ++ leBytes 1 (if k.2 then 1 else 0)) ++ leBytes 4 b.fsvn.toNat ++ leBytes 32 b.fseed.toNat ++
    b.retireMap.flatMap (leBytes 2)

/-- The bytes a report signs. -/
def State.reportBody (s : State) (n : BitVec 32) : List Byte :=
  let b := s.board
  leBytes 4 0x54545441 ++ leBytes 4 n.toNat ++ tgetRun 0 b.attest 32 32 ++ leBytes 32 b.mdig.toNat ++
    (upto 0 4).flatMap (fun k => leBytes 32 (b.cdigs.getD k 0).toNat) ++ leBytes 32 (Config.sha3 b.fuses).toNat ++
    leBytes 32 (Config.sha3 (Config.mldsaKey b.fseed)).toNat

/-- The report is written and the request word becomes 2. -/
def execAttestationReportReady (s : State) : Out :=
  .next (
    if s.board.attestWord != 1 then s
    else
      let n := s.board.nrep + 1
      let body := s.reportBody n
      let sig := (Config.mldsaSign s.board.fseed body).take 2420
      let a := tsetRun 0 s.board.attest 64 (body ++ sig)
      { s with board := { s.board with attest := tsetRun 0 a 0 (leBytes 4 2), nrep := n } })

/-! ### Cold start (R375, R376) -/

/-- An entry of the manifest: component, size, flash offset, digest. -/
structure ManEntry where
  cid  : Nat
  size : Nat
  loc  : Nat
  dig  : BitVec 256
  deriving DecidableEq, Repr

/-- The manifest's length before its signature. -/
def manBytes (n : Nat) : Nat := 64 + 48 * n + 1312

/-- The manifest in flash (at offset 0, assumption 5) with the digest of the whole of it, its signature included (R375, R377), or none
where it is not accepted. -/
def Board.manifest (b : Board) : Option (List ManEntry × BitVec 256) :=
  let rd (o n : Nat) : List Byte := tgetRun 0 b.flash o n
  let n := leNat (rd 8 4)
  let h := rd 0 64
  let good := fieldAt h 0 4 == 0x4E414D42 && decide (1 ≤ n) && decide (n ≤ 64) && decide (b.fsvn.toNat ≤ fieldAt h 4 4)
  if !good then none
  else
    let key := rd (64 + 48 * n) 1312
    let dig := Config.sha3 (rd 0 (manBytes n))
    if !b.fkeys.any (fun k => !k.2 && k.1 == Config.sha3 key) || !Config.mldsaVerify key dig (rd (manBytes n) 2420) then none
    else
      some ((upto 0 n).map (fun k =>
        let e := rd (64 + 48 * k) 48
        { cid := fieldAt e 0 4, size := fieldAt e 4 4, loc := fieldAt e 8 8, dig := BitVec.ofNat 256 (fieldAt e 16 32) }), Config.sha3 (rd 0 (manBytes n + 2420)))

/-- A component meets its entry. -/
def Board.componentOk (b : Board) (e : ManEntry) : Bool :=
  decide (1 ≤ e.cid) && decide (e.cid ≤ 5) && (e.cid != 5 || e.size == 1312) && Config.sha3 (tgetRun 0 b.flash e.loc e.size) == e.dig

/-- What a cold start keeps: flash, fuses, retirements, the management address, and the memory of hosts and peers. -/
def State.afterReset (s : State) : State :=
  let b := s.board
  { State.reset with
    agenda := s.agenda
    unit := s.unit
    nfree := s.nfree
    mem := s.mem.filter (fun p => decide (2 ^ 50 ≤ p.1))
    board := { Board.blank with
      flash := b.flash
      fkeys := b.fkeys
      fsvn := b.fsvn
      fseed := b.fseed
      retireMap := b.retireMap
      maryon := b.maryon
      trip := b.trip
      lastW := b.lastW
      lastHot := b.lastHot
      dies := b.dies
      plate := b.plate } }

/-- Descriptor 0 as firmware writes it: its values are the firmware's (assumption 6). -/
def State.pagerDesc (s : State) : State :=
  let (pt, s) := s.free 64
  let (asid, s) := s.free 10
  let (sb, s) := s.free 64
  let (sz, s) := s.free 64
  let (eb, s) := s.free 64
  let (ez, s) := s.free 64
  s.putDesc 0 { Desc.blank with
    ptroot := pt
    basid := asid.setWidth 16
    valid := true
    live := true
    pceil := 7
    maxstr := 1
    spbase := sb
    spsize := sz
    envbase := eb
    envsize := ez }

/-- The pager image in strand 127 under descriptor 0. -/
def State.loadPager (s : State) (img : Option Image) : State :=
  let ctx : Ctx := { Ctx.blank with live := true, image := img, kept := some (s.descAt 0), gen := s.genOf (s.asidOf 0), prio := 7, start := Config.pagerStrand, len := 1 }
  let s := s.putCtx 0 ctx
  let home := Config.strandCells * Config.pagerStrand
  let (ys, s) := ((img.map Image.words).getD []).foldl (fun (q : List PSym × State) w =>
    if isTile w then let (bs, t) := q.2.freeBytes (tileLen w); (q.1 ++ [PSym.unheld w home bs none], t)
    else (q.1 ++ [PSym.held w home home none], q.2)) (([] : List PSym), s)
  match s.layOut 0 ys with
  | .ok t => t.freshBays 0
  | .error _ => s.freshBays 0

/-- Steps 4 to 9: memories and links trained, stores scrubbed, tables placed, retirements applied, the pager loaded, the
windows opened. The ports that fail to train and the accelerator id are the board's. -/
def State.bringUp (s : State) (es : List ManEntry) (dig : BitVec 256) : State :=
  let b := s.board
  let comp (k : Nat) : Option ManEntry := es.find? (fun e => e.cid == k)
  let bytes (e : ManEntry) : List Byte := tgetRun 0 b.flash e.loc e.size
  let (down, s) := s.free 16
  let (accel, s) := s.free 10
  let dead := (upto 0 16).filter (fun k => down.getLsbD k)
  let s : State := { s with board := { s.board with
    accel := accel
    bootDown := dead
    portUp := (upto 0 16).filter (fun k => !dead.contains k)
    mdig := dig
    cdigs := (upto 1 4).map (fun k => ((comp k).map ManEntry.dig).getD 0)
    mkeys := (es.filter (fun e => e.cid == 5)).map bytes } }
  let s := s.board.retireMap.foldl (fun s c => s.modCell c (fun x => { x with retired := true })) s
  let s := s.pagerDesc.loadPager ((comp 4).bind (fun e => Config.pagerImage (bytes e)))
  { s with board := { s.board with boot := 9, opened := true } }

def execColdStart (s : State) : Out :=
  let t := s.afterReset
  let stop (k : Nat) : State := { t with board := { t.board with boot := k, recovery := true } }
  .next (match t.board.manifest with
    | none => stop 2
    | some (es, dig) => if es.all t.board.componentOk then t.bringUp es dig else stop 3)

end Sys2Proof.Machine
end

