-- ==== Sys2Proof/Machine/Perform.lean ====
section
/-! DEFINITION. Operations performed from the heads of their queues (R237 to R249), copies as they land (R161, R185 to R188),
bridle evaluations (R256), fired watch entries (R262), and completions as their cells see them (R98, R105, R106, R133). -/

namespace Sys2Proof.Machine

open Sys2Proof

/-! ### Shared parts -/

def PendOp.who (o : PendOp) : Who := ⟨o.desc, o.priv⟩

/-- The cell sees a completion of the operation: its token, or the token id it was detached under. -/
def PendOp.seen (o : PendOp) : Bool := o.tok.isSome || o.det.isSome

/-- An operation without results ends: a completion where somebody waits for it. -/
def State.opEnd (s : State) (c : Nat) (o : PendOp) (ff : BitVec 6) : State :=
  if o.seen then s.opDone c o [] ff 0 false else s.opDrop c o.id

/-- The application of an operation, while its registers are there to be written. -/
def State.appLive (s : State) (i : Nat) : Bool := (s.areaAt i).live && ((s.areaAt i).phase == .running || (s.areaAt i).phase == .parked)

/-- An operation without a completion ends; the flags it owes its application reach it (R253). -/
def State.opGone (s : State) (c : Nat) (o : PendOp) (ff : BitVec 6) : State :=
  let s := s.opDrop c o.id
  if o.owed && s.appLive o.area then
    let a := s.appOf o.area c
    s.putAppOf o.area c { a with fflags := a.fflags ||| ff }
  else s

/-- The translation entry of the operation's stream register, where a stream access uses one (R153). -/
def State.heldEnt (s : State) (c : Nat) (o : PendOp) (gather : Bool) : Option TlbEnt :=
  if !gather && decide (o.que < 8) && o.det.isNone && s.appLive o.area then ((s.appOf o.area c).getA o.que).ent else none

/-- The translations a stream access holds itself: its register's entry, then those it has found on its way. -/
def PendOp.owns (o : PendOp) (ent : Option TlbEnt) : List TlbEnt := ent.toList ++ o.pages

/-- Every address of a stream access with its entry, its own or the edge TLB's, or the first that misses. -/
def State.streamEnts (s : State) (c : Nat) (o : PendOp) (ent : Option TlbEnt) (write : Bool) (vas : List Nat) : Except Nat (List (Nat × TlbEnt)) :=
  s.transFrom (.bay (bayOf c)) o.who (o.owns ent) write vas

/-- A stream register takes up the translation used last. -/
def State.refill (s : State) (c : Nat) (o : PendOp) (gather : Bool) (l : List (Nat × TlbEnt)) : State :=
  match l.getLast? with
  | none => s
  | some q =>
    if !gather && decide (o.que < 8) && o.det.isNone && s.appLive o.area then
      let a := s.appOf o.area c
      s.putAppOf o.area c (a.setA o.que { a.getA o.que with ent := some q.2 })
    else s

/-- A page of an operation misses: the walker is asked for it, on behalf of the source that a fault names (R343). -/
def State.missed (s : State) (c : Nat) (o : PendOp) (va : Nat) (write : Bool) (src : FaultSrc) : State :=
  s.askWalk (.bay (bayOf c)) o.who va write src c o.area [.cellOp c o.id]

/-- One page of several misses: what translates already is kept until all of them do (R153). -/
def State.missedOf (s : State) (c : Nat) (o : PendOp) (ent : Option TlbEnt) (vas : List Nat) (va : Nat) (write : Bool) (src : FaultSrc) : State :=
  (s.keepFound c o.id o.who (o.owns ent) write vas).missed c o va write src

/-! ### Streams -/

def State.gloadPerform (s : State) (c : Nat) (o : PendOp) (d ty : Nat) (base : VecVal) (els : List ElRead) (pz gather : Bool)
    (pol : Nat) : State :=
  match s.streamEnts c o (s.heldEnt c o gather) false (els.map (·.va)) with
  | .error va => s.missedOf c o (s.heldEnt c o gather) (els.map (·.va)) va false .stream
  | .ok l =>
    let xs := els.zip (l.map paOf)
    let v := overlay base (xs.map (fun p => (p.1.pos, p.1.bits, s.readNat (Party.ofCell c 0) 0 p.2 (elBytes p.1.bits) / 2 ^ p.1.sh)))
    let bd := (xs.filter (fun p => s.bad.any (fun q => decide (p.2 ≤ q) && decide (q < p.2 + elBytes p.1.bits)))).map (·.1)
    let (v, pz) := if bd.isEmpty then (v, pz) else (poisonEls v ty bd, true)
    let s := (s.refill c o gather l).accessed (bayOf c) o.who pol false l
    s.opDone c o [.v d v] (if pz then fPZ else 0) 0 false

/-- The bytes an element writes, over what stands before it in the same operation. -/
def State.elWrite (s : State) (c : Nat) (acc : List (Nat × Byte)) (e : ElWrite) (pa : Nat) : List (Nat × Byte) :=
  if e.bits < 8 then
    let old := (match acc.reverse.find? (fun (q : Nat × Byte) => q.1 == pa) with
      | some q => q.2
      | none => s.readByte (Party.ofCell c 0) 0 pa).toNat
    let b := if e.sh = 0 then old / 16 * 16 + e.val % 16 else old % 16 + e.val % 16 * 16
    acc ++ [(pa, BitVec.ofNat 8 b)]
  else acc ++ (upto pa (elBytes e.bits)).zip (leBytes (elBytes e.bits) e.val)

def State.gstorePerform (s : State) (c : Nat) (o : PendOp) (els : List ElWrite) (pz gather : Bool) (pol : Nat) : State :=
  match s.streamEnts c o (s.heldEnt c o gather) true (els.map (·.va)) with
  | .error va => s.missedOf c o (s.heldEnt c o gather) (els.map (·.va)) va true .stream
  | .ok l =>
    let bs := (els.zip (l.map paOf)).foldl (fun acc p => s.elWrite c acc p.1 p.2) []
    let s := (s.refill c o gather l).accessed (bayOf c) o.who pol true l
    let s := s.writeAll (Party.ofCell c 0) .stream o.que c o.id o.desc bs
    (s.landOp o.desc o.id).opEnd c o (if pz then fPZ else 0)

/-- `pfg` waits for the walks of the lines that miss; the walker drops a line whose walk faults (R157, R178). -/
def State.pfgPerform (s : State) (c : Nat) (o : PendOp) (vas : List Nat) (pol : Nat) : State :=
  match s.streamEnts c o (s.heldEnt c o false) false vas with
  | .error va => s.missedOf c o (s.heldEnt c o false) vas va false .stream
  | .ok l => (s.accessed (bayOf c) o.who pol false l).opEnd c o 0

/-! ### Atomics and flags -/

def State.atomPerform (s : State) (c : Nat) (o : PendOp) (d pa aop ty sc b x : Nat) : State :=
  let n := atomBytes aop ty
  let old := s.peekNat pa n
  let (new, fl) := atomNew aop ty old b x
  let s := match new with
    | some v => s.pokeNat pa n v
    | none => s
  let s := (s.keepLine (some (bayOf c)) 0 sc pa true).landed o.desc
  if o.seen then s.opDone c o (atomWrites d aop ty old) fl 0 false else s.opGone c o fl

def State.flsetPerform (s : State) (c : Nat) (o : PendOp) (idx : Nat) (add : Bool) (val : Word) : State :=
  let w := if add then s.flag idx + val else val
  ((s.pokeNat (flagAddr idx) 8 w.toNat).landed o.desc).opEnd c o 0

/-- A `flwait` reads its flag at the point of coherence (R261). One that the watch table has released takes the word that released
it (R262), whatever the flag holds by now. -/
def State.flwaitPerform (s : State) (c : Nat) (o : PendOp) (d idx : Nat) (exp : BitVec 32) (scp : Nat) (entered : Bool)
    (got : Option Word) : State :=
  let mine (q : WatchWho) : Bool := match q with | .cell _ op => op == o.id | _ => false
  let fired := got.orElse (fun _ => ((s.watch.find? (fun x => x.hit.isSome && x.who.any mine)).bind Watch.hit))
  let read := if flagReached (s.flag idx) exp then some (s.flag idx) else none
  match fired.orElse (fun _ => read) with
  | some w => (s.unwatch mine).opDone c o [.s d w] 0 0 false
  | none =>
  if entered then s
  else s.opPut c { o with kind := .flwait d idx exp scp true none }

/-! ### Bridles -/

/-- Goes on at the home of a bridle operation, its slot or its address translated, or asks for the translation. -/
def State.atHome (s : State) (c : Nat) (o : PendOp) (home : BridleHome) (va : Nat) (write : Bool) (k : State → BridleHome → State) : State :=
  match home with
  | .slot x i => k s (.slot x i)
  | .memory _ =>
    match s.lookup (.bay (bayOf c)) o.who va write with
    | some e => k (s.touched (bayOf c) 0 write [(va, e)]) (.memory (e.at va))
    | none => s.missed c o va write .atomic

/-- A slot's bridle lives no longer than its application (R255): what reaches it afterwards changes nothing. -/
def State.bridleGone (s : State) (o : PendOp) : BridleHome → Bool
  | .slot c i => (s.bridleAt (.slot c i)).area != some o.area
  | .memory _ => false

def State.brUpdPerform (s : State) (c : Nat) (o : PendOp) (d : Nat) (home : BridleHome) (va : Nat) (u : BrUpd) : State :=
  s.atHome c o home va true (fun s hm =>
    if s.bridleGone o hm then s.opEnd c o 0 else
    let s := s.bridleUpd hm u (if o.seen then some ⟨c, o.id⟩ else none)
    let s := match hm with
      | .memory _ => s.landed o.desc
      | .slot _ _ => s
    if o.seen then s.opPut c { o with kind := .brSent d } else s.opDrop c o.id)

/-- A `brwait` at its home; in a cycle with updates it is answered after their evaluation (R256; assumption 110, DESIGN CHOICE). -/
def State.brWaitPerform (s : State) (c : Nat) (o : PendOp) (d : Nat) (home : BridleHome) (va : Nat) (par : Bool) (scp : Nat)
    (entered : Bool) : State :=
  if entered then s
  else
    s.atHome c o home va false (fun s hm =>
      let b := s.bridleAt hm
      if !b.upd.isEmpty then s
      else if b.phase != par || b.fault then s.opDone c o [.s d (brStatus b.phase b.fault false)] 0 0 false
      else
        (s.putBridle hm { b with wait := b.wait ++ [(par, ⟨c, o.id⟩)] }).opPut c { o with kind := .brWait d hm va par scp true })

/-- A `brtest` at its home, answered after the evaluation of updates that are there already. -/
def State.brTestPerform (s : State) (c : Nat) (o : PendOp) (d : Nat) (home : BridleHome) (va : Nat) : State :=
  s.atHome c o home va false (fun s hm =>
    if !(s.bridleAt hm).upd.isEmpty then s else s.opDone c o [.s d (BitVec.ofNat 64 (Bridle.pack (s.bridleAt hm)))] 0 0 false)

/-! ### Matrix fetches -/

/-- Reads the first row still unread: the rows afterwards and the entries that translated it, or the address that misses. -/
def State.nextRow (s : State) (c : Nat) (o : PendOp) (ty : Nat) : List RowRead → Except Nat (List RowRead × List (Nat × TlbEnt))
  | [] => .ok ([], [])
  | r :: rs =>
    if r.els.isEmpty then (s.nextRow c o ty rs).map (fun q => (r :: q.1, q.2))
    else
      (s.fetchRow c o.who o.pages ty r).map (fun q => ({ base := q.1.1, els := [], pz := r.pz || q.1.2 } :: rs, q.2))

/-- The addresses of the first row still unread. -/
def rowVas (rows : List RowRead) : List Nat := ((rows.find? (fun r => !r.els.isEmpty)).map (fun r => r.els.map (·.va))).getD []

def rowsRead (rows : List RowRead) : Bool := rows.all (fun r => r.els.isEmpty)
def rowFlags (rows : List RowRead) : BitVec 6 := if rows.any (·.pz) then fPZ else 0

def State.bldPerform (s : State) (c : Nat) (o : PendOp) (b : Nat) (ty : BitVec 4) (n : Nat) (rows : List RowRead) : State :=
  match s.nextRow c o ty.toNat rows with
  | .error va => s.missedOf c o none (rowVas rows) va false .matrix
  | .ok (rows, l) =>
    let s := s.accessed (bayOf c) o.who 0 false l
    if rowsRead rows then s.opDone c o [.b b (Bank.ofRows ty (rows.map (·.base)))] (rowFlags rows) 0 false
    else s.opPut c { o with pages := [], kind := .bld b ty n rows }

def State.mmtPerform (s : State) (c : Nat) (o : PendOp) (acc bn : Nat) (b : Bank) (tya tyb : BitVec 4) (zc : Bool) (rows : List RowRead) : State :=
  match s.nextRow c o tya.toNat rows with
  | .error va => s.missedOf c o none (rowVas rows) va false .matrix
  | .ok (rows, l) =>
    let s := s.accessed (bayOf c) o.who 0 false l
    if rowsRead rows then
      let (m, fl) := kRows ((s.appOf o.area c).getM acc) zc tya.toNat tyb.toNat b (rows.map (·.base))
      s.opDone c o [.m acc m] (rowFlags rows) fl false
    else s.opPut c { o with pages := [], kind := .mmt acc bn b tya tyb zc rows }

/-! ### Area channels -/

def State.arcvPerform (s : State) (c : Nat) (o : PendOp) (d a ch : Nat) : State :=
  let ar := s.areaAt o.area
  match ar.recvBuf c ch with
  | [] => s
  | m :: rest =>
    let app := ar.appAt c
    let s := s.putArea o.area { ar.putApp c { app with recvq := tset [] app.recvq ch rest } with moved := s.cyc }
    s.opDone c o [.v d m.val, .s a (BitVec.ofNat 64 m.sender)] 0 0 false

/-! ### The head of a queue (R239) -/

/-- The operation `o` of cell `c` is performed, or one step of it. -/
def State.perform (s : State) (c : Nat) (o : PendOp) (part : OpPart) : State :=
  match o.kind with
  | .gload d ty base els pz gather pol => s.gloadPerform c o d ty base els pz gather pol
  | .gstore els pz gather pol => s.gstorePerform c o els pz gather pol
  | .atom d pa aop ty _ sc b x => s.atomPerform c o d pa aop ty sc b x
  | .flset idx add val _ => s.flsetPerform c o idx add val
  | .flwait d idx exp scp entered got => s.flwaitPerform c o d idx exp scp entered got
  | .brUpd d home va u _ => s.brUpdPerform c o d home va u
  | .brWait d home va par scp entered => s.brWaitPerform c o d home va par scp entered
  | .brTest d home va _ => s.brTestPerform c o d home va
  | .brSent _ => s
  | .copy _ _ _ _ _ _ => s
  | .bld b ty n rows => s.bldPerform c o b ty n rows
  | .mmt acc bn b tya tyb zc rows => s.mmtPerform c o acc bn b tya tyb zc rows
  | .msend _ _ _ _ => s
  | .mrecv _ _ _ => s
  | .coll k => s.collPerform o.area c k
  | .opnd d val => s.opDone c o [.s d val] 0 0 false
  | .asnd _ => s
  | .arcv d a ch => s.arcvPerform c o d a ch
  | .gld h plane va d got => s.gldPerform c o o.who h plane va d got part
  | .grel h => s.grelPerform c o h
  | .gstr _ _ _ _ _ _ => s.gstrPerform c o o.who part
  | .gcol _ _ _ _ _ _ => s
  | .gfrz h va d => s.gfrzPerform c o o.who h va d
  | .gthaw h va d => s.gthawPerform c o o.who h va d
  | .rlload r ch va => s.rlloadPerform c o r ch va
  | .rlgo r ch => s.rlgoPerform c o r ch
  | .rlpost r ch rc => s.rlpostPerform c o r ch rc
  | .rlstat d r ch => s.rlstatPerform c o d r ch
  | .pfg vas pol => s.pfgPerform c o vas pol
  | .tlbi lo hi asid gen => s.tlbiPerform c o lo hi asid gen
  | .ptst pa val => s.ptstPerform c o pa val
  | .asret d => s.asretPerform c o d
  | .ctxsv fn d => s.ctxsvPerform c o fn d
  | .fence _ _ _ _ _ _ => if s.fencePassed c (earlier (s.cellAt c).pend o.id) o then s.opDrop c o.id else s

def execPerformQueueHead (cell : Nat) (k : QueuePick) (s : State) : Out :=
  .next (match s.ready cell k.place with
    | none => s
    | some o => s.perform cell o k.part)

/-! ### Copies -/

/-- The copy at a place of a cell's list, and the one among them that is performed: the head of the cell's COPY queue, when
nothing holds it back (R239). -/
def State.copyNamed (s : State) (c k : Nat) : Option PendOp :=
  ((s.cellAt c).pend[k]?).filter (fun o => match o.kind with | .copy _ _ _ _ _ _ => true | _ => false)

def State.copyAt (s : State) (c k : Nat) : Option PendOp := (s.ready c k).filter (fun o => match o.kind with | .copy _ _ _ _ _ _ => true | _ => false)

def execCopyBurstLand (cell k : Nat) (runs : CopyPick) (s : State) : Out :=
  .next (match s.copyAt cell k with
    | none => s
    | some o => s.copyLand cell o o.who runs.first runs.n)

def execCopyComplete (cell k : Nat) (s : State) : Out :=
  .next (match s.copyNamed cell k with
    | none => s
    | some o =>
      if o.paused || !s.copyReady cell o then s
      else
        let s := s.copyFinish cell o
        let s := s.modCell cell (fun x => x.reap s.alive)
        match (s.cellAt cell).done.getLast? with
        | some d => if d.id == o.id && !o.seen then s.modCell cell (fun x => { x with done := x.done.filter (fun e => e.id != o.id) }) else s
        | none => s)

/-! ### Bridles and flags -/

def execBridleEvaluation (home : BridleHome) (s : State) : Out := .next (s.bridleEval home)

/-- One waiter of an entry that the flag word `v` fired (R262). -/
def State.fire (s : State) (w : Watch) (v : Word) (q : WatchWho) : State :=
  match q with
  | .guard d => s.modCtx d (fun c => c.post { flag := true, id := w.idx, exp := w.exp, sym := symNil })
  | .hold _ => s
  | .cell c op =>
    match s.opAnywhere op with
    | some o => (match o.kind with
      | .flwait d idx exp scp entered _ =>
        if !entered then s.opChange op (fun x => { x with kind := .flwait d idx exp scp false (some v) })
        else if (s.opAt c op).isSome then s.opDone c o [.s d v] 0 0 false
        else s.finishOp op [.s d v] false
      | _ => s)
    | none => s

/-- An entry that has fired is gone, and its waiters go; a `flwait` that does not stand at the head of its queue yet keeps the word. -/
def execWatchFire (s : State) : Out :=
  .next (match s.watch[s.unit]? with
    | none => s
    | some w =>
      match w.hit with
      | none => s
      | some v =>
        w.who.foldl (fun t q =>
          let t := t.fire w v q
          match q with
          | .hold n => t.modQueue n (fun x => { x with watching := x.watching.erase w.idx })
          | _ => t) { s with watch := s.watch.eraseIdx s.unit })

/-! ### Completions (R98, R105, R133) -/

/-- The registers and flags of an operation reach its application. -/
def AppCell.finish (a : AppCell) (d : DoneOp) : AppCell :=
  let a := if a.stopped then a else d.writes.foldl AppCell.applyWrite a
  let a := { a with fflags := a.fflags ||| d.fflags, mflags := a.mflags ||| d.mflags }
  match d.det, d.tok with
  | none, some t => a.untake t
  | _, _ => a

/-- One operation fewer under a detached token id; the last posts the completion. -/
def Ctx.undetach (c : Ctx) (tid : Nat) (failed : Bool) : Ctx :=
  match c.detached.find? (fun q => q.1 == tid) with
  | none => c
  | some q =>
    let bad := q.2.2 || failed
    let rest := c.detached.filter (fun x => x.1 != tid)
    if q.2.1 ≤ 1 then { c with detached := rest }.post { flag := false, id := tid, exp := 0, sym := tokSym bad }
    else { c with detached := rest ++ [(tid, q.2.1 - 1, bad)] }

/-- Marks of a token id whose operations are all complete clear. -/
def State.clearDetached (s : State) (d tid : Nat) : State :=
  if (s.ctxAt d).detached.any (fun q => q.1 == tid) then s
  else
    { s with areas := s.areas.map (fun p =>
        if p.2.desc == d then
          (p.1, { p.2 with apps := p.2.apps.map (fun q => (q.1, { q.2 with marks := q.2.marks.filter (fun m => m.det != some tid) })) })
        else p) }

/-- A write of an operation stands in its cell's own buffer: it has not left the cell (R174). -/
def State.inCell (s : State) (c id : Nat) : Bool := s.bufs.any (fun w => w.cell == c && w.op == id && w.level == 0)

def execAsyncCompletion (cell k : Nat) (s : State) : Out :=
  .next (match (s.cellAt cell).done[k]? with
    | none => s
    | some d =>
      if s.inCell cell d.id then s
      else
        let s := (s.modCell cell (fun x => { x with done := x.done.eraseIdx k })).gldLoaded d.desc d.id
        let s := if s.appLive d.area then
          (s.putAppOf d.area cell ((s.appOf d.area cell).finish d)).stir d.area else s
        match d.det with
        | none => s
        | some tid => (s.modCtx d.desc (fun c => c.undetach tid d.failed)).clearDetached d.desc tid)

end Sys2Proof.Machine
end

