-- ==== Sys2Proof/Machine/Vector.lean ====
section
/-! DEFINITION. The vector groups: integer (R205 to R207), floating-point (R208 to R210), conversion and movement
(R211 to R215). -/

namespace Sys2Proof.Machine

open Sys2Proof

/-! ### Frames -/

/-- Writes the lanes of a result under the guard; the side word becomes zero (R94, R204). -/
def AppCell.putLanes (a : AppCell) (h : Hdr) (d w : Nat) (new : List Nat) : AppCell :=
  a.setV d (VecVal.ofLanes w (mergeLanes (a.guard h) 0 ((a.getV d).lanes w) new))

/-- Flags of the active lanes, lane 0 first. -/
def activeFlags (mask : BitVec 256) : Nat → List FR → BitVec 6
  | _, [] => 0
  | i, r :: rs => (if mask.getLsbD i then r.fl else 0) ||| activeFlags mask (i + 1) rs

/-- The lanes of a `v` register in a type. -/
def AppCell.getL (a : AppCell) (ty n : Nat) : List Nat := (a.getV n).lanes (tyWidth ty)

/-- A lanewise integer instruction of R205 on lanes A and B. -/
def vecInt (h : Hdr) (f : FmtT) (op : Nat → Nat → Nat → Nat) (s : State) : Out :=
  .next (issueReg h true [vR f.d, vR f.a, vR f.b] (fun a =>
    let ty := f.ty.toNat
    .ok (a.putLanes h f.d.toNat (tyWidth ty) (zip2 (op ty) (a.getL ty f.a.toNat) (a.getL ty f.b.toNat)))) s)

/-- The rounding instructions of the vector float group: one draw for each lane under SR (R203). -/
def vecRound (h : Hdr) (f : FmtT) (uses : List Reg) (op : AppCell → List EVF) (s : State) : Out :=
  .next (issueReg h true uses (fun a =>
    let ty := f.ty.toNat
    let rm := f.rm.toNat
    let (dr, seed) := draws rm (lanes ty) a.srseed
    let rs := ((op a).zip dr).map (fun p => p.1.round ty rm false p.2)
    a.flagged (activeFlags (a.guard h) 0 rs) 0 (fun a =>
      { a with srseed := seed }.putLanes h f.d.toNat (tyWidth ty) (rs.map FR.bits))) s)

/-- Writes comparison bits: active lanes take the relation, inactive ones keep, bits from L on are zero. -/
def AppCell.putCmp (a : AppCell) (h : Hdr) (d : Nat) (rel : List Bool) : AppCell :=
  let g := a.guard h
  let old := a.getK d
  a.setK d (maskBits ((rel.zip (upto 0 rel.length)).map (fun p => if g.getLsbD p.2 then p.1 else old.getLsbD p.2)))

/-! ### Integer -/

def execVadd (h : Hdr) (f : FmtT) : State → Out :=
  vecInt h f (fun ty x y => narrowTy ty (f.sat == 1) (extTy ty x + extTy ty y))
def execVsub (h : Hdr) (f : FmtT) : State → Out :=
  vecInt h f (fun ty x y => narrowTy ty (f.sat == 1) (extTy ty x - extTy ty y))
def execVmul (h : Hdr) (f : FmtT) : State → Out :=
  vecInt h f (fun ty x y => narrowTy ty (f.sat == 1) (extTy ty x * extTy ty y))
def execVmulh (h : Hdr) (f : FmtT) : State → Out :=
  vecInt h f (fun ty x y => narrowTy ty false (extTy ty x * extTy ty y / ((2 ^ tyWidth ty : Nat) : Int)))
def execVand (h : Hdr) (f : FmtT) : State → Out := vecInt h f (fun _ x y => Nat.land x y)
def execVor (h : Hdr) (f : FmtT) : State → Out := vecInt h f (fun _ x y => Nat.lor x y)
def execVxor (h : Hdr) (f : FmtT) : State → Out := vecInt h f (fun _ x y => Nat.xor x y)
def execVshl (h : Hdr) (f : FmtT) : State → Out := vecInt h f (fun ty x n => shlInt ty (extTy ty x) n (f.sat == 1))
def execVshr (h : Hdr) (f : FmtT) : State → Out := vecInt h f shrInt
def execVsra (h : Hdr) (f : FmtT) : State → Out := vecInt h f (fun ty x n => sraInt ty (extTy ty x) n)
def execVmin (h : Hdr) (f : FmtT) : State → Out :=
  vecInt h f (fun ty x y => narrowTy ty false (min (extTy ty x) (extTy ty y)))
def execVmax (h : Hdr) (f : FmtT) : State → Out :=
  vecInt h f (fun ty x y => narrowTy ty false (max (extTy ty x) (extTy ty y)))

def execVabs (h : Hdr) (f : FmtT) (s : State) : Out :=
  .next (issueReg h true [vR f.d, vR f.a] (fun a =>
    let ty := f.ty.toNat
    .ok (a.putLanes h f.d.toNat (tyWidth ty)
      ((a.getL ty f.a.toNat).map (fun x => narrowTy ty (f.sat == 1) ((extTy ty x).natAbs : Int))))) s)

/-- The relations of `vcmp`. -/
def intRel (fn : Nat) (x y : Int) : Bool :=
  match fn with
  | 0 => decide (x = y)
  | 1 => decide (x ≠ y)
  | 2 => decide (x < y)
  | 3 => decide (x ≤ y)
  | 4 => decide (y < x)
  | _ => decide (y ≤ x)

def execVcmp (h : Hdr) (f : FmtT) (s : State) : Out :=
  .next (issueReg h true [vR f.a, vR f.b] (fun a =>
    let ty := f.ty.toNat
    .ok (a.putCmp h f.d.toNat (((a.getL ty f.a.toNat).zip (a.getL ty f.b.toNat)).map
      (fun p => intRel f.fn.toNat (extTy ty p.1) (extTy ty p.2))))) s)

def execVsel (h : Hdr) (f : FmtT) (s : State) : Out :=
  .next (issueReg h true [vR f.d, vR f.a, vR f.b] (fun a =>
    let ty := f.ty.toNat
    .ok (a.putLanes h f.d.toNat (tyWidth ty)
      (mergeLanes (a.getK f.c.toNat) 0 (a.getL ty f.b.toNat) (a.getL ty f.a.toNat)))) s)

/-- The type of twice the width and the same signedness. -/
def wideTy (ty : Nat) : Nat := ty + 1

/-- Sums of products of neighbouring lanes (R207). -/
def macPairs (ty : Nat) (sat : Bool) : List Nat → List Nat → List Nat → List Nat
  | x0 :: x1 :: xs, y0 :: y1 :: ys, c :: cs =>
    narrowTy (wideTy ty) sat (extTy (wideTy ty) c + (extTy ty x0 * extTy ty y0 + extTy ty x1 * extTy ty y1)) ::
      macPairs ty sat xs ys cs
  | _, _, _ => []

def execVmac (h : Hdr) (f : FmtT) (s : State) : Out :=
  .next (issueReg h true [vR f.d, vR f.a, vR f.b] (fun a =>
    let ty := f.ty.toNat
    let w2 := 2 * tyWidth ty
    .ok (a.putLanes h f.d.toNat w2
      (macPairs ty (f.sat == 1) (a.getL ty f.a.toNat) (a.getL ty f.b.toNat) ((a.getV f.d.toNat).lanes w2)))) s)

/-! ### Floating-point -/

/-- Two-operand lanes. -/
def vecF2 (h : Hdr) (f : FmtT) (op : Nat → EV → EV → EVF) : State → Out :=
  vecRound h f [vR f.d, vR f.a, vR f.b] (fun a =>
    let ty := f.ty.toNat
    ((a.getL ty f.a.toNat).zip (a.getL ty f.b.toNat)).map (fun p => op f.rm.toNat (fdec ty p.1) (fdec ty p.2)))

/-- One-operand lanes. -/
def vecF1 (h : Hdr) (f : FmtT) (op : EV → EVF) : State → Out :=
  vecRound h f [vR f.d, vR f.a] (fun a =>
    let ty := f.ty.toNat
    (a.getL ty f.a.toNat).map (fun x => op (fdec ty x)))

def execVfadd (h : Hdr) (f : FmtT) : State → Out := vecF2 h f evAdd
def execVfsub (h : Hdr) (f : FmtT) : State → Out := vecF2 h f (fun rm x y => evAdd rm x (evNeg y))
def execVfmul (h : Hdr) (f : FmtT) : State → Out := vecF2 h f (fun _ x y => evMul x y)

def execVfma (h : Hdr) (f : FmtT) : State → Out :=
  vecRound h f [vR f.d, vR f.a, vR f.b, vR f.c] (fun a =>
    let ty := f.ty.toNat
    (((a.getL ty f.a.toNat).zip (a.getL ty f.b.toNat)).zip (a.getL ty f.c.toNat)).map
      (fun p => evFma f.rm.toNat (fdec ty p.1.1) (fdec ty p.1.2) (fdec ty p.2)))

def execVfmin (h : Hdr) (f : FmtT) : State → Out := vecInt h f (fun ty x y => fminmax ty false x y)
def execVfmax (h : Hdr) (f : FmtT) : State → Out := vecInt h f (fun ty x y => fminmax ty true x y)

/-- The sign bit inverted, NaNs included. -/
def execVfneg (h : Hdr) (f : FmtT) (s : State) : Out :=
  .next (issueReg h true [vR f.d, vR f.a] (fun a =>
    let ty := f.ty.toNat
    .ok (a.putLanes h f.d.toNat (tyWidth ty) ((a.getL ty f.a.toNat).map (fun x => Nat.xor x (2 ^ (tyWidth ty - 1)))))) s)

def execVfcmp (h : Hdr) (f : FmtT) (s : State) : Out :=
  .next (issueReg h true [vR f.a, vR f.b] (fun a =>
    let ty := f.ty.toNat
    let rs := ((a.getL ty f.a.toNat).zip (a.getL ty f.b.toNat)).map (fun p => fcmpRel ty f.fn.toNat p.1 p.2)
    a.flagged (activeFlags (a.guard h) 0 (rs.map (fun r => ⟨0, r.2⟩))) 0 (fun a => a.putCmp h f.d.toNat (rs.map (·.1)))) s)

def execVexp2 (h : Hdr) (f : FmtT) : State → Out := vecF1 h f evExp2
def execVlog2 (h : Hdr) (f : FmtT) : State → Out := vecF1 h f evLog2
def execVrcp (h : Hdr) (f : FmtT) : State → Out := vecF1 h f evRcp
def execVrsq (h : Hdr) (f : FmtT) : State → Out := vecF1 h f evRsq

def execVscale (h : Hdr) (f : FmtT) : State → Out :=
  vecRound h f [vR f.d, vR f.a, sR f.b] (fun a =>
    let ty := f.ty.toNat
    (a.getL ty f.a.toNat).map (fun x => evScale (fdec ty x) (a.getS f.b.toNat).toInt))

/-- One level of the tree of R210: pairs of items, an absent one passed over. -/
def redLevel (op : Nat → Nat → FR) : List (Option Nat) → List (Option Nat) × BitVec 6
  | x :: y :: r =>
    let (t, fl) := redLevel op r
    match x, y with
    | some a, some b => (some (op a b).bits :: t, (op a b).fl ||| fl)
    | some a, none => (some a :: t, fl)
    | none, b => (b :: t, fl)
  | l => (l, 0)

/-- All levels, by fuel. -/
def redTree (op : Nat → Nat → FR) : Nat → List (Option Nat) → Option Nat × BitVec 6
  | 0, l => ((l.headD none), 0)
  | n + 1, l =>
    let (t, fl) := redLevel op l
    let (r, fl') := redTree op n t
    (r, fl ||| fl')

/-- The active lanes as items, inactive ones absent. -/
def activeItems (mask : BitVec 256) (l : List Nat) : List (Option Nat) :=
  (l.zip (upto 0 l.length)).map (fun p => if mask.getLsbD p.2 then some p.1 else none)

def execVredsum (h : Hdr) (f : FmtT) (s : State) : Out :=
  .next (issueReg h true [sR f.d, vR f.a] (fun a =>
    let ty := f.ty.toNat
    let rm := f.rm.toNat
    let (r, fl) := redTree (fun x y => (evAdd rm (fdec ty x) (fdec ty y)).round ty rm false 0) 8
      (activeItems (a.guard h) (a.getL ty f.a.toNat))
    a.flagged fl 0 (fun a => a.setS f.d.toNat (BitVec.ofNat 64 (r.getD 0)))) s)

def execVredmax (h : Hdr) (f : FmtT) (s : State) : Out :=
  .next (issueReg h true [sR f.d, vR f.a] (fun a =>
    let ty := f.ty.toNat
    let (r, _) := redTree (fun x y => ⟨fminmax ty true x y, 0⟩) 8 (activeItems (a.guard h) (a.getL ty f.a.toNat))
    .ok (a.setS f.d.toNat (BitVec.ofNat 64 (r.getD (2 ^ (tyWidth ty - 1) + infCode ty))))) s)

/-! ### Conversion (R211 to R213) -/

/-- Replaces the lanes of `old` from index `k` on by `new`. -/
def spliceAt (k : Nat) (new old : List Nat) : List Nat := old.take k ++ new ++ old.drop (k + new.length)

/-- A run of `none` lanes around converted ones, so that lane guards and flags meet the destination's lane numbers. -/
def execVcvt (h : Hdr) (f : FmtT) (s : State) : Out :=
  .next (issueReg h true [vR f.d, vR f.a] (fun a =>
    let dt := f.ty.toNat
    let st := f.fn.toNat % 16
    let p := f.fn.toNat / 16 % 8
    let rm := f.rm.toNat
    let lf := min (lanes dt) (lanes st)
    let src := if lanes dt ≤ lanes st then (((a.getL st f.a.toNat).drop (p * lf)).take lf) else a.getL st f.a.toNat
    let first := if lanes dt ≤ lanes st then 0 else p * lf
    let (dr, seed) := draws (if isIntTy dt && isIntTy st then 0 else rm) lf a.srseed
    let rs := (src.zip dr).map (fun q => convTy dt st rm (f.sat == 1) q.2 q.1)
    a.flagged (activeFlags (a.guard h) first rs) 0 (fun a =>
      { a with srseed := seed }.putLanes h f.d.toNat (tyWidth dt)
        (spliceAt first (rs.map FR.bits) (a.getL dt f.d.toNat)))) s)

/-- Blocks of 32 of a list, by fuel. -/
def blocks32 {α : Type} : Nat → List α → List (List α)
  | 0, _ => []
  | n + 1, l => l.take 32 :: blocks32 n (l.drop 32)

/-- `vqbx` (R213): the part's blocks quantised by R200; other blocks and their headers keep their values. -/
def execVqbx (h : Hdr) (f : FmtT) (s : State) : Out :=
  .next (issueReg h true [vR f.d, vR f.a] (fun a =>
    let dt := f.ty.toNat
    let bx8 := dt == 11
    let st := f.fn.toNat % 16
    let p := f.fn.toNat / 16 % 8
    let gap := if f.fn.toNat / 128 % 16 = 0 then (if bx8 then 6 else 2) else f.fn.toNat / 128 % 16
    let rm := f.rm.toNat
    let lf := lanes st
    let (dr, seed) := draws rm lf a.srseed
    let xs := (a.getL st f.a.toNat).map (fdec st)
    let bs := ((blocks32 (lf / 32) xs).zip (blocks32 (lf / 32) dr)).map (fun q => bxQuant bx8 gap rm q.2 q.1)
    let fl := bs.foldl (fun x b => x ||| b.fl) (0 : BitVec 6)
    let old := a.getV f.d.toNat
    let els := spliceAt (p * lf) (bs.flatMap (·.els)) (old.lanes (tyWidth dt))
    let hd := spliceAt (p * (lf / 32)) (bs.map (·.hdr)) old.hdrs
    let hd := if bx8 then hd.take 4 ++ [0, 0, 0, 0] else hd
    a.flagged fl 0 (fun a => { a with srseed := seed }.setV f.d.toNat (VecVal.ofBX (tyWidth dt) els hd))) s)

/-- `vdqbx` (R213): each element's value rounded into its lane; an exponent of 511 gives the canonical NaN. -/
def execVdqbx (h : Hdr) (f : FmtT) (s : State) : Out :=
  .next (issueReg h true [vR f.d, vR f.a] (fun a =>
    let dt := f.ty.toNat
    let st := f.fn.toNat % 16
    let p := f.fn.toNat / 16 % 8
    let rm := f.rm.toNat
    let lf := lanes dt
    let (dr, seed) := draws rm lf a.srseed
    let v := a.getV f.a.toNat
    let els := (v.lanes (tyWidth st)).zip (upto 0 (lanes st))
    let part := (els.drop (p * lf)).take lf
    let rs := (part.zip dr).map (fun q =>
      roundEV dt rm false q.2 (bxVal (st == 11) (v.hdrs.getD (q.1.2 / 32) 0) q.1.1))
    a.flagged (rs.foldl (fun x r => x ||| r.fl) 0) 0 (fun a =>
      { a with srseed := seed }.setV f.d.toNat (VecVal.ofLanes (tyWidth dt) (rs.map FR.bits)))) s)

/-! ### Movement (R214, R215) -/

/-- A lanewise movement: the new lanes from the register file. -/
def vecMove (h : Hdr) (f : FmtT) (uses : List Reg) (op : AppCell → List Nat) (s : State) : Out :=
  .next (issueReg h true (vR f.d :: uses) (fun a => .ok (a.putLanes h f.d.toNat (tyWidth f.ty.toNat) (op a))) s)

def execVperm (h : Hdr) (f : FmtT) : State → Out :=
  vecMove h f [vR f.a, vR f.b] (fun a =>
    let ty := f.ty.toNat
    let src := a.getL ty f.a.toNat
    (a.getL ty f.b.toNat).map (fun j => src.getD (j % lanes ty) 0))

def execVbcast (h : Hdr) (f : FmtT) : State → Out :=
  vecMove h f [sR f.a] (fun a =>
    let ty := f.ty.toNat
    List.replicate (lanes ty) ((a.getS f.a.toNat).toNat % 2 ^ tyWidth ty))

def execVext (h : Hdr) (f : FmtT) (s : State) : Out :=
  .next (issueReg h true [sR f.d, vR f.a, sR f.b] (fun a =>
    let ty := f.ty.toNat
    let j := (a.getS f.b.toNat).toNat
    if lanes ty ≤ j then .ok (a.setS f.d.toNat 0)
    else if (a.guard h).getLsbD j then
      let x := (a.getL ty f.a.toNat).getD j 0
      .ok (a.setS f.d.toNat (if isIntTy ty then widenTy ty x else BitVec.ofNat 64 x))
    else .ok a) s)

def execVins (h : Hdr) (f : FmtT) (s : State) : Out :=
  .next (issueReg h true [vR f.d, sR f.a, sR f.b] (fun a =>
    let ty := f.ty.toNat
    let j := (a.getS f.b.toNat).toNat
    let old := a.getL ty f.d.toNat
    .ok (a.setV f.d.toNat (VecVal.ofLanes (tyWidth ty)
      (if decide (j < lanes ty) && (a.guard h).getLsbD j then old.set j ((a.getS f.a.toNat).toNat % 2 ^ tyWidth ty) else old)))) s)

def interleave : List Nat → List Nat → List Nat
  | x :: xs, y :: ys => x :: y :: interleave xs ys
  | _, _ => []

def execVzip (h : Hdr) (f : FmtT) : State → Out :=
  vecMove h f [vR f.a, vR f.b] (fun a =>
    let ty := f.ty.toNat
    let o := if f.fn.toNat = 0 then 0 else lanes ty / 2
    interleave (((a.getL ty f.a.toNat).drop o).take (lanes ty / 2)) (((a.getL ty f.b.toNat).drop o).take (lanes ty / 2)))

/-- Every second element, the first kept or skipped. -/
def everyOther : Bool → List Nat → List Nat
  | true, x :: xs => x :: everyOther false xs
  | false, _ :: xs => everyOther true xs
  | _, [] => []

def execVunzip (h : Hdr) (f : FmtT) : State → Out :=
  vecMove h f [vR f.a, vR f.b] (fun a =>
    let ty := f.ty.toNat
    everyOther (f.fn.toNat == 0) (a.getL ty f.a.toNat ++ a.getL ty f.b.toNat))

/-- `vtr4` (R215): sources read at issue, four registers written. -/
def execVtr4 (h : Hdr) (f : FmtT) (s : State) : Out :=
  let rs (n : Nat) : List Reg := (upto n 4).map Reg.v
  .next (issueReg h true (rs f.d.toNat ++ rs f.a.toNat) (fun a =>
    let ty := f.ty.toNat
    let src := (upto 0 4).map (fun r => a.getL ty (f.a.toNat + r))
    .ok ((upto 0 4).foldl (fun b q => b.setV (f.d.toNat + q) (VecVal.ofLanes (tyWidth ty)
      ((upto 0 (lanes ty)).map (fun i => (src.getD (i % 4) []).getD (i / 4 * 4 + q) 0)))) a)) s)

def execVshf (h : Hdr) (f : FmtT) : State → Out :=
  vecMove h f [vR f.a, sR f.b, sR f.c] (fun a =>
    let ty := f.ty.toNat
    let n := (a.getS f.b.toNat).toInt
    let src := a.getL ty f.a.toNat
    let fill := (a.getS f.c.toNat).toNat % 2 ^ tyWidth ty
    (upto 0 (lanes ty)).map (fun (i : Nat) =>
      let j : Int := (i : Int) - n
      if 0 ≤ j && j < (lanes ty : Int) then src.getD j.toNat 0 else fill))

def execVpack (h : Hdr) (f : FmtT) : State → Out :=
  vecMove h f [vR f.a, vR f.b] (fun a =>
    let ty := f.ty.toNat
    (a.getL (wideTy ty) f.a.toNat ++ a.getL (wideTy ty) f.b.toNat).map
      (fun x => narrowTy ty (f.sat == 1) (extTy (wideTy ty) x)))

def execVunpack (h : Hdr) (f : FmtT) (s : State) : Out :=
  .next (issueReg h true [vR f.d, vR f.a] (fun a =>
    let ty := f.ty.toNat
    let o := if f.fn.toNat = 0 then 0 else lanes ty / 2
    .ok (a.putLanes h f.d.toNat (2 * tyWidth ty)
      ((((a.getL ty f.a.toNat).drop o).take (lanes ty / 2)).map (fun x => narrowTy (wideTy ty) false (extTy ty x))))) s)

end Sys2Proof.Machine
end

