-- ==== Sys2Proof/Machine/Dispatch.lean ====
section
/-! DEFINITION. The dispatch: one arm for each row of the opcode table, each one call of that row's meaning. -/

namespace Sys2Proof.Machine

open Sys2Proof

def exec (i : Instr) (s : State) : Host.Outcome State Fault Refusal :=
  match i with
  | .queueSlotWrite a q slot off data => Sys2Proof.Machine.execQueueSlotWrite a q slot off data s
  | .launchCommit a q slot off data => Sys2Proof.Machine.execLaunchCommit a q slot off data s
  | .qstatErrvClear a q => Sys2Proof.Machine.execQstatErrvClear a q s
  | .queueFlush a q => Sys2Proof.Machine.execQueueFlush a q s
  | .semaphoreClaim a n => Sys2Proof.Machine.execSemaphoreClaim a n s
  | .semaphoreRelease a n => Sys2Proof.Machine.execSemaphoreRelease a n s
  | .semaphoreForceRelease a n => Sys2Proof.Machine.execSemaphoreForceRelease a n s
  | .asidBind a v => Sys2Proof.Machine.execAsidBind a v s
  | .ctxkill a v => Sys2Proof.Machine.execCtxkill a v s
  | .errlogClear a => Sys2Proof.Machine.execErrlogClear a s
  | .pcapWrite a v => Sys2Proof.Machine.execPcapWrite a v s
  | .attestationRequest a => Sys2Proof.Machine.execAttestationRequest a s
  | .msixUnmask a vec => Sys2Proof.Machine.execMsixUnmask a vec s
  | .registerWrite a off v => Sys2Proof.Machine.execRegisterWrite a off v s
  | .microprogramBroadcast ar crcFail => Sys2Proof.Machine.execMicroprogramBroadcast ar crcFail s
  | .bridleEvaluation home => Sys2Proof.Machine.execBridleEvaluation home s
  | .asyncCompletion cell k => Sys2Proof.Machine.execAsyncCompletion cell k s
  | .copyBurstLand cell k runs => Sys2Proof.Machine.execCopyBurstLand cell k runs s
  | .copyComplete cell k => Sys2Proof.Machine.execCopyComplete cell k s
  | .multicastRowMove ar grp link => Sys2Proof.Machine.execMulticastRowMove ar grp link s
  | .multicastRowLand ar grp cell => Sys2Proof.Machine.execMulticastRowLand ar grp cell s
  | .channelMessageDelivery ar cell => Sys2Proof.Machine.execChannelMessageDelivery ar cell s
  | .clearToSendArrival m => Sys2Proof.Machine.execClearToSendArrival m s
  | .chunkMessageArrival m => Sys2Proof.Machine.execChunkMessageArrival m s
  | .acknowledgementArrival m => Sys2Proof.Machine.execAcknowledgementArrival m s
  | .signalArrival m => Sys2Proof.Machine.execSignalArrival m s
  | .abortArrival m => Sys2Proof.Machine.execAbortArrival m s
  | .linkRetrain link ok => Sys2Proof.Machine.execLinkRetrain link ok s
  | .correctedError u idx addr => Sys2Proof.Machine.execCorrectedError u idx addr s
  | .uncorrectableError p => Sys2Proof.Machine.execUncorrectableError p s
  | .pciExpressPortReset p => Sys2Proof.Machine.execPciExpressPortReset p s
  | .inboundPortWrite p pa data => Sys2Proof.Machine.execInboundPortWrite p pa data s
  | .peerInboundRequest r => Sys2Proof.Machine.execPeerInboundRequest r s
  | .performQueueHead cell k => Sys2Proof.Machine.execPerformQueueHead cell k s
  | .dynamicAddressAssignment addr => Sys2Proof.Machine.execDynamicAddressAssignment addr s
  | .nop h f => Sys2Proof.Machine.execNop h f s
  | .endApp h f => Sys2Proof.Machine.execEnd h f s
  | .cmt h f => Sys2Proof.Machine.execCmt h f s
  | .br h f => Sys2Proof.Machine.execBr h f s
  | .call h f => Sys2Proof.Machine.execCall h f s
  | .ret h f => Sys2Proof.Machine.execRet h f s
  | .loop h f => Sys2Proof.Machine.execLoop h f s
  | .sleep h f => Sys2Proof.Machine.execSleep h f s
  | .trap h f => Sys2Proof.Machine.execTrap h f s
  | .brk h f => Sys2Proof.Machine.execBrk h f s
  | .xrd h f => Sys2Proof.Machine.execXrd h f s
  | .xwr h f => Sys2Proof.Machine.execXwr h f s
  | .add h f => Sys2Proof.Machine.execAdd h f s
  | .sub h f => Sys2Proof.Machine.execSub h f s
  | .mul h f => Sys2Proof.Machine.execMul h f s
  | .mulh h f => Sys2Proof.Machine.execMulh h f s
  | .div h f => Sys2Proof.Machine.execDiv h f s
  | .rem h f => Sys2Proof.Machine.execRem h f s
  | .andS h f => Sys2Proof.Machine.execAndS h f s
  | .orS h f => Sys2Proof.Machine.execOrS h f s
  | .xorS h f => Sys2Proof.Machine.execXorS h f s
  | .shl h f => Sys2Proof.Machine.execShl h f s
  | .shr h f => Sys2Proof.Machine.execShr h f s
  | .sra h f => Sys2Proof.Machine.execSra h f s
  | .min h f => Sys2Proof.Machine.execMin h f s
  | .max h f => Sys2Proof.Machine.execMax h f s
  | .cmp h f => Sys2Proof.Machine.execCmp h f s
  | .sel h f => Sys2Proof.Machine.execSel h f s
  | .clz h f => Sys2Proof.Machine.execClz h f s
  | .popc h f => Sys2Proof.Machine.execPopc h f s
  | .addi h f => Sys2Proof.Machine.execAddi h f s
  | .andi h f => Sys2Proof.Machine.execAndi h f s
  | .ori h f => Sys2Proof.Machine.execOri h f s
  | .xori h f => Sys2Proof.Machine.execXori h f s
  | .li h f => Sys2Proof.Machine.execLi h f s
  | .shli h f => Sys2Proof.Machine.execShli h f s
  | .shri h f => Sys2Proof.Machine.execShri h f s
  | .srai h f => Sys2Proof.Machine.execSrai h f s
  | .cmpi h f => Sys2Proof.Machine.execCmpi h f s
  | .lih h f => Sys2Proof.Machine.execLih h f s
  | .mov h f => Sys2Proof.Machine.execMov h f s
  | .fadd h f => Sys2Proof.Machine.execFadd h f s
  | .fsub h f => Sys2Proof.Machine.execFsub h f s
  | .fmul h f => Sys2Proof.Machine.execFmul h f s
  | .fma h f => Sys2Proof.Machine.execFma h f s
  | .fmin h f => Sys2Proof.Machine.execFmin h f s
  | .fmax h f => Sys2Proof.Machine.execFmax h f s
  | .fcmp h f => Sys2Proof.Machine.execFcmp h f s
  | .fcvt h f => Sys2Proof.Machine.execFcvt h f s
  | .fcls h f => Sys2Proof.Machine.execFcls h f s
  | .vadd h f => Sys2Proof.Machine.execVadd h f s
  | .vsub h f => Sys2Proof.Machine.execVsub h f s
  | .vmul h f => Sys2Proof.Machine.execVmul h f s
  | .vmulh h f => Sys2Proof.Machine.execVmulh h f s
  | .vand h f => Sys2Proof.Machine.execVand h f s
  | .vor h f => Sys2Proof.Machine.execVor h f s
  | .vxor h f => Sys2Proof.Machine.execVxor h f s
  | .vshl h f => Sys2Proof.Machine.execVshl h f s
  | .vshr h f => Sys2Proof.Machine.execVshr h f s
  | .vsra h f => Sys2Proof.Machine.execVsra h f s
  | .vmin h f => Sys2Proof.Machine.execVmin h f s
  | .vmax h f => Sys2Proof.Machine.execVmax h f s
  | .vabs h f => Sys2Proof.Machine.execVabs h f s
  | .vcmp h f => Sys2Proof.Machine.execVcmp h f s
  | .vsel h f => Sys2Proof.Machine.execVsel h f s
  | .vmac h f => Sys2Proof.Machine.execVmac h f s
  | .vfadd h f => Sys2Proof.Machine.execVfadd h f s
  | .vfsub h f => Sys2Proof.Machine.execVfsub h f s
  | .vfmul h f => Sys2Proof.Machine.execVfmul h f s
  | .vfma h f => Sys2Proof.Machine.execVfma h f s
  | .vfmin h f => Sys2Proof.Machine.execVfmin h f s
  | .vfmax h f => Sys2Proof.Machine.execVfmax h f s
  | .vfneg h f => Sys2Proof.Machine.execVfneg h f s
  | .vfcmp h f => Sys2Proof.Machine.execVfcmp h f s
  | .vexp2 h f => Sys2Proof.Machine.execVexp2 h f s
  | .vlog2 h f => Sys2Proof.Machine.execVlog2 h f s
  | .vrcp h f => Sys2Proof.Machine.execVrcp h f s
  | .vrsq h f => Sys2Proof.Machine.execVrsq h f s
  | .vredsum h f => Sys2Proof.Machine.execVredsum h f s
  | .vredmax h f => Sys2Proof.Machine.execVredmax h f s
  | .vscale h f => Sys2Proof.Machine.execVscale h f s
  | .vcvt h f => Sys2Proof.Machine.execVcvt h f s
  | .vqbx h f => Sys2Proof.Machine.execVqbx h f s
  | .vdqbx h f => Sys2Proof.Machine.execVdqbx h f s
  | .vperm h f => Sys2Proof.Machine.execVperm h f s
  | .vbcast h f => Sys2Proof.Machine.execVbcast h f s
  | .vext h f => Sys2Proof.Machine.execVext h f s
  | .vins h f => Sys2Proof.Machine.execVins h f s
  | .vzip h f => Sys2Proof.Machine.execVzip h f s
  | .vunzip h f => Sys2Proof.Machine.execVunzip h f s
  | .vtr4 h f => Sys2Proof.Machine.execVtr4 h f s
  | .vshf h f => Sys2Proof.Machine.execVshf h f s
  | .vpack h f => Sys2Proof.Machine.execVpack h f s
  | .vunpack h f => Sys2Proof.Machine.execVunpack h f s
  | .kand h f => Sys2Proof.Machine.execKand h f s
  | .kor h f => Sys2Proof.Machine.execKor h f s
  | .kxor h f => Sys2Proof.Machine.execKxor h f s
  | .knot h f => Sys2Proof.Machine.execKnot h f s
  | .kmov h f => Sys2Proof.Machine.execKmov h f s
  | .kpop h f => Sys2Proof.Machine.execKpop h f s
  | .kfirst h f => Sys2Proof.Machine.execKfirst h f s
  | .kset h f => Sys2Proof.Machine.execKset h f s
  | .ld h f => Sys2Proof.Machine.execLd h f s
  | .st h f => Sys2Proof.Machine.execSt h f s
  | .lds h f => Sys2Proof.Machine.execLds h f s
  | .sts h f => Sys2Proof.Machine.execSts h f s
  | .ldg h f => Sys2Proof.Machine.execLdg h f s
  | .stg h f => Sys2Proof.Machine.execStg h f s
  | .ldx h f => Sys2Proof.Machine.execLdx h f s
  | .stx h f => Sys2Proof.Machine.execStx h f s
  | .shpSym h f => Sys2Proof.Machine.execShpSym h f s
  | .shpVec h f => Sys2Proof.Machine.execShpVec h f s
  | .shpExt h f => Sys2Proof.Machine.execShpExt h f s
  | .sadv h f => Sys2Proof.Machine.execSadv h f s
  | .pfg h f => Sys2Proof.Machine.execPfg h f s
  | .cpy h f => Sys2Proof.Machine.execCpy h f s
  | .cpq h f => Sys2Proof.Machine.execCpq h f s
  | .talloc h f => Sys2Proof.Machine.execTalloc h f s
  | .tfree h f => Sys2Proof.Machine.execTfree h f s
  | .tshr h f => Sys2Proof.Machine.execTshr h f s
  | .bld h f => Sys2Proof.Machine.execBld h f s
  | .bldm h f => Sys2Proof.Machine.execBldm h f s
  | .mma h f => Sys2Proof.Machine.execMma h f s
  | .mmt h f => Sys2Proof.Machine.execMmt h f s
  | .mzero h f => Sys2Proof.Machine.execMzero h f s
  | .mst h f => Sys2Proof.Machine.execMst h f s
  | .mrd h f => Sys2Proof.Machine.execMrd h f s
  | .mscl h f => Sys2Proof.Machine.execMscl h f s
  | .gld h f => Sys2Proof.Machine.execGld h f s
  | .grel h f => Sys2Proof.Machine.execGrel h f s
  | .gbind h f => Sys2Proof.Machine.execGbind h f s
  | .gstr h f => Sys2Proof.Machine.execGstr h f s
  | .gcol h f => Sys2Proof.Machine.execGcol h f s
  | .gctx h f => Sys2Proof.Machine.execGctx h f s
  | .gfrz h f => Sys2Proof.Machine.execGfrz h f s
  | .gthaw h f => Sys2Proof.Machine.execGthaw h f s
  | .gqry h f => Sys2Proof.Machine.execGqry h f s
  | .fence h f => Sys2Proof.Machine.execFence h f s
  | .sbar h f => Sys2Proof.Machine.execSbar h f s
  | .atom h f => Sys2Proof.Machine.execAtom h f s
  | .brinit h f => Sys2Proof.Machine.execBrinit h f s
  | .brarr h f => Sys2Proof.Machine.execBrarr h f s
  | .brdrop h f => Sys2Proof.Machine.execBrdrop h f s
  | .brexp h f => Sys2Proof.Machine.execBrexp h f s
  | .brwait h f => Sys2Proof.Machine.execBrwait h f s
  | .brtest h f => Sys2Proof.Machine.execBrtest h f s
  | .flwait h f => Sys2Proof.Machine.execFlwait h f s
  | .flset h f => Sys2Proof.Machine.execFlset h f s
  | .syrd h f => Sys2Proof.Machine.execSyrd h f s
  | .emit h f => Sys2Proof.Machine.execEmit h f s
  | .emitt h f => Sys2Proof.Machine.execEmitt h f s
  | .abc h f => Sys2Proof.Machine.execAbc h f s
  | .ard h f => Sys2Proof.Machine.execArd h f s
  | .ascn h f => Sys2Proof.Machine.execAscn h f s
  | .asnd h f => Sys2Proof.Machine.execAsnd h f s
  | .arcv h f => Sys2Proof.Machine.execArcv h f s
  | .nbr h f => Sys2Proof.Machine.execNbr h f s
  | .tok h f => Sys2Proof.Machine.execTok h f s
  | .opnd h f => Sys2Proof.Machine.execOpnd h f s
  | .rlload h f => Sys2Proof.Machine.execRlload h f s
  | .rlgo h f => Sys2Proof.Machine.execRlgo h f s
  | .rlpost h f => Sys2Proof.Machine.execRlpost h f s
  | .rlstat h f => Sys2Proof.Machine.execRlstat h f s
  | .xwrp h f => Sys2Proof.Machine.execXwrp h f s
  | .tlbiPage h f => Sys2Proof.Machine.execTlbiPage h f s
  | .tlbiRange h f => Sys2Proof.Machine.execTlbiRange h f s
  | .tlbiAsid h f => Sys2Proof.Machine.execTlbiAsid h f s
  | .ptst h f => Sys2Proof.Machine.execPtst h f s
  | .fltdoneOk h f => Sys2Proof.Machine.execFltdoneOk h f s
  | .fltdoneFail h f => Sys2Proof.Machine.execFltdoneFail h f s
  | .fltdoneIrq h f => Sys2Proof.Machine.execFltdoneIrq h f s
  | .asret h f => Sys2Proof.Machine.execAsret h f s
  | .ctxsvSave h f => Sys2Proof.Machine.execCtxsvSave h f s
  | .ctxsvForce h f => Sys2Proof.Machine.execCtxsvForce h f s
  | .ctxsvResume h f => Sys2Proof.Machine.execCtxsvResume h f s
  | .ctxsvKill h f => Sys2Proof.Machine.execCtxsvKill h f s
  | .reelNop w => Sys2Proof.Machine.execReelNop w s
  | .reelEnd w => Sys2Proof.Machine.execReelEnd w s
  | .send w => Sys2Proof.Machine.execSend w s
  | .recv w => Sys2Proof.Machine.execRecv w s
  | .rrc w => Sys2Proof.Machine.execRrc w s
  | .red w => Sys2Proof.Machine.execRed w s
  | .redany w => Sys2Proof.Machine.execRedany w s
  | .ccpy w => Sys2Proof.Machine.execCcpy w s
  | .xf w => Sys2Proof.Machine.execXf w s
  | .lflag w => Sys2Proof.Machine.execLflag w s
  | .sig w => Sys2Proof.Machine.execSig w s
  | .cwait w => Sys2Proof.Machine.execCwait w s
  | .setc w => Sys2Proof.Machine.execSetc w s
  | .decb w => Sys2Proof.Machine.execDecb w s
  | .seqb w => Sys2Proof.Machine.execSeqb w s
  | .mark w => Sys2Proof.Machine.execMark w s
  | .attestationReportReady => Sys2Proof.Machine.execAttestationReportReady s
  | .headChecks => Sys2Proof.Machine.execHeadChecks s
  | .holdRelease => Sys2Proof.Machine.execHoldRelease s
  | .imageFetch => Sys2Proof.Machine.execImageFetch s
  | .strandGrant => Sys2Proof.Machine.execStrandGrant s
  | .sweepP => Sys2Proof.Machine.execSweepP s
  | .joinedSweepStart => Sys2Proof.Machine.execJoinedSweepStart s
  | .hubCacheFetch => Sys2Proof.Machine.execHubCacheFetch s
  | .lClose => Sys2Proof.Machine.execLClose s
  | .areaStart => Sys2Proof.Machine.execAreaStart s
  | .abortContextStop => Sys2Proof.Machine.execAbortContextStop s
  | .storagePhase => Sys2Proof.Machine.execStoragePhase s
  | .shiftComplete => Sys2Proof.Machine.execShiftComplete s
  | .compaction => Sys2Proof.Machine.execCompaction s
  | .compactionMoveDone => Sys2Proof.Machine.execCompactionMoveDone s
  | .allocatorPreemptionTimeout => Sys2Proof.Machine.execAllocatorPreemptionTimeout s
  | .commit => Sys2Proof.Machine.execCommit s
  | .trapAtRoot => Sys2Proof.Machine.execTrapAtRoot s
  | .areaStall => Sys2Proof.Machine.execAreaStall s
  | .tableWalk => Sys2Proof.Machine.execTableWalk s
  | .confirmingWalk => Sys2Proof.Machine.execConfirmingWalk s
  | .sampleReport => Sys2Proof.Machine.execSampleReport s
  | .watchFire => Sys2Proof.Machine.execWatchFire s
  | .sleepExpiry => Sys2Proof.Machine.execSleepExpiry s
  | .graphStep => Sys2Proof.Machine.execGraphStep s
  | .quantumExpiry => Sys2Proof.Machine.execQuantumExpiry s
  | .planeIdleTimeout => Sys2Proof.Machine.execPlaneIdleTimeout s
  | .planeSwitchDone => Sys2Proof.Machine.execPlaneSwitchDone s
  | .linkRefusal => Sys2Proof.Machine.execLinkRefusal s
  | .portReset => Sys2Proof.Machine.execPortReset s
  | .portUpResend => Sys2Proof.Machine.execPortUpResend s
  | .flitCrcRetry => Sys2Proof.Machine.execFlitCrcRetry s
  | .cellRetirement => Sys2Proof.Machine.execCellRetirement s
  | .powerStepRise => Sys2Proof.Machine.execPowerStepRise s
  | .powerStepFall => Sys2Proof.Machine.execPowerStepFall s
  | .thermalStepRise => Sys2Proof.Machine.execThermalStepRise s
  | .thermalStepFall => Sys2Proof.Machine.execThermalStepFall s
  | .thermalTrip => Sys2Proof.Machine.execThermalTrip s
  | .coldStart => Sys2Proof.Machine.execColdStart s
  | .gracePeriodExpiry => Sys2Proof.Machine.execGracePeriodExpiry s
  | .preemptionCut => Sys2Proof.Machine.execPreemptionCut s
  | .preemptionSaveWrite => Sys2Proof.Machine.execPreemptionSaveWrite s
  | .terminationFirstSample => Sys2Proof.Machine.execTerminationFirstSample s
  | .terminationSecondSample => Sys2Proof.Machine.execTerminationSecondSample s
  | .propagateWrite => Sys2Proof.Machine.execPropagateWrite s
  | .asidBindDone => Sys2Proof.Machine.execAsidBindDone s

end Sys2Proof.Machine
end

