-- ==== Sys2Proof/Machine/Fetch.lean ====
section
/-! DEFINITION. What moves next (R102, R237, R239; assumption 1), and fetching the instruction it runs: a cell's word
at its index (R101, R113), a reel channel's chunk instruction (R313, R315). -/

namespace Sys2Proof.Machine

open Sys2Proof

/-- Who makes the host access that an action is. -/
def Action.acc : Action → Option HostAcc
  | .event i _ =>
    (match i with
     | .queueSlotWrite a _ _ _ _ => some a
     | .launchCommit a _ _ _ _ => some a
     | .qstatErrvClear a _ => some a
     | .queueFlush a _ => some a
     | .semaphoreClaim a _ => some a
     | .semaphoreRelease a _ => some a
     | .semaphoreForceRelease a _ => some a
     | .asidBind a _ => some a
     | .ctxkill a _ => some a
     | .errlogClear a => some a
     | .pcapWrite a _ => some a
     | .attestationRequest a => some a
     | .msixUnmask a _ => some a
     | .registerWrite a _ _ => some a
     | _ => none)
  | _ => none

/-- The first access of the same cycle that ties with one of `a`, with its place: one of the other port, and for the management
controller one of either port. -/
def rival (a : HostAcc) (k : Nat) : List Action → Option (Nat × HostAcc)
  | [] => none
  | .tick :: _ => none
  | x :: xs =>
    match x.acc with
    | some b => if !b.i3c && (a.i3c || b.port != a.port) then some (k, b) else rival a (k + 1) xs
    | none => rival a (k + 1) xs

/-- The move at place `k` after the head goes before it. -/
def State.hoist (s : State) (k : Nat) : State :=
  match s.agenda with
  | [] => s
  | x :: xs => { s with agenda := (xs.drop k).take 1 ++ x :: xs.eraseIdx k }

/-- Of two accesses of one cycle from the two ports that of the port that lost the last tie goes first (R55). -/
def State.portsTied (s : State) : State :=
  match s.agenda with
  | [] => s
  | x :: xs =>
    match x.acc with
    | none => s
    | some a =>
      match rival a 0 xs with
      | none => s
      | some (k, b) =>
        if s.hub.tie = b.port then { s.hoist k with hub := { s.hub with tie := a.port } }
        else { s with hub := { s.hub with tie := b.port } }

/-- Ties (R55, R374): the management controller's access goes after those of the ports, which tie among themselves. -/
def State.tied (s : State) : State :=
  match s.agenda with
  | [] => s
  | x :: xs =>
    match x.acc with
    | none => s
    | some a =>
      if a.i3c then (match rival a 0 xs with | none => s | some (k, _) => (s.hoist k).portsTied)
      else s.portsTied

/-- The head of the agenda; a free choice once it is empty, where none is a clock cycle. -/
def State.nextMove (s : State) : Action × State :=
  match s.agenda with
  | a :: rest => (a, { s with agenda := rest })
  | [] => ((Config.nextAction s.nfree).getD .tick, { s with nfree := s.nfree + 1 })

/-- What a move comes to: an instruction to execute in a state, or a state already reached. -/
inductive Fetched where
  | run (i : Instr) (s : State)
  | reached (s : State)
  deriving DecidableEq, Repr

/-- A word that does not decode raises the illegal-instruction trap in the acting cell once its wait mask allows issue
(R113). -/
def State.illegal (s : State) (w : Word) (e : Illegal) : State :=
  if waitOver (hdrOf w).wm s.app then s.raiseTrap clsIllegal e.code 0 else s

/-- Cell `c` issues: the word at its index decodes to an instruction, or the illegal-instruction trap (R101, R113). -/
def State.fetchCell (s : State) (c : Nat) : Fetched :=
  let s := { s with cur := c }
  if !s.canIssue then .reached s
  else
    match s.wordAt s.app.pc with
    | none => .reached (s.raiseTrap clsIllegal Illegal.pastend.code 0)
    | some w =>
      match decodeCell s.area.priv w with
      | .ok i => .run i s
      | .error e => .reached (s.illegal w e)

/-- A channel is running its program (R334). -/
def Chan.runs (c : Chan) : Bool := c.st == .running

/-- Channel `ch` of reel `r` runs its current chunk instruction (R313). -/
def State.fetchReel (s : State) (r ch : Nat) : Fetched :=
  let s := { s with curReel := r, curChan := ch }
  let c := s.chanAt r ch
  if !c.runs then .reached s
  else
    match c.prog[c.pc]? with
    | none => .reached s
    | some w =>
      match decodeChunk w with
      | some i => .run i s
      | none => .reached s

/-- Maryon stands outside the clocks that a thermal trip stops (R374, R378). -/
def Action.toMaryon (m : Action) : Bool := match m.acc with | some a => a.i3c | none => false

/-- The next move, made: a cell or a channel fetches and issues; a host access or an event of the hardware, which has no
word, is executed as it comes; a word is executed only where it is fetched. A stopped clock lets nothing but a cold start
and Maryon's accesses through (R374, R378). -/
def State.fetch (s : State) : Fetched :=
  let (m, s) := s.tied.nextMove
  match m with
  | .event .coldStart u => .run .coldStart { s with unit := u }
  | m =>
    if s.board.tripped && !m.toMaryon then .reached s
    else
      match m with
      | .tick => .reached s.cycle
      | .cell c => s.fetchCell c
      | .reel r ch => s.fetchReel r ch
      | .event i u => if (encode i).isNone then .run i { s with unit := u } else .reached s
      | .farWrite pa b =>
        if spaceFar pa then .reached { s with mem := tset 0 s.mem pa b } else .reached s
      | .reading w ds p => .reached { s with board := { s.board with lastW := w, lastHot := ds.foldl max 0, dies := ds, plate := p } }
where
  /-- Host and peer memory, which its own agent may write (R147, R239). -/
  spaceFar (pa : Nat) : Bool := decide (2 ^ 50 ≤ pa) && decide (pa < 3 * 2 ^ 50)

end Sys2Proof.Machine
end

