-- ==== Sys2Proof/Machine/Step.lean ====
section
/-! DEFINITION. One step of the module, and placing an instruction where the next step fetches. -/

namespace Sys2Proof.Machine

open Sys2Proof

/-- One step: the next move is taken, its instruction fetched and executed. -/
def step (s : State) : Host.Outcome State Fault Refusal :=
  match s.fetch with
  | .run i t => exec i t
  | .reached t => .next t

/-- The word as an instruction of a privileged microprogram of a running application in cell 0, or, where it is no cell
instruction, as the program of reel 0, channel 0; the agenda's head is the move that runs it (assumption 9). -/
def State.withFetchWord (s : State) (_nbits w : Nat) : State :=
  let word : Word := BitVec.ofNat 64 w
  match decodeCell true word with
  | .ok _ =>
    { s with
      agenda := .cell 0 :: s.agenda
      cells := tset Cell.blank s.cells 0 { s.cellAt 0 with
        serve := [0]
        cache := [{ sys := false, desc := 0, opid := 0, priv := true, code := [word], used := 0 }] }
      areas := tset Area.blank s.areas 0 { Area.blank with
        live := true, priv := true, cells := [0], ncode := 1, phase := .running } }
  | .error _ =>
    { s with
      agenda := .reel 0 0 :: s.agenda
      chans := tset Chan.blank s.chans 0 { s.chanAt 0 0 with st := .running, pc := 0, prog := [word] } }

end Sys2Proof.Machine
end

