-- ==== Sys2Proof/Safety.lean ====
section
/-! DEFINITION. What counts as a safe run, and the words in which the statements speak of an instruction that issues. -/

namespace Sys2Proof.Machine

open Sys2Proof

/-- The invariant of memory: its canonical form. -/
abbrev State.Canon (s : State) : Prop := Memory.wf s.mem = true

/-- What an instruction meets that waits for no token, is not skipped by its guard and meets no marked register
(R102, R106, R109). -/
abbrev Ready (s : State) (h : Hdr) (uses : List Reg) : Prop :=
  waitOver h.wm s.app = true ∧ s.app.guardBit h = true ∧ s.app.markHit h.wm uses = false

/-- The same for a lanewise instruction, whose guard selects lanes (R109). -/
abbrev ReadyLane (s : State) (h : Hdr) (uses : List Reg) : Prop :=
  waitOver h.wm s.app = true ∧ s.app.markHit h.wm uses = false

end Sys2Proof.Machine
end

