-- ==== Sys2Proof/Certificates/Slice0/Obligations.lean ====
section
/-! DEFINITION. The statements about this model for the provers, one `Obligations.<Name>` each, with the words they are
said in. -/

namespace Sys2Proof.Machine

/-- The instruction completes: the acting application becomes `a` at the next instruction, the time its area last
moved is noted, and nothing else of the module changes. -/
def Retires (i : Instr) (s : State) (a : AppCell) : Prop := exec i s = .next (s.retire a (s.app.pc + 1))

/-- The instruction writes `w` to `s` register `d` and completes. -/
def WritesS (i : Instr) (s : State) (d : BitVec 6) (w : Word) : Prop := Retires i s (s.app.setS d.toNat w)

/-- The instruction takes the trap of class `cls` and sub-cause `sub`: nothing but the trap of the acting application
changes (R337). -/
def Traps (i : Instr) (s : State) (cls sub : Nat) (info : Word) : Prop := exec i s = .next (s.raiseTrap cls sub info)

/-- The type codes of the scalar integer group (R121). -/
def intCodes : List Nat := [0, 1, 2, 3, 12, 13, 14]

/-- The chunk instructions of a reel (R315). -/
def isChunk : Instr → Bool
  | .reelNop _ | .reelEnd _ | .send _ | .recv _ | .rrc _ | .red _ | .redany _ | .ccpy _ | .xf _ | .lflag _ | .sig _
  | .cwait _ | .setc _ | .decb _ | .seqb _ | .mark _ => true
  | _ => false

end Sys2Proof.Machine

open Sys2Proof Sys2Proof.Machine

/-- Words that the spec prints or that its encoding tables give decode to the instruction and fields they stand for; a
word of an unassigned opcode, and one with a bit set in a field the instruction leaves unused, are refused with the
sub-cause R113 names. -/
def Obligations.DecodedWords : Prop :=
  decodeCell false 0x1000_0146_1C02_1000 = .ok (.add ⟨0, 0, 0⟩ ⟨5, 6, 7, 0, 2, 0, 1, 0⟩) ∧
  decodeCell false 0x0300_0210_5000_0002 = .ok (.br ⟨0, 0, 0⟩ ⟨2, 4, 5, 2⟩) ∧
  decodeCell false 0x2400_0080_0000_000C = .ok (.li ⟨0, 0, 0⟩ ⟨2, 0, 12⟩) ∧
  decodeCell false 0x8800_01D0_0000_0000 = .ok (.shpSym ⟨0, 0, 0⟩ ⟨7, 2, 0, 0, 0, 0, 0, 0, 0⟩) ∧
  decodeCell false 0xA200_000B_3002_0000 = .ok (.mma ⟨0, 0, 0⟩ ⟨0, 0, 1, 6, 6, 0, 0, 0, 1⟩) ∧
  decodeCell false 0x0C00_0000_0000_0000 = .error .unassigned ∧
  decodeCell false 0x0000_0000_0000_0001 = .error .rsvbits ∧
  decodeChunk 0x1000_0000_0000_0000 = some (.send ⟨0, 0, 0, 0, 0, 0⟩)

/-- For every cell instruction whose fields pass the checks of R113 and whose selector fields name its row of the opcode
map and whose special-register number a privileged microprogram may use so, the decoder of a privileged microprogram reads the encoder's word as that instruction. -/
def Obligations.CellRoundTrip : Prop :=
  ∀ (i : Instr) (w : Word), isChunk i = false → i.wf = true → i.selected = true → spCheck true i = none →
    encode i = some w → decodeCell true w = .ok i

/-- For every chunk instruction within the limits of R315, the decoder of a reel reads the encoder's word as that
instruction. -/
def Obligations.ChunkRoundTrip : Prop :=
  ∀ (i : Instr) (w : Word), isChunk i = true → i.wf = true → encode i = some w → decodeChunk w = some i

/-- When the next move is that a cell issues, the cell may issue and the word at its index decodes, the step is `exec` of
that instruction with this cell acting; when it is that a running reel channel goes on, the step is `exec` of the chunk
instruction at its index; when it is a host access or a hardware event (an instruction without a word), the step is
`exec` of it for the unit named, unless it is an access that ties with one of another port or of the management controller. Of
two accesses of one cycle from the two ports, that of the port that lost the last tie is executed, and the other port has lost this
one. Which accesses are of one cycle is the model's reading (assumption 97). -/
def Obligations.StepRunsTheDecodedInstruction : Prop :=
  ∀ (s : State) (rest : List Action), s.board.tripped = false →
    (∀ (c : Nat) (w : Word) (i : Instr), s.agenda = .cell c :: rest →
      let t : State := { s with agenda := rest, cur := c }
      t.canIssue = true → t.wordAt t.app.pc = some w → decodeCell t.area.priv w = .ok i → step s = exec i t) ∧
    (∀ (r ch : Nat) (w : Word) (i : Instr), s.agenda = .reel r ch :: rest →
      let t : State := { s with agenda := rest, curReel := r, curChan := ch }
      (t.chanAt r ch).st = .running → (t.chanAt r ch).prog[(t.chanAt r ch).pc]? = some w →
      decodeChunk w = some i → step s = exec i t) ∧
    (∀ (i : Instr) (u : Nat), s.agenda = .event i u :: rest → encode i = none →
      (∀ a, (Action.event i u).acc = some a → rival a 0 rest = none) →
      step s = exec i { s with agenda := rest, unit := u }) ∧
    (∀ (i j : Instr) (u v k : Nat) (a b : HostAcc), s.agenda = .event i u :: rest → encode i = none → encode j = none →
      (Action.event i u).acc = some a → rival a 0 rest = some (k, b) → rest[k]? = some (.event j v) → a.i3c = false → b.i3c = false →
      (s.hub.tie = a.port → step s = exec i { s with agenda := rest, unit := u, hub := { s.hub with tie := b.port } }) ∧
      (s.hub.tie = b.port → step s =
        exec j { s with agenda := .event i u :: rest.eraseIdx k, unit := v, hub := { s.hub with tie := a.port } }))

/-- A cell that may issue and stands at or beyond `ncode` takes trap class 1 with sub-cause PASTEND (6); one whose word
is refused by the decoder and whose wait mask is over takes class 1 with the decoder's sub-cause; nothing but the trap
changes. -/
def Obligations.FetchTraps : Prop :=
  ∀ (s : State) (c : Nat) (rest : List Action), s.board.tripped = false → s.agenda = .cell c :: rest →
    let t : State := { s with agenda := rest, cur := c }
    t.canIssue = true →
    (t.wordAt t.app.pc = none →
      step s = .next (t.putApp { t.app with trap := some ⟨1, 6, t.app.pc, 0, 0, none⟩ })) ∧
    (∀ (w : Word) (e : Illegal), t.wordAt t.app.pc = some w → decodeCell t.area.priv w = .error e →
      waitOver (w.extractLsb' 44 8) t.app = true →
      step s = .next (t.putApp { t.app with trap := some ⟨1, e.code, t.app.pc, w, 0, none⟩ }))

/-- A word that decodes in an unprivileged microprogram decodes to the same instruction in a privileged one and is none of
the privileged group (`xwrp`, `tlbi`, `ptst`, `fltdone`, `asret`, `ctxsv`). -/
def Obligations.PrivilegedDecode : Prop :=
  ∀ (w : Word) (i : Instr), decodeCell false w = .ok i → decodeCell true w = .ok i ∧
    match i with
    | .xwrp _ _ | .tlbiPage _ _ | .tlbiRange _ _ | .tlbiAsid _ _ | .ptst _ _ | .fltdoneOk _ _ | .fltdoneFail _ _
    | .fltdoneIrq _ _ | .asret _ _ | .ctxsvSave _ _ | .ctxsvForce _ _ | .ctxsvResume _ _ | .ctxsvKill _ _ => False
    | _ => True

/-- `s0` reads as zero and `k0` as all ones, and writes to them change nothing; a write to any other register reads back
and leaves the other registers of its file as they were; an application starts with every register at the value R94
gives. -/
def Obligations.RegisterFiles : Prop :=
  (∀ (a : AppCell) (n m : Nat) (w : Word) (k : BitVec 256) (x : VecVal) (y : Acc) (z : Bank) (q : StreamReg),
    a.getS 0 = 0 ∧ a.setS 0 w = a ∧ a.getK 0 = BitVec.allOnes 256 ∧ a.setK 0 k = a ∧
    (n ≠ 0 → (a.setS n w).getS n = w ∧ (a.setK n k).getK n = k) ∧
    (m ≠ n → (a.setS n w).getS m = a.getS m ∧ (a.setK n k).getK m = a.getK m ∧ (a.setV n x).getV m = a.getV m ∧
      (a.setM n y).getM m = a.getM m ∧ (a.setB n z).getB m = a.getB m ∧ (a.setA n q).getA m = a.getA m) ∧
    (a.setV n x).getV n = x ∧ (a.setM n y).getM n = y ∧ (a.setB n z).getB n = z ∧ (a.setA n q).getA n = q) ∧
  (∀ n, AppCell.start.getS n = 0 ∧ AppCell.start.getV n = ⟨0, 0⟩ ∧ (0 < n → AppCell.start.getK n = 0) ∧
    (AppCell.start.getM n).fp = false ∧ (∀ e, tget 0 (AppCell.start.getM n).el e = 0) ∧
    (AppCell.start.getB n).ty = 0 ∧ (∀ e, tget 0 (AppCell.start.getB n).col e = 0) ∧
    (∀ e, tget 0 (AppCell.start.getB n).hdr e = 0) ∧
    (AppCell.start.getA n).valid = false ∧ AppCell.start.getT n = 0) ∧
  AppCell.start.rstk = [] ∧ AppCell.start.out = []

/-- For each of the seven integer type codes of width W: an operand is the two's complement or the unsigned value of its
W low bits; a result without saturation is its W low bits, with saturation the value clamped to the type's range; and a
result is sign- or zero-extended to 64 bits. The widths are 8, 16, 32, 64, 8, 16 and 32, and the ranges −2^(W−1) to 2^(W−1) − 1 of the
first four types and 0 to 2^W − 1 of the others. -/
def Obligations.IntegerTypes : Prop :=
  intCodes.map tyWidth = [8, 16, 32, 64, 8, 16, 32] ∧
  ∀ (ty x : Nat) (r : Int), ty ∈ intCodes →
    (ty < 12 → extTy ty x = (BitVec.ofNat (tyWidth ty) x).toInt ∧
      widenTy ty x = (BitVec.ofNat (tyWidth ty) x).signExtend 64) ∧
    (12 ≤ ty → extTy ty x = ((BitVec.ofNat (tyWidth ty) x).toNat : Int) ∧
      widenTy ty x = (BitVec.ofNat (tyWidth ty) x).setWidth 64) ∧
    narrowTy ty false r = (BitVec.ofInt (tyWidth ty) r).toNat ∧
    extTy ty (narrowTy ty true r) = max (minTy ty) (min r (maxTy ty)) ∧
    minTy ty ≤ extTy ty x ∧ extTy ty x ≤ maxTy ty ∧
    (ty < 12 → minTy ty = -(2 : Int) ^ (tyWidth ty - 1) ∧ maxTy ty = (2 : Int) ^ (tyWidth ty - 1) - 1) ∧
    (12 ≤ ty → minTy ty = 0 ∧ maxTy ty = (2 : Int) ^ tyWidth ty - 1)

/-- Each instruction of the scalar integer group that waits for nothing, is not skipped and meets no marked register
completes, with the result R121 and R122 give in `s`d (nothing is written when d is 0) and no other change. -/
def Obligations.ScalarIntegerResults : Prop :=
  ∀ (s : State) (h : Hdr) (f : FmtT),
    let ty := f.ty.toNat
    let W := tyWidth ty
    let x := (s.app.getS f.a.toNat).toNat
    let n := (s.app.getS f.b.toNat).toNat
    let A := extTy ty x
    let B := extTy ty n
    let sat := f.sat == 1
    (Ready s h [sR f.d, sR f.a, sR f.b] →
      WritesS (.add h f) s f.d (widenTy ty (narrowTy ty sat (A + B))) ∧
      WritesS (.sub h f) s f.d (widenTy ty (narrowTy ty sat (A - B))) ∧
      WritesS (.mul h f) s f.d (widenTy ty (narrowTy ty sat (A * B))) ∧
      WritesS (.mulh h f) s f.d (widenTy ty (narrowTy ty false (A * B / ((2 ^ W : Nat) : Int)))) ∧
      WritesS (.min h f) s f.d (widenTy ty (narrowTy ty false (min A B))) ∧
      WritesS (.max h f) s f.d (widenTy ty (narrowTy ty false (max A B))) ∧
      WritesS (.cmp h f) s f.d (if A < B then BitVec.allOnes 64 else if A = B then 0 else 1) ∧
      (ty ∈ intCodes →
        WritesS (.andS h f) s f.d (widenTy ty (x &&& n)) ∧
        WritesS (.orS h f) s f.d (widenTy ty (x ||| n)) ∧
        WritesS (.xorS h f) s f.d (widenTy ty (x ^^^ n)) ∧
        WritesS (.shl h f) s f.d (widenTy ty (narrowTy ty sat (A * 2 ^ n))) ∧
        WritesS (.shr h f) s f.d (widenTy ty (x % 2 ^ W / 2 ^ n)) ∧
        WritesS (.sra h f) s f.d (widenTy ty (narrowTy ty false (A / 2 ^ n))))) ∧
    (Ready s h [sR f.d, sR f.a, sR f.b, sR f.c] →
      WritesS (.sel h f) s f.d (if s.app.getS f.c.toNat ≠ 0 then s.app.getS f.a.toNat else s.app.getS f.b.toNat)) ∧
    (Ready s h [sR f.d, sR f.a] →
      WritesS (.clz h f) s f.d (BitVec.ofNat 64
        (if x % 2 ^ W = 0 then W else W - 1 - (x % 2 ^ W).log2)) ∧
      WritesS (.popc h f) s f.d (BitVec.ofNat 64 (((upto 0 W).filter (fun k => x.testBit k)).length)))

/-- `div` and `rem` by a nonzero divisor write the truncated quotient and its remainder (MIN / −1 gives MIN, or MAX with
`sat`, and remainder 0); by zero they write all ones and the dividend and raise `dz`, or take the arithmetic trap of
sub-cause 3 when its enable is set. -/
def Obligations.ScalarDivision : Prop :=
  ∀ (s : State) (h : Hdr) (f : FmtT), Ready s h [sR f.d, sR f.a, sR f.b] → f.ty.toNat ∈ intCodes →
    let ty := f.ty.toNat
    let A := extTy ty (s.app.getS f.a.toNat).toNat
    let B := extTy ty (s.app.getS f.b.toNat).toNat
    let dz : AppCell := { s.app with fflags := s.app.fflags ||| 8 }
    (B ≠ 0 →
      WritesS (.div h f) s f.d (widenTy ty (narrowTy ty (f.sat == 1) (A.tdiv B))) ∧
      WritesS (.rem h f) s f.d (widenTy ty (narrowTy ty false (A - B * A.tdiv B)))) ∧
    (B = 0 → s.app.trapen.getLsbD 3 = false →
      Retires (.div h f) s (dz.setS f.d.toNat (widenTy ty (2 ^ tyWidth ty - 1))) ∧
      Retires (.rem h f) s (dz.setS f.d.toNat (BitVec.ofInt 64 A))) ∧
    (B = 0 → s.app.trapen.getLsbD 3 = true → Traps (.div h f) s 2 3 8 ∧ Traps (.rem h f) s 2 3 8)

/-- The three borderline cases of R122 in the functions the meanings call: division by zero gives all ones in W bits for
either `sat` and its remainder is A, both with `dz`; MIN / −1; and shifts by W or more. That `sra` of an unsigned type by W or more is 0
is the model's reading of R122's "all sign bits" (assumption 17). -/
def Obligations.DivisionOverflow : Prop :=
  ∀ (ty : Nat) (A : Int) (x n : Nat), ty ∈ intCodes → minTy ty ≤ A → A ≤ maxTy ty →
    (∀ sat, divInt ty A 0 sat = (2 ^ tyWidth ty - 1, 8)) ∧ remInt ty A 0 = (narrowTy ty false A, 8) ∧
    (minTy ty < 0 → divInt ty (minTy ty) (-1) false = (narrowTy ty false (minTy ty), 0) ∧
      divInt ty (minTy ty) (-1) true = (narrowTy ty false (maxTy ty), 0) ∧ remInt ty (minTy ty) (-1) = (0, 0)) ∧
    (tyWidth ty ≤ n → shlInt ty A n false = 0 ∧ shrInt ty x n = 0 ∧
      sraInt ty A n = (if A < 0 then 2 ^ tyWidth ty - 1 else 0)) ∧
    (maxTy ty < A * 2 ^ n → shlInt ty A n true = narrowTy ty false (maxTy ty)) ∧
    (A * 2 ^ n < minTy ty → shlInt ty A n true = narrowTy ty false (minTy ty)) ∧ shlInt ty 0 n true = 0 ∧
    (∀ en : BitVec 9, arithSub 8 0 en = if en.getLsbD 3 then some 3 else none)

/-- Each instruction of the immediate group and `mov`, when it issues, writes the value of R123's table to `s`d (nothing
when d is 0), completes and changes nothing else; a shift by 64 or more is refused as RSVVAL, and so is no smaller one; what `li` and `mov` leave
unused must be zero. -/
def Obligations.ImmediateResults : Prop :=
  (∀ (s : State) (h : Hdr) (f : FmtI), Ready s h [sR f.d, sR f.a] →
    let x := s.app.getS f.a.toNat
    let sx := f.imm.signExtend 64
    let zx := f.imm.setWidth 64
    WritesS (.addi h f) s f.d (x + sx) ∧ WritesS (.andi h f) s f.d (x &&& sx) ∧
    WritesS (.ori h f) s f.d (x ||| zx) ∧ WritesS (.xori h f) s f.d (x ^^^ zx) ∧
    WritesS (.li h f) s f.d sx ∧ WritesS (.shli h f) s f.d (x <<< f.imm.toNat) ∧
    WritesS (.shri h f) s f.d (x >>> f.imm.toNat) ∧ WritesS (.srai h f) s f.d (x.sshiftRight f.imm.toNat) ∧
    WritesS (.cmpi h f) s f.d (if x.slt sx then BitVec.allOnes 64 else if x = sx then 0 else 1) ∧
    WritesS (.lih h f) s f.d ((zx <<< 32) ||| (x &&& 0xFFFF_FFFF))) ∧
  (∀ (s : State) (h : Hdr) (f : FmtT), Ready s h [sR f.d, sR f.a] →
    WritesS (.mov h f) s f.d (s.app.getS f.a.toNat)) ∧
  (∀ (h : Hdr) (f : FmtI),
    ((Instr.shli h f).valuesOk = true ↔ (Instr.addi h f).valuesOk = true ∧ f.imm.toNat < 64) ∧
    ((Instr.shri h f).valuesOk = true ↔ (Instr.addi h f).valuesOk = true ∧ f.imm.toNat < 64) ∧
    ((Instr.srai h f).valuesOk = true ↔ (Instr.addi h f).valuesOk = true ∧ f.imm.toNat < 64) ∧
    (Instr.li h f).unusedZero = (f.a == 0)) ∧
  (∀ (h : Hdr) (f : FmtT), (Instr.mov h f).unusedZero =
    (f.b == 0 && f.c == 0 && f.ty == 0 && f.rm == 0 && f.sat == 0 && f.fn == 0))


namespace Sys2Proof.Machine

/-- Of the flags an instruction would raise the lowest enabled one is taken as an arithmetic trap, with all of them as its information
(R98). -/
def TrapsFlags (i : Instr) (s : State) (fl : BitVec 6) : Prop :=
  ∀ n, fl.getLsbD n = true → s.app.trapen.getLsbD n = true →
    (∀ m, m < n → fl.getLsbD m = true → s.app.trapen.getLsbD m = false) → Traps i s 2 n (fl.setWidth 64)

/-- The instruction rounds: it takes its draw of R203 when `rm` is SR; with no raised flag enabled it completes, its
flags ORed in and the seed written back; otherwise it takes the arithmetic trap whose sub-cause is the lowest raised
flag that is enabled (R98), and no draw is consumed. -/
def Rounds (i : Instr) (s : State) (rm : BitVec 3) (r : Nat → FR) (put : AppCell → Nat → AppCell) : Prop :=
  let dr : Nat × BitVec 32 := if rm = 5 then draw1 s.app.srseed else (0, s.app.srseed)
  let x := r dr.1
  (x.fl &&& s.app.trapen.setWidth 6 = 0 →
    Retires i s (put { s.app with fflags := s.app.fflags ||| x.fl, srseed := dr.2 } x.bits)) ∧
  TrapsFlags i s x.fl

/-- Lane `j` of a vector register read in width `w` (R204). -/
def laneAt (w : Nat) (x : VecVal) (j : Nat) : Nat := x.bits.toNat / 2 ^ (w * j) % 2 ^ w

/-- The header `k` of the scale side word (R94). -/
def hdrAt (x : VecVal) (k : Nat) : Nat := x.side.toNat / 2 ^ (32 * k) % 2 ^ 32

/-- The register whose active lanes of width `w` hold `new`, whose inactive ones keep, and whose side word is zero
(R94, R109, R204). -/
def LanesAre (w : Nat) (mask : BitVec 256) (old new : VecVal) (lane : Nat → Nat) : Prop :=
  new.side = 0 ∧ ∀ j, j < 1024 / w → laneAt w new j = if mask.getLsbD j then lane j % 2 ^ w else laneAt w old j

/-- The lanewise instruction completes: `v` register `d` becomes a register whose active lanes hold `lane`, and nothing
else changes. -/
def WritesLanes (i : Instr) (s : State) (h : Hdr) (d : BitVec 6) (w : Nat) (lane : Nat → Nat) : Prop :=
  ∃ new : VecVal, LanesAre w (s.app.guard h) (s.app.getV d.toNat) new lane ∧ Retires i s (s.app.setV d.toNat new)

/-- A lanewise rounding instruction: with no enabled flag raised in an active lane it completes, the flags of the active
lanes ORed in and the seed moved on by one draw for each lane under SR (R203, R204); with one it takes the arithmetic
trap of the lowest. `r j d` is the result of lane `j` under draw `d`. -/
def RoundsLanes (i : Instr) (s : State) (h : Hdr) (d : BitVec 6) (ty : Nat) (rm : BitVec 3) (r : Nat → Nat → FR) : Prop :=
  let dr := draws rm.toNat (lanes ty) s.app.srseed
  let fl : BitVec 6 := (upto 0 (lanes ty)).foldl (fun x j =>
    if (s.app.guard h).getLsbD j then x ||| (r j (dr.1.getD j 0)).fl else x) 0
  (fl &&& s.app.trapen.setWidth 6 = 0 →
    ∃ new : VecVal, LanesAre (tyWidth ty) (s.app.guard h) (s.app.getV d.toNat) new (fun j => (r j (dr.1.getD j 0)).bits) ∧
      Retires i s ({ s.app with fflags := s.app.fflags ||| fl, srseed := dr.2 }.setV d.toNat new)) ∧
  TrapsFlags i s fl

/-- The bits of a comparison written under the guard: inactive lanes keep, bits from L on are zero (R205, R208). -/
def MaskIs (L : Nat) (mask old new : BitVec 256) (rel : Nat → Bool) : Prop :=
  ∀ j, j < 256 → new.getLsbD j = if j < L then (if mask.getLsbD j then rel j else old.getLsbD j) else false

end Sys2Proof.Machine

/-- For each floating-point type, each code of a finite value, each rounding mode and draw and either `sat`: Round of
the code's exact value is the code, with no flag. So no bit of a format is misread and no mode disturbs a value that
needs no rounding. -/
def Obligations.RoundingExact : Prop :=
  ∀ (ty x rm draw : Nat) (sat : Bool) (v : Ex), ty ∈ [4, 5, 6, 7, 8] → x < 2 ^ (ffmt ty).w → fdec ty x = .fin v →
    roundEV ty rm sat draw (.fin v) = ⟨x, 0⟩

/-- Of an exact magnitude num / den: the rounded magnitude is one of the two integers that bracket it; RTZ takes the
smaller magnitude, RDN the lower value, RUP the higher; RNE and RNA the nearer, a tie to the even or to the larger; SR
the larger just when F + r reaches 65,536. -/
def Obligations.RoundingDirections : Prop :=
  ∀ (x : Ex) (rm r : Nat), 0 < x.den →
    let q := x.num / x.den
    let rest := x.num % x.den
    let m := (roundMag rm x r).1
    ((roundMag rm x r).2 = true ↔ rest ≠ 0) ∧ (m = q ∨ (rest ≠ 0 ∧ m = q + 1)) ∧
    (rest ≠ 0 →
      (rm = 0 → (2 * rest < x.den → m = q) ∧ (x.den < 2 * rest → m = q + 1) ∧ (2 * rest = x.den → m % 2 = 0)) ∧
      (rm = 1 → m = q) ∧ (rm = 2 → (m = q + 1 ↔ x.neg = true)) ∧ (rm = 3 → (m = q + 1 ↔ x.neg = false)) ∧
      (rm = 4 → (m = q + 1 ↔ x.den ≤ 2 * rest)) ∧
      (rm = 5 → (m = q + 1 ↔ 65536 ≤ rest * 65536 / x.den + r)))

/-- A step shifts right and folds in 0x8020_0003 when the bit shifted out is 1; a nonzero state stays nonzero; a draw is
16 steps and the low 16 bits of the state they leave. -/
def Obligations.StochasticDraw : Prop :=
  (∀ S : BitVec 32, lfsrStep S = if S % 2 = 1 then (S >>> 1) ^^^ 0x80200003 else S >>> 1) ∧
  (∀ (S : BitVec 32) (n : Nat), S ≠ 0 → lfsrRun n S ≠ 0) ∧
  (∀ S : BitVec 32, draw1 S = ((lfsrRun 16 S).toNat % 65536, lfsrRun 16 S)) ∧
  (∀ (S : BitVec 32) (m n : Nat), lfsrRun (m + n) S = lfsrRun n (lfsrRun m S))

/-- `fadd`, `fsub`, `fmul`, `fma` and `fcvt` round the exact result of their operands' low W bits once, under one draw
for SR; `fmin`, `fmax` and `fcls` raise nothing; `fcmp` writes 1 or 0 and raises `nv` for `lt` and `le` on a NaN. A
floating-point result is zero-extended, an integer one extended as in R121. -/
def Obligations.ScalarFloatResults : Prop :=
  ∀ (s : State) (h : Hdr) (f : FmtT),
    let ty := f.ty.toNat
    let st := f.fn.toNat % 16
    let val (r : BitVec 6) : EV := fdec ty ((s.app.getS r.toNat).toNat % 2 ^ tyWidth ty)
    let code (r : BitVec 6) : Nat := (s.app.getS r.toNat).toNat % 2 ^ tyWidth ty
    let put (a : AppCell) (x : Nat) : AppCell := a.setS f.d.toNat (BitVec.ofNat 64 x)
    (Ready s h [sR f.d, sR f.a, sR f.b] →
      Rounds (.fadd h f) s f.rm (fun r => (evAdd f.rm.toNat (val f.a) (val f.b)).round ty f.rm.toNat false r) put ∧
      Rounds (.fsub h f) s f.rm (fun r => (evAdd f.rm.toNat (val f.a) (evNeg (val f.b))).round ty f.rm.toNat false r) put ∧
      Rounds (.fmul h f) s f.rm (fun r => (evMul (val f.a) (val f.b)).round ty f.rm.toNat false r) put ∧
      WritesS (.fmin h f) s f.d (BitVec.ofNat 64 (fminmax ty false (code f.a) (code f.b))) ∧
      WritesS (.fmax h f) s f.d (BitVec.ofNat 64 (fminmax ty true (code f.a) (code f.b))) ∧
      Rounds (.fcmp h f) s 0 (fun _ => ⟨if (fcmpRel ty f.fn.toNat (code f.a) (code f.b)).1 then 1 else 0,
        (fcmpRel ty f.fn.toNat (code f.a) (code f.b)).2⟩) put) ∧
    (Ready s h [sR f.d, sR f.a, sR f.b, sR f.c] →
      Rounds (.fma h f) s f.rm
        (fun r => (evFma f.rm.toNat (val f.a) (val f.b) (val f.c)).round ty f.rm.toNat false r) put) ∧
    (Ready s h [sR f.d, sR f.a] →
      Rounds (.fcvt h f) s f.rm
        (fun r => convTy ty st f.rm.toNat (f.sat == 1 && (ty == 4 || ty == 5)) r ((s.app.getS f.a.toNat).toNat % 2 ^ tyWidth st))
        (fun a x => a.setS f.d.toNat (if isFloatTy ty then BitVec.ofNat 64 x else widenTy ty x)) ∧
      WritesS (.fcls h f) s f.d (BitVec.ofNat 64 (fclass ty (code f.a))))

/-- A NaN operand makes a NaN that is poison just when some operand is; 0 × ∞ and ∞ − ∞ give a NaN with `nv`; an exact
zero sum of opposite signs is +0, −0 under RDN; a NaN operand of a fused multiply-add makes a NaN so, with the flags of the product;
the special cases of R209's table, its NaN row among them; ordered comparisons of a NaN are
false with `nv`, `eq` is false and `un` true without a flag; a float-to-integer conversion of a NaN gives 0 with `nv`. -/
def Obligations.FloatSpecialCases : Prop :=
  (∀ (rm : Nat) (a b : EV), a.isNaN = true ∨ b.isNaN = true →
    evAdd rm a b = ⟨.nan (a.psn || b.psn), 0⟩ ∧ evMul a b = ⟨.nan (a.psn || b.psn), 0⟩) ∧
  (∀ (rm : Nat) (n m : Bool) (d : Nat), evMul (.inf n) (.fin ⟨m, 0, d⟩) = ⟨.nan false, 16⟩ ∧
    evMul (.fin ⟨m, 0, d⟩) (.inf n) = ⟨.nan false, 16⟩ ∧ evAdd rm (.inf n) (.inf (!n)) = ⟨.nan false, 16⟩ ∧
    evAdd rm (.inf n) (.inf n) = ⟨.inf n, 0⟩) ∧
  (∀ (rm : Nat) (a b c : EV), a.isNaN = true ∨ b.isNaN = true ∨ c.isNaN = true →
    evFma rm a b c = ⟨.nan (a.psn || b.psn || c.psn), (evMul a b).fl⟩) ∧
  (∀ (rm n d : Nat), 0 < n → evAdd rm (.fin ⟨false, n, d⟩) (.fin ⟨true, n, d⟩) = ⟨.fin ⟨rm == 2, 0, 1⟩, 0⟩) ∧
  (∀ d, 0 < d →
    evExp2 (.fin ⟨false, 0, d⟩) = ⟨.fin ⟨false, 1, 1⟩, 0⟩ ∧ evExp2 (.fin ⟨true, 0, d⟩) = ⟨.fin ⟨false, 1, 1⟩, 0⟩ ∧ evLog2 (.fin ⟨false, 0, d⟩) = ⟨.inf true, 8⟩ ∧
    evLog2 (.fin ⟨true, 0, d⟩) = ⟨.inf true, 8⟩ ∧ evRcp (.fin ⟨false, 0, d⟩) = ⟨.inf false, 8⟩ ∧
    evRcp (.fin ⟨true, 0, d⟩) = ⟨.inf true, 8⟩ ∧ evRsq (.fin ⟨false, 0, d⟩) = ⟨.inf false, 8⟩ ∧
    evRsq (.fin ⟨true, 0, d⟩) = ⟨.inf true, 8⟩) ∧
  (∀ n d, 0 < n → evLog2 (.fin ⟨true, n, d⟩) = ⟨.nan false, 16⟩ ∧ evRsq (.fin ⟨true, n, d⟩) = ⟨.nan false, 16⟩ ∧
    evRcp (.fin ⟨true, n, d⟩) = ⟨.fin ⟨true, d, n⟩, 0⟩) ∧
  (∀ p, evExp2 (.nan p) = ⟨.nan p, 0⟩ ∧ evLog2 (.nan p) = ⟨.nan p, 0⟩ ∧ evRcp (.nan p) = ⟨.nan p, 0⟩ ∧ evRsq (.nan p) = ⟨.nan p, 0⟩) ∧
  evExp2 (.inf false) = ⟨.inf false, 0⟩ ∧ evExp2 (.inf true) = ⟨.fin ⟨false, 0, 1⟩, 0⟩ ∧
  evLog2 (.inf false) = ⟨.inf false, 0⟩ ∧ evLog2 (.inf true) = ⟨.nan false, 16⟩ ∧
  evRcp (.inf false) = ⟨.fin ⟨false, 0, 1⟩, 0⟩ ∧ evRcp (.inf true) = ⟨.fin ⟨true, 0, 1⟩, 0⟩ ∧
  evRsq (.inf false) = ⟨.fin ⟨false, 0, 1⟩, 0⟩ ∧ evRsq (.inf true) = ⟨.nan false, 16⟩ ∧
  (∀ ty a b, (fdec ty a).isNaN = true ∨ (fdec ty b).isNaN = true →
    fcmpRel ty 0 a b = (false, 0) ∧ fcmpRel ty 1 a b = (false, 16) ∧ fcmpRel ty 2 a b = (false, 16) ∧
    fcmpRel ty 3 a b = (true, 0)) ∧
  (∀ ty rm draw p, toIntTy ty rm draw (.nan p) = ⟨0, 16⟩)

/-- Every instruction of the mask group, when it issues, gives the effect of its row of R126's table over the lane count
L of the type, completes and changes nothing else. -/
def Obligations.MaskResults : Prop :=
  ∀ (s : State) (h : Hdr) (f : FmtT),
    let x := s.app.getK f.a.toNat
    let y := s.app.getK f.b.toNat
    let L := lanes f.ty.toNat
    let n := f.fn.toNat
    (Ready s h [] →
      Retires (.kand h f) s (s.app.setK f.d.toNat (x &&& y)) ∧ Retires (.kor h f) s (s.app.setK f.d.toNat (x ||| y)) ∧
      Retires (.kxor h f) s (s.app.setK f.d.toNat (x ^^^ y)) ∧ Retires (.knot h f) s (s.app.setK f.d.toNat (~~~x)) ∧
      (n = 0 → Retires (.kmov h f) s (s.app.setK f.d.toNat x))) ∧
    (Ready s h [sR f.a] →
      (1 ≤ n → n ≤ 4 → ∃ k : BitVec 256, (∀ j, j < 256 → k.getLsbD j =
          if j / 64 = n - 1 then (s.app.getS f.a.toNat).getLsbD (j % 64) else (s.app.getK f.d.toNat).getLsbD j) ∧
        Retires (.kmov h f) s (s.app.setK f.d.toNat k)) ∧
      (∃ k : BitVec 256, (∀ j, j < 256 → k.getLsbD j = decide (j < min (s.app.getS f.a.toNat).toNat L)) ∧
        Retires (.kset h f) s (s.app.setK f.d.toNat k))) ∧
    (Ready s h [sR f.d] →
      (5 ≤ n → n ≤ 8 → WritesS (.kmov h f) s f.d (x.extractLsb' (64 * (n - 5)) 64)) ∧
      WritesS (.kpop h f) s f.d (BitVec.ofNat 64 ((upto 0 L).filter (fun i => x.getLsbD i)).length) ∧
      (∃ i : Nat, i ≤ L ∧ (∀ j, j < i → x.getLsbD j = false) ∧ (i < L → x.getLsbD i = true) ∧
        WritesS (.kfirst h f) s f.d (BitVec.ofNat 64 i)))

/-- Each lanewise instruction of the vector integer group, when it issues, gives every active lane the result of its row
of R205's table, keeps the inactive lanes, writes the side word zero and completes; `vcmp` writes a mask, the bits of
inactive lanes kept and those from L on zero; `vmac` adds to each active lane of twice the width the exact sum of two
products. -/
def Obligations.VectorIntegerResults : Prop :=
  ∀ (s : State) (h : Hdr) (f : FmtT), f.ty.toNat ∈ intCodes →
    let ty := f.ty.toNat
    let W := tyWidth ty
    let sat := f.sat == 1
    let x (j : Nat) : Nat := laneAt W (s.app.getV f.a.toNat) j
    let y (j : Nat) : Nat := laneAt W (s.app.getV f.b.toNat) j
    let A (j : Nat) : Int := extTy ty (x j)
    let B (j : Nat) : Int := extTy ty (y j)
    (ReadyLane s h [vR f.d, vR f.a, vR f.b] →
      WritesLanes (.vadd h f) s h f.d W (fun j => narrowTy ty sat (A j + B j)) ∧
      WritesLanes (.vsub h f) s h f.d W (fun j => narrowTy ty sat (A j - B j)) ∧
      WritesLanes (.vmul h f) s h f.d W (fun j => narrowTy ty sat (A j * B j)) ∧
      WritesLanes (.vmulh h f) s h f.d W (fun j => narrowTy ty false (A j * B j / ((2 ^ W : Nat) : Int))) ∧
      WritesLanes (.vand h f) s h f.d W (fun j => x j &&& y j) ∧
      WritesLanes (.vor h f) s h f.d W (fun j => x j ||| y j) ∧
      WritesLanes (.vxor h f) s h f.d W (fun j => x j ^^^ y j) ∧
      WritesLanes (.vshl h f) s h f.d W (fun j => narrowTy ty sat (A j * 2 ^ y j)) ∧
      WritesLanes (.vshr h f) s h f.d W (fun j => x j / 2 ^ y j) ∧
      WritesLanes (.vsra h f) s h f.d W (fun j => narrowTy ty false (A j / 2 ^ y j)) ∧
      WritesLanes (.vmin h f) s h f.d W (fun j => narrowTy ty false (min (A j) (B j))) ∧
      WritesLanes (.vmax h f) s h f.d W (fun j => narrowTy ty false (max (A j) (B j))) ∧
      WritesLanes (.vsel h f) s h f.d W (fun j => if (s.app.getK f.c.toNat).getLsbD j then x j else y j)) ∧
    (ReadyLane s h [vR f.d, vR f.a] →
      WritesLanes (.vabs h f) s h f.d W (fun j => narrowTy ty sat (A j).natAbs)) ∧
    (ReadyLane s h [vR f.a, vR f.b] →
      ∃ k : BitVec 256, MaskIs (lanes ty) (s.app.guard h) (s.app.getK f.d.toNat) k (fun j =>
          match f.fn.toNat with
          | 0 => decide (A j = B j)
          | 1 => decide (A j ≠ B j)
          | 2 => decide (A j < B j)
          | 3 => decide (A j ≤ B j)
          | 4 => decide (B j < A j)
          | _ => decide (B j ≤ A j)) ∧
        Retires (.vcmp h f) s (s.app.setK f.d.toNat k)) ∧
    (ReadyLane s h [vR f.d, vR f.a, vR f.b] → ty ∈ [0, 1, 12, 13] →
      WritesLanes (.vmac h f) s h f.d (2 * W) (fun j => narrowTy (ty + 1) sat
        (extTy (ty + 1) (laneAt (2 * W) (s.app.getV f.d.toNat) j) +
          (A (2 * j) * B (2 * j) + A (2 * j + 1) * B (2 * j + 1)))))

/-- Each rounding instruction of the vector floating-point group, when it issues, gives each active lane the exact
operation rounded once under that lane's draw, ORs in the flags of the active lanes and completes, or takes the
arithmetic trap; `vfmin`, `vfmax` and `vfneg` raise nothing; `vfcmp` writes a mask with the flags of `fcmp`, or takes the
arithmetic trap when it raises `nv` and that is enabled. -/
def Obligations.VectorFloatResults : Prop :=
  ∀ (s : State) (h : Hdr) (f : FmtT), f.ty.toNat ∈ [6, 7, 8] →
    let ty := f.ty.toNat
    let W := tyWidth ty
    let rm := f.rm.toNat
    let x (j : Nat) : Nat := laneAt W (s.app.getV f.a.toNat) j
    let y (j : Nat) : Nat := laneAt W (s.app.getV f.b.toNat) j
    let A (j : Nat) : EV := fdec ty (x j)
    let B (j : Nat) : EV := fdec ty (y j)
    let C (j : Nat) : EV := fdec ty (laneAt W (s.app.getV f.c.toNat) j)
    let rnd (v : EVF) (d : Nat) : FR := v.round ty rm false d
    (ReadyLane s h [vR f.d, vR f.a, vR f.b] →
      RoundsLanes (.vfadd h f) s h f.d ty f.rm (fun j => rnd (evAdd rm (A j) (B j))) ∧
      RoundsLanes (.vfsub h f) s h f.d ty f.rm (fun j => rnd (evAdd rm (A j) (evNeg (B j)))) ∧
      RoundsLanes (.vfmul h f) s h f.d ty f.rm (fun j => rnd (evMul (A j) (B j))) ∧
      WritesLanes (.vfmin h f) s h f.d W (fun j => fminmax ty false (x j) (y j)) ∧
      WritesLanes (.vfmax h f) s h f.d W (fun j => fminmax ty true (x j) (y j))) ∧
    (ReadyLane s h [vR f.d, vR f.a, vR f.b, vR f.c] →
      RoundsLanes (.vfma h f) s h f.d ty f.rm (fun j => rnd (evFma rm (A j) (B j) (C j)))) ∧
    (ReadyLane s h [vR f.d, vR f.a, sR f.b] →
      RoundsLanes (.vscale h f) s h f.d ty f.rm (fun j => rnd (evScale (A j) (s.app.getS f.b.toNat).toInt))) ∧
    (ReadyLane s h [vR f.d, vR f.a] →
      RoundsLanes (.vexp2 h f) s h f.d ty f.rm (fun j => rnd (evExp2 (A j))) ∧
      RoundsLanes (.vlog2 h f) s h f.d ty f.rm (fun j => rnd (evLog2 (A j))) ∧
      RoundsLanes (.vrcp h f) s h f.d ty f.rm (fun j => rnd (evRcp (A j))) ∧
      RoundsLanes (.vrsq h f) s h f.d ty f.rm (fun j => rnd (evRsq (A j))) ∧
      WritesLanes (.vfneg h f) s h f.d W (fun j => x j ^^^ 2 ^ (W - 1))) ∧
    (ReadyLane s h [vR f.a, vR f.b] →
      let raises : Prop := ∃ j, j < lanes ty ∧ (s.app.guard h).getLsbD j = true ∧ (fcmpRel ty f.fn.toNat (x j) (y j)).2 = 16
      (raises → s.app.trapen.getLsbD 4 = true → Traps (.vfcmp h f) s 2 4 16) ∧
      (¬raises ∨ s.app.trapen.getLsbD 4 = false →
        ∃ k : BitVec 256, MaskIs (lanes ty) (s.app.guard h) (s.app.getK f.d.toNat) k
            (fun j => (fcmpRel ty f.fn.toNat (x j) (y j)).1) ∧
          ∃ fl : BitVec 6, (fl = 0 ∨ fl = 16) ∧ (fl = 16 ↔ raises) ∧
            Retires (.vfcmp h f) s ({ s.app with fflags := s.app.fflags ||| fl }.setK f.d.toNat k)))

/-- A pair of two present items is combined, one passes on, none is absent; over a register the tree's result goes to
`s`d, zero-extended, and a flag of `vredsum` that is enabled takes the arithmetic trap; with every lane inactive `vredsum` writes +0 and `vredmax` the code of −∞. -/
def Obligations.VectorReductions : Prop :=
  (∀ (op : Nat → Nat → FR) (x y : Option Nat) (r : List (Option Nat)),
    (redLevel op (x :: y :: r)).1 = (match x, y with
      | some a, some b => some (op a b).bits
      | some a, none => some a
      | none, b => b) :: (redLevel op r).1) ∧
  (∀ (s : State) (h : Hdr) (f : FmtT), f.ty.toNat ∈ [6, 7, 8] → ReadyLane s h [sR f.d, vR f.a] →
    let ty := f.ty.toNat
    let items := (upto 0 (lanes ty)).map (fun j =>
      if (s.app.guard h).getLsbD j then some (laneAt (tyWidth ty) (s.app.getV f.a.toNat) j) else none)
    let sum := redTree (fun x y => (evAdd f.rm.toNat (fdec ty x) (fdec ty y)).round ty f.rm.toNat false 0) 8 items
    let top := redTree (fun x y => ⟨fminmax ty true x y, 0⟩) 8 items
    (sum.2 &&& s.app.trapen.setWidth 6 = 0 → Retires (.vredsum h f) s
      ({ s.app with fflags := s.app.fflags ||| sum.2 }.setS f.d.toNat (BitVec.ofNat 64 (sum.1.getD 0)))) ∧
    TrapsFlags (.vredsum h f) s sum.2 ∧
    WritesS (.vredmax h f) s f.d (BitVec.ofNat 64 (top.1.getD (2 ^ (tyWidth ty - 1) + infCode ty))) ∧
    ((∀ j, j < lanes ty → (s.app.guard h).getLsbD j = false) →
      Retires (.vredsum h f) s (s.app.setS f.d.toNat 0) ∧
      WritesS (.vredmax h f) s f.d (if ty = 6 then 0xFF80 else if ty = 7 then 0xFC00 else 0xFF800000)))

/-- `vcvt` converts the part that R211 names, each element by R212 under its own draw, the destination lanes outside the
part and the inactive ones kept; `vqbx` quantises each block of 32 source lanes by R200 into the elements and header of
its part and keeps every other block; `vdqbx` rounds the value of each element of the part. Each completes with its flags
ORed in, or takes the arithmetic trap of the lowest that is enabled. -/
def Obligations.VectorConversions : Prop :=
  (∀ (s : State) (h : Hdr) (f : FmtT), vcvtOk f.ty.toNat (f.fn.toNat % 16) (f.fn.toNat / 16 % 8) f.sat = true →
    ReadyLane s h [vR f.d, vR f.a] →
    let dt := f.ty.toNat
    let st := f.fn.toNat % 16
    let p := f.fn.toNat / 16 % 8
    let lf := min (lanes dt) (lanes st)
    let src (j : Nat) : Nat := laneAt (tyWidth st) (s.app.getV f.a.toNat) (if lanes dt ≤ lanes st then p * lf + j else j)
    let first := if lanes dt ≤ lanes st then 0 else p * lf
    let dr := draws (if isIntTy dt && isIntTy st then 0 else f.rm.toNat) lf s.app.srseed
    let r (j : Nat) : FR := convTy dt st f.rm.toNat (f.sat == 1) (dr.1.getD j 0) (src j)
    let fl : BitVec 6 := (upto 0 lf).foldl (fun x j => if (s.app.guard h).getLsbD (first + j) then x ||| (r j).fl else x) 0
    TrapsFlags (.vcvt h f) s fl ∧
    (fl &&& s.app.trapen.setWidth 6 = 0 →
    ∃ new : VecVal, new.side = 0 ∧
      (∀ j, j < lanes dt → laneAt (tyWidth dt) new j =
        if first ≤ j ∧ j < first + lf ∧ (s.app.guard h).getLsbD j = true then (r (j - first)).bits % 2 ^ tyWidth dt
        else laneAt (tyWidth dt) (s.app.getV f.d.toNat) j) ∧
      Retires (.vcvt h f) s ({ s.app with fflags := s.app.fflags ||| fl, srseed := dr.2 }.setV f.d.toNat new))) ∧
  (∀ (s : State) (h : Hdr) (f : FmtT), (f.ty = 9 ∨ f.ty = 11) → f.fn.toNat % 16 ∈ [6, 7, 8] →
    (f.fn.toNat / 16 % 8 + 1) * lanes (f.fn.toNat % 16) ≤ lanes f.ty.toNat → ReadyLane s h [vR f.d, vR f.a] →
    let bx8 := f.ty == 11
    let dt := f.ty.toNat
    let st := f.fn.toNat % 16
    let p := f.fn.toNat / 16 % 8
    let nb := lanes st / 32
    let gap := if f.fn.toNat / 128 % 16 = 0 then (if bx8 then 6 else 2) else f.fn.toNat / 128 % 16
    let dr := draws f.rm.toNat (lanes st) s.app.srseed
    let blk (b : Nat) : BxBlock := bxQuant bx8 gap f.rm.toNat ((upto (32 * b) 32).map (fun j => dr.1.getD j 0))
      ((upto (32 * b) 32).map (fun j => fdec st (laneAt (tyWidth st) (s.app.getV f.a.toNat) j)))
    let fl : BitVec 6 := (upto 0 nb).foldl (fun x b => x ||| (blk b).fl) 0
    TrapsFlags (.vqbx h f) s fl ∧
    (fl &&& s.app.trapen.setWidth 6 = 0 →
    ∃ new : VecVal,
      (∀ j, j < lanes dt → laneAt (tyWidth dt) new j =
        if p * nb ≤ j / 32 ∧ j / 32 < (p + 1) * nb then ((blk (j / 32 - p * nb)).els.getD (j % 32) 0) % 2 ^ tyWidth dt
        else laneAt (tyWidth dt) (s.app.getV f.d.toNat) j) ∧
      (∀ k, k < 8 → hdrAt new k =
        if bx8 = true ∧ 4 ≤ k then 0
        else if p * nb ≤ k ∧ k < (p + 1) * nb then (blk (k - p * nb)).hdr
        else hdrAt (s.app.getV f.d.toNat) k) ∧
      Retires (.vqbx h f) s ({ s.app with fflags := s.app.fflags ||| fl, srseed := dr.2 }.setV f.d.toNat new))) ∧
  (∀ (s : State) (h : Hdr) (f : FmtT), f.ty.toNat ∈ [6, 7, 8] → (f.fn.toNat % 16 = 9 ∨ f.fn.toNat % 16 = 11) →
    (f.fn.toNat / 16 % 8 + 1) * lanes f.ty.toNat ≤ lanes (f.fn.toNat % 16) → ReadyLane s h [vR f.d, vR f.a] →
    let dt := f.ty.toNat
    let st := f.fn.toNat % 16
    let p := f.fn.toNat / 16 % 8
    let v := s.app.getV f.a.toNat
    let dr := draws f.rm.toNat (lanes dt) s.app.srseed
    let r (j : Nat) : FR := roundEV dt f.rm.toNat false (dr.1.getD j 0)
      (bxVal (st == 11) (hdrAt v ((p * lanes dt + j) / 32)) (laneAt (tyWidth st) v (p * lanes dt + j)))
    let fl : BitVec 6 := (upto 0 (lanes dt)).foldl (fun x j => x ||| (r j).fl) 0
    TrapsFlags (.vdqbx h f) s fl ∧
    (fl &&& s.app.trapen.setWidth 6 = 0 →
    ∃ new : VecVal, new.side = 0 ∧ (∀ j, j < lanes dt → laneAt (tyWidth dt) new j = (r j).bits % 2 ^ tyWidth dt) ∧
      Retires (.vdqbx h f) s ({ s.app with fflags := s.app.fflags ||| fl, srseed := dr.2 }.setV f.d.toNat new)))

/-- Each movement instruction, when it issues, gives every active destination lane the lane or register value of its row
of R214's table, keeps the inactive lanes, writes the side word zero and completes; `vext` writes `s`d or keeps it; `vins`
replaces one lane; `vtr4` transposes groups of four lanes over four registers, all read at issue. -/
def Obligations.VectorMovement : Prop :=
  ∀ (s : State) (h : Hdr) (f : FmtT), f.ty.toNat ∈ [0, 1, 2, 4, 5, 6, 7, 8, 12, 13, 14] →
    let ty := f.ty.toNat
    let W := tyWidth ty
    let L := lanes ty
    let x (j : Nat) : Nat := laneAt W (s.app.getV f.a.toNat) j
    let y (j : Nat) : Nat := laneAt W (s.app.getV f.b.toNat) j
    let half := if f.fn = 0 then 0 else L / 2
    let k := (s.app.getS f.b.toNat).toNat
    (ReadyLane s h [vR f.d, vR f.a, vR f.b] →
      WritesLanes (.vperm h f) s h f.d W (fun j => x (y j % L)) ∧
      WritesLanes (.vzip h f) s h f.d W (fun j => if j % 2 = 0 then x (half + j / 2) else y (half + j / 2)) ∧
      WritesLanes (.vunzip h f) s h f.d W (fun j =>
        let m := 2 * j + (if f.fn = 0 then 0 else 1)
        if m < L then x m else y (m - L)) ∧
      (ty ∈ [0, 1, 12, 13] → WritesLanes (.vpack h f) s h f.d W (fun j =>
        let v := if j < L / 2 then laneAt (2 * W) (s.app.getV f.a.toNat) j
          else laneAt (2 * W) (s.app.getV f.b.toNat) (j - L / 2)
        narrowTy ty (f.sat == 1) (extTy (ty + 1) v)))) ∧
    (ReadyLane s h [vR f.d, sR f.a] →
      WritesLanes (.vbcast h f) s h f.d W (fun _ => (s.app.getS f.a.toNat).toNat)) ∧
    (ReadyLane s h [sR f.d, vR f.a, sR f.b] →
      (L ≤ k → WritesS (.vext h f) s f.d 0) ∧
      (k < L → (s.app.guard h).getLsbD k = true →
        WritesS (.vext h f) s f.d (if ty ∈ intCodes then widenTy ty (x k) else BitVec.ofNat 64 (x k))) ∧
      (k < L → (s.app.guard h).getLsbD k = false → Retires (.vext h f) s s.app)) ∧
    (ReadyLane s h [vR f.d, sR f.a, sR f.b] →
      ∃ new : VecVal, new.side = 0 ∧ (∀ j, j < L → laneAt W new j =
          if j = k ∧ (s.app.guard h).getLsbD j = true then (s.app.getS f.a.toNat).toNat % 2 ^ W
          else laneAt W (s.app.getV f.d.toNat) j) ∧
        Retires (.vins h f) s (s.app.setV f.d.toNat new)) ∧
    (ReadyLane s h [vR f.d, vR f.a, sR f.b, sR f.c] →
      WritesLanes (.vshf h f) s h f.d W (fun j =>
        let m : Int := (j : Int) - (s.app.getS f.b.toNat).toInt
        if 0 ≤ m ∧ m < (L : Int) then x m.toNat else (s.app.getS f.c.toNat).toNat)) ∧
    (ReadyLane s h [vR f.d, vR f.a] → ty ∈ [0, 1, 12, 13] →
      WritesLanes (.vunpack h f) s h f.d (2 * W) (fun j => narrowTy (ty + 1) false (extTy ty (x (half + j))))) ∧
    (ReadyLane s h ((upto f.d.toNat 4).map Reg.v ++ (upto f.a.toNat 4).map Reg.v) →
      ∃ r0 r1 r2 r3 : VecVal,
        (∀ q r : Nat, q < 4 → r < 4 → ∀ j, j < L / 4 →
          laneAt W ([r0, r1, r2, r3].getD q r0) (4 * j + r) = laneAt W (s.app.getV (f.a.toNat + r)) (4 * j + q)) ∧
        r0.side = 0 ∧ r1.side = 0 ∧ r2.side = 0 ∧ r3.side = 0 ∧
        Retires (.vtr4 h f) s ((((s.app.setV f.d.toNat r0).setV (f.d.toNat + 1) r1).setV (f.d.toNat + 2) r2).setV
          (f.d.toNat + 3) r3))


namespace Sys2Proof.Machine

/-- The instruction completes with the index moved to `p` (a branch, call or return). -/
def Jumps (i : Instr) (s : State) (a : AppCell) (p : Nat) : Prop := exec i s = .next (s.retire a p)

/-- Whether a branch condition of R118 holds on two registers. -/
def CondIs (cnd : Nat) (x y : Word) : Prop :=
  cnd = 0 ∨ (cnd = 1 ∧ x = y) ∨ (cnd = 2 ∧ x ≠ y) ∨ (cnd = 3 ∧ x.toInt < y.toInt) ∨ (cnd = 4 ∧ y.toInt ≤ x.toInt) ∨
    (cnd = 5 ∧ x.toNat < y.toNat) ∨ (cnd = 6 ∧ y.toNat ≤ x.toNat)

/-- The numbers of the `s` register and of the `v` or `k` register that an instruction of the frame statement may write:
32 where it writes none (a scalar result goes to `s`d, a comparison and a mask to `k`d, a lanewise result to `v`d). -/
def destRegs : Instr → Nat × Nat
  | .add _ f | .sub _ f | .mul _ f | .mulh _ f | .div _ f | .rem _ f | .andS _ f | .orS _ f | .xorS _ f | .shl _ f
  | .shr _ f | .sra _ f | .min _ f | .max _ f | .cmp _ f | .sel _ f | .clz _ f | .popc _ f | .mov _ f | .fadd _ f
  | .fsub _ f | .fmul _ f | .fma _ f | .fmin _ f | .fmax _ f | .fcmp _ f | .fcvt _ f | .fcls _ f | .kpop _ f
  | .kfirst _ f | .vredsum _ f | .vredmax _ f | .vext _ f => (f.d.toNat, 32)
  | .addi _ f | .andi _ f | .ori _ f | .xori _ f | .li _ f | .shli _ f | .shri _ f | .srai _ f | .cmpi _ f | .lih _ f
  | .xrd _ f => (f.d.toNat, 32)
  | .kmov _ f => if f.fn.toNat ≤ 4 then (32, f.d.toNat) else (f.d.toNat, 32)
  | .kand _ f | .kor _ f | .kxor _ f | .knot _ f | .kset _ f | .vadd _ f | .vsub _ f | .vmul _ f | .vmulh _ f | .vand _ f
  | .vor _ f | .vxor _ f | .vshl _ f | .vshr _ f | .vsra _ f | .vmin _ f | .vmax _ f | .vabs _ f | .vcmp _ f | .vsel _ f
  | .vmac _ f | .vfadd _ f | .vfsub _ f | .vfmul _ f | .vfma _ f | .vfmin _ f | .vfmax _ f | .vfneg _ f | .vfcmp _ f
  | .vexp2 _ f | .vlog2 _ f | .vrcp _ f | .vrsq _ f | .vscale _ f | .vcvt _ f | .vqbx _ f | .vdqbx _ f | .vperm _ f
  | .vbcast _ f | .vins _ f | .vzip _ f | .vunzip _ f | .vshf _ f | .vpack _ f | .vunpack _ f => (32, f.d.toNat)
  | _ => (32, 32)

/-- Instructions whose destination is a mask register. -/
def toMask : Instr → Bool
  | .kand _ _ | .kor _ _ | .kxor _ _ | .knot _ _ | .kset _ _ | .kmov _ _ | .vcmp _ _ | .vfcmp _ _ => true
  | _ => false

/-- Instructions that the spec lets raise a flag: division, floating-point arithmetic, comparison and conversion (R98,
R122, R124, R125, R195). -/
def mayRaise : Instr → Bool
  | .div _ _ | .rem _ _ | .fadd _ _ | .fsub _ _ | .fmul _ _ | .fma _ _ | .fcmp _ _ | .fcvt _ _ | .vfadd _ _ | .vfsub _ _
  | .vfmul _ _ | .vfma _ _ | .vfcmp _ _ | .vexp2 _ _ | .vlog2 _ _ | .vrcp _ _ | .vrsq _ _ | .vredsum _ _ | .vscale _ _
  | .vcvt _ _ | .vqbx _ _ | .vdqbx _ _ => true
  | _ => false

/-- Instructions that may draw for stochastic rounding (R203). -/
def mayDraw : Instr → Bool
  | .fadd _ _ | .fsub _ _ | .fmul _ _ | .fma _ _ | .fcvt _ _ | .vfadd _ _ | .vfsub _ _ | .vfmul _ _ | .vfma _ _
  | .vexp2 _ _ | .vlog2 _ _ | .vrcp _ _ | .vrsq _ _ | .vscale _ _ | .vcvt _ _ | .vqbx _ _ | .vdqbx _ _ => true
  | _ => false

end Sys2Proof.Machine

/-- A taken branch, a call and a loop go to their index plus the signed offset when that lies in 0 to `ncode` − 1, and
otherwise take PASTEND without redirecting; an untaken branch and a loop whose counter reaches 0 go on; a call pushes its
successor and at depth 8 takes STKOVF; a return pops and at depth 0 takes STKUNF. That a call outside the code takes PASTEND though its
return stack is full is the model's reading (assumption 11). -/
def Obligations.BranchesCallsLoops : Prop :=
  ∀ (s : State) (h : Hdr) (f : FmtK),
    let dest : Int := (s.app.pc : Int) + f.off.toInt
    let inside : Prop := 0 ≤ dest ∧ dest < (s.ncode : Int)
    let x := s.app.getS f.sa.toNat
    let y := s.app.getS f.sb.toNat
    let dec := s.app.setS f.sa.toNat (x - 1)
    (Ready s h [sR f.sa, sR f.sb] → f.cnd.toNat ≤ 6 →
      (CondIs f.cnd.toNat x y → inside → Jumps (.br h f) s s.app dest.toNat) ∧
      (CondIs f.cnd.toNat x y → ¬inside → Traps (.br h f) s 1 6 0) ∧
      (¬CondIs f.cnd.toNat x y → Retires (.br h f) s s.app)) ∧
    (Ready s h [] →
      (inside → s.app.rstk.length < 8 →
        Jumps (.call h f) s { s.app with rstk := (s.app.pc + 1) :: s.app.rstk } dest.toNat) ∧
      (inside → 8 ≤ s.app.rstk.length → Traps (.call h f) s 6 1 0) ∧
      (¬inside → Traps (.call h f) s 1 6 0) ∧
      (∀ p r, s.app.rstk = p :: r → Jumps (.ret h f) s { s.app with rstk := r } p) ∧
      (s.app.rstk = [] → Traps (.ret h f) s 6 2 0)) ∧
    (Ready s h [sR f.sa] → f.sa ≠ 0 →
      (x - 1 ≠ 0 → inside → Jumps (.loop h f) s dec dest.toNat) ∧
      (x - 1 ≠ 0 → ¬inside → Traps (.loop h f) s 1 6 0) ∧
      (x = 1 → Retires (.loop h f) s dec))

/-- `nop` only moves on; `sleep` holds issue for min(`s`sa + off, 2^32 − 1) cycles; a committed application passes `cmt`
and another one holds there with its request made, the quiet cycles of its area counted anew from then; `end` with every token count 0 ends the application in the cell, which
stops issuing for it, and waits otherwise; `trap` takes the control trap SOFT and `brk`, with `x.TRAP.ben` set, BREAK; with it clear `brk` only
moves on. A `sleep` of a context whose pre-emption has been asked for
ends at once: that it does so when the request already stands is the model's choice beside R119 (assumption 107). -/
def Obligations.ControlResults : Prop :=
  ∀ (s : State) (h : Hdr) (f : FmtK),
    let n := min ((s.app.getS f.sa.toNat).toNat + f.off.toNat) (2 ^ 32 - 1)
    (Ready s h [sR f.sa] →
      (n = 0 → Retires (.sleep h f) s s.app) ∧
      ((s.ctxAt s.desc).pre ≠ .none → Retires (.sleep h f) s s.app) ∧
      (0 < n → (s.ctxAt s.desc).pre = .none → Retires (.sleep h f) s { s.app with sleep := some (s.cyc + n) })) ∧
    (Ready s h [] →
      Retires (.nop h f) s s.app ∧
      (s.app.cmt = true → Retires (.cmt h f) s s.app) ∧
      (s.app.cmt = false → s.app.cmtReq = false →
        exec (.cmt h f) s = .next ((s.putApp { s.app with cmtReq := true }).stir s.here)) ∧
      (s.app.cmt = false → s.app.cmtReq = true → exec (.cmt h f) s = .next s) ∧
      Traps (.trap h f) s 6 3 (f.off.setWidth 64) ∧
      (s.app.trapen.getLsbD 8 = true → Traps (.brk h f) s 6 4 (f.off.setWidth 64)) ∧
      (s.app.trapen.getLsbD 8 = false → Retires (.brk h f) s s.app) ∧
      ((∃ k, k < 8 ∧ s.app.getT k ≠ 0) → exec (.endApp h f) s = .next s) ∧
      ((∀ k, k < 8 → s.app.getT k = 0) → ∃ t, exec (.endApp h f) s = .next t ∧
        (t.cellAt s.cur).serve = (s.cellAt s.cur).serve.drop 1 ∧ (t.appOf s.here s.cur).ended = true))

/-- The frame that every instruction of the register files issues through, said once: with a token of the wait mask
outstanding nothing happens at all; a false whole-instruction guard only moves on; a register among the operands that is
marked under a token not waited for raises the token-discipline trap with no effect. The scalar, immediate and control
instructions named here issue so. An `lds` or `sts` whose guard is false transfers nothing and still advances its cursor by 1. -/
def Obligations.GuardedAndWaiting : Prop :=
  (∀ (s : State) (h : Hdr) (m : FmtM), waitOver h.wm s.app = true → s.app.guardBit h = false →
    ∀ x ∈ ([.lds h m, .sts h m] : List Instr),
      exec x s = .next (s.putApp (s.app.setA m.as.toNat ((s.app.getA m.as.toNat).advance 0 1))).advance) ∧
  ∀ (s : State) (h : Hdr) (t : FmtT) (k : FmtK) (i : FmtI),
    (waitOver h.wm s.app = false → ∀ x ∈ ([.add h t, .sub h t, .div h t, .sel h t, .fma h t, .fcvt h t, .addi h i, .li h i,
        .mov h t, .kand h t, .br h k, .nop h k, .endApp h k, .cmt h k, .trap h k, .vadd h t, .vfma h t, .xrd h i] : List Instr),
      exec x s = .next s) ∧
    (waitOver h.wm s.app = true → s.app.guardBit h = false → ∀ x ∈ ([.add h t, .sub h t, .div h t, .sel h t, .fma h t,
        .fcvt h t, .addi h i, .li h i, .mov h t, .kand h t, .br h k, .nop h k, .endApp h k, .cmt h k, .trap h k, .xrd h i] : List Instr),
      Retires x s s.app) ∧
    (waitOver h.wm s.app = true → s.app.guardBit h = true → s.app.markHit h.wm [sR t.d, sR t.a, sR t.b] = true →
      ∀ x ∈ ([.add h t, .sub h t, .mul h t, .div h t, .min h t, .fadd h t, .fmul h t, .fcmp h t] : List Instr),
      Traps x s 3 0 0)

/-- `xrd` writes the named register's value, zero-extended, to `s`d; `xwr` and `xwrp` write `s`a to the named register in
its own width, with reserved bits ignored and a seed of 0 stored as 1; each completes and changes nothing else. An `xwrp` of
an uncommitted application only asks for the commit. A privileged microprogram reads its ASID and generation in `x.CTX`, another one
reads 0 there. -/
def Obligations.SpecialRegisters : Prop :=
  (∀ (s : State) (h : Hdr) (f : FmtI), Ready s h [sR f.d] →
    let reads (v : Word) : Prop := WritesS (.xrd h f) s f.d v
    let a := s.app
    (f.imm = 0x000 → reads (BitVec.ofNat 64 s.cur)) ∧
    (f.imm = 0x001 → reads (BitVec.ofNat 64 (s.area.cells.idxOf s.cur))) ∧
    (f.imm = 0x002 → reads (BitVec.ofNat 64 s.area.cells.length)) ∧
    (f.imm = 0x003 → (∀ p y r, s.area.operandIn s.cur = (p, y) :: r → reads (BitVec.ofNat 64 p)) ∧
      (s.area.operandIn s.cur = [] → reads 0x1FFFF)) ∧
    (f.imm = 0x004 → reads (BitVec.ofNat 64 (s.area.syms.filter (fun y => y.cell == s.cur)).length)) ∧
    (f.imm = 0x005 → reads (BitVec.ofNat 64 s.area.opLen)) ∧
    (f.imm = 0x006 → reads (s.area.parm.signExtend 64)) ∧
    (f.imm = 0x007 → ∃ v, reads v ∧ (s.area.desc < 128 → (s.ctxAt s.area.desc).prio < 8 →
      v.toNat % 128 = s.area.desc ∧ v.toNat / 128 % 8 = (s.ctxAt s.area.desc).prio ∧
      (s.area.priv = false → v.toNat / 1024 = 0) ∧
      (s.area.priv = true → s.genOf (s.asidOf s.area.desc) < 16 → v.toNat / 1024 % 64 = 0 ∧
        v.toNat / 2 ^ 16 % 2 ^ 10 = s.asidOf s.area.desc % 2 ^ 10 ∧ v.toNat / 2 ^ 26 = s.genOf (s.asidOf s.area.desc)))) ∧
    (f.imm = 0x008 → reads (BitVec.ofNat 64 s.cyc)) ∧
    (f.imm = 0x009 → reads (a.fflags.setWidth 64)) ∧ (f.imm = 0x00A → reads (a.mflags.setWidth 64)) ∧
    (f.imm = 0x00B → reads (a.srseed.setWidth 64)) ∧ (f.imm = 0x00C → reads (a.trapen.setWidth 64)) ∧
    (f.imm = 0x00D → a.out.length < 32 → reads (BitVec.ofNat 64 (a.out.length + 32 * (a.held / 32)))) ∧
    (f.imm = 0x00E → reads (BitVec.ofNat 64 ((if a.cmt then 1 else 0) + 2 * s.ballastUsed s.cur))) ∧
    (f.imm = 0x00F → reads (BitVec.ofNat 64 a.rstk.length)) ∧
    (f.imm = 0x010 → reads (if s.area.priv then 1 else 0)) ∧
    (f.imm = 0x100 → reads (a.tasid.setWidth 64)) ∧ (f.imm = 0x101 → reads (a.frec.setWidth 64)) ∧
    (f.imm = 0x102 → reads (a.ctxsel.setWidth 64))) ∧
  (∀ (s : State) (h : Hdr) (f : FmtI), Ready s h [sR f.a] → s.app.cmt = false →
    exec (.xwrp h f) s = .next (s.putApp { s.app with force := true })) ∧
  (∀ (s : State) (h : Hdr) (f : FmtI), Ready s h [sR f.a] → ∀ op ∈ [Instr.xwr h f, Instr.xwrp h f],
    (op = .xwrp h f → s.app.cmt = true) →
    let a := s.app
    let w := a.getS f.a.toNat
    (f.imm = 0x009 → Retires op s { a with fflags := w.setWidth 6 }) ∧
    (f.imm = 0x00A → Retires op s { a with mflags := w.setWidth 3 }) ∧
    (f.imm = 0x00B → Retires op s { a with srseed := if w.setWidth 32 = (0 : BitVec 32) then 1 else w.setWidth 32 }) ∧
    (f.imm = 0x00C → Retires op s { a with trapen := w.setWidth 9 &&& 0x17F }) ∧
    (op = .xwrp h f → (f.imm = 0x100 → Retires op s { a with tasid := w.setWidth 14 }) ∧
      (f.imm = 0x102 → Retires op s { a with ctxsel := w.setWidth 7 })))

/-- Check 5 of R113: `xrd` passes for a register its view can read, takes PRIVREG for a hidden one and RSVVAL for a
reserved number; `xwr` passes only for the four read/write registers; `xwrp` passes for those and for the two that only
it writes. -/
def Obligations.SpecialRegisterViews : Prop :=
  ∀ (h : Hdr) (f : FmtI) (priv : Bool), f.imm.toNat < 4096 →
    let n := f.imm.toNat
    let known : Prop := n ≤ 0x010
    let hidden : Prop := n = 0x100 ∨ n = 0x101 ∨ n = 0x102
    let flagsAndSeed : Prop := 0x009 ≤ n ∧ n ≤ 0x00C
    (spCheck priv (.xrd h f) = none ↔ known ∨ (hidden ∧ priv = true)) ∧
    (spCheck priv (.xrd h f) = some .privreg ↔ hidden ∧ priv = false) ∧
    (spCheck priv (.xrd h f) = some .rsvval ↔ ¬known ∧ ¬hidden) ∧
    (spCheck priv (.xwr h f) = none ↔ flagsAndSeed) ∧
    (spCheck priv (.xwr h f) = some .privreg ↔ hidden ∧ priv = false) ∧
    (spCheck true (.xwrp h f) = none ↔ flagsAndSeed ∨ n = 0x100 ∨ n = 0x102)

/-- A trap raised in an application that has none records its class, sub-cause, the index and word of the instruction and
its information there, and leaves everything else of the module as it was: the registers, the flags, the index, every
other cell and area, memory; one raised where a trap already stands changes nothing. -/
def Obligations.TrapFrame : Prop :=
  ∀ (s : State) (cls sub : Nat) (info w : Word), s.wordAt s.app.pc = some w →
    let t := s.raiseTrap cls sub info
    (s.app.trap = none → t.app = { s.app with trap := some ⟨cls, sub, s.app.pc, w, info, none⟩ }) ∧
    (s.app.trap ≠ none → t = s) ∧
    t.here = s.here ∧ t.cur = s.cur ∧ { t with areas := s.areas } = s ∧
    (∀ j, j ≠ s.here → t.areaAt j = s.areaAt j) ∧ (∀ c, c ≠ s.cur → t.area.appAt c = s.area.appAt c) ∧
    { t.area with apps := s.area.apps } = s.area

namespace Sys2Proof.Machine

/-- From `s` to `t` nothing but the acting application has changed: no byte of memory or of a tile store, no other area, no other
cell's application, no symbol, no other piece of the module. -/
def OnlyApp (s t : State) : Prop :=
  (∀ p acq pa, t.readByte p acq pa = s.readByte p acq pa) ∧ (∀ c o, tget 0 (t.cellAt c).ts o = tget 0 (s.cellAt c).ts o) ∧
  { t with areas := s.areas } = s ∧ (∀ j, j ≠ s.here → t.areaAt j = s.areaAt j) ∧
  (∀ c, c ≠ s.cur → t.area.appAt c = s.area.appAt c) ∧ t.area.syms = s.area.syms

end Sys2Proof.Machine

/-- When a scalar, immediate, mask, vector or special-register instruction answers a next state: every byte of memory and
of every tile store, every other area, every other cell's application, the area's symbols and every other piece of the
module are as before; of the acting application at most its destination register, flags, mask, seed, index or trap have
changed: its tokens, streams, accumulators, banks, return stack and out-slot buffer have not. `vtr4` changes at most its four
registers, `xwr` and `xwrp` at most the special registers they name, and `xwrp` may ask for the commit. -/
def Obligations.FrameOfRegisterInstructions : Prop :=
  (∀ (s t : State) (h : Hdr) (f : FmtT) (g : FmtI),
    (exec (.vtr4 h f) s = .next t → OnlyApp s t ∧ (∀ n, n < f.d.toNat ∨ f.d.toNat + 4 ≤ n → t.app.getV n = s.app.getV n) ∧
      { t.app with v := s.app.v, pc := s.app.pc, trap := s.app.trap } = s.app) ∧
    (∀ i ∈ [Instr.xwr h g, Instr.xwrp h g], exec i s = .next t → OnlyApp s t ∧ (i = .xwr h g → t.app.force = s.app.force) ∧
      (g.imm.toNat % 4096 ≠ 0x009 → t.app.fflags = s.app.fflags) ∧ (g.imm.toNat % 4096 ≠ 0x00A → t.app.mflags = s.app.mflags) ∧
      (g.imm.toNat % 4096 ≠ 0x00B → t.app.srseed = s.app.srseed) ∧ (g.imm.toNat % 4096 ≠ 0x00C → t.app.trapen = s.app.trapen) ∧
      (g.imm.toNat % 4096 ≠ 0x100 → t.app.tasid = s.app.tasid) ∧ (g.imm.toNat % 4096 ≠ 0x102 → t.app.ctxsel = s.app.ctxsel) ∧
      { t.app with fflags := s.app.fflags, mflags := s.app.mflags, srseed := s.app.srseed, trapen := s.app.trapen,
                   tasid := s.app.tasid, ctxsel := s.app.ctxsel, force := s.app.force, pc := s.app.pc, trap := s.app.trap } = s.app)) ∧
  ∀ (s t : State) (h : Hdr) (f : FmtT) (g : FmtI), ∀ i ∈ ([.add h f, .sub h f, .mul h f, .mulh h f, .div h f, .rem h f,
      .andS h f, .orS h f, .xorS h f, .shl h f, .shr h f, .sra h f, .min h f, .max h f, .cmp h f, .sel h f, .clz h f,
      .popc h f, .addi h g, .andi h g, .ori h g, .xori h g, .li h g, .shli h g, .shri h g, .srai h g, .cmpi h g, .lih h g,
      .mov h f, .fadd h f, .fsub h f, .fmul h f, .fma h f, .fmin h f, .fmax h f, .fcmp h f, .fcvt h f, .fcls h f,
      .kand h f, .kor h f, .kxor h f, .knot h f, .kmov h f, .kpop h f, .kfirst h f, .kset h f, .vadd h f, .vsub h f,
      .vmul h f, .vmulh h f, .vand h f, .vor h f, .vxor h f, .vshl h f, .vshr h f, .vsra h f, .vmin h f, .vmax h f,
      .vabs h f, .vcmp h f, .vsel h f, .vmac h f, .vfadd h f, .vfsub h f, .vfmul h f, .vfma h f, .vfmin h f, .vfmax h f,
      .vfneg h f, .vfcmp h f, .vexp2 h f, .vlog2 h f, .vrcp h f, .vrsq h f, .vredsum h f, .vredmax h f, .vscale h f,
      .vcvt h f, .vqbx h f, .vdqbx h f, .vperm h f, .vbcast h f, .vext h f, .vins h f, .vzip h f, .vunzip h f,
      .vshf h f, .vpack h f, .vunpack h f, .xrd h g] : List Instr), exec i s = .next t →
    OnlyApp s t ∧ (∀ n, n ≠ (destRegs i).1 → t.app.getS n = s.app.getS n) ∧
    (∀ n, toMask i = true ∨ n ≠ (destRegs i).2 → t.app.getV n = s.app.getV n) ∧
    (∀ n, toMask i = false ∨ n ≠ (destRegs i).2 → t.app.getK n = s.app.getK n) ∧
    { t.app with s := s.app.s, v := s.app.v, k := s.app.k, pc := s.app.pc, trap := s.app.trap, srseed := s.app.srseed,
                 fflags := s.app.fflags } = s.app ∧
    (mayRaise i = false → t.app.fflags = s.app.fflags) ∧ (mayDraw i = false → t.app.srseed = s.app.srseed)


namespace Sys2Proof.Machine

/-- Checks 1 to 4 of R166 pass: a valid record of the right space, width and block kind, a block axis of 0, and a first
index that starts a block. -/
def StreamFits (x : StreamReg) (tile : Bool) (ty : Nat) (i0 : Int) : Prop :=
  x.valid = true ∧ x.rc.ts = tile ∧ tyWidth ty = tyWidth x.rc.ty ∧ isBX ty = isBX x.rc.ty ∧
    (isBX ty = true → x.rc.baxis = 0 ∧ i0 % 32 = 0)

/-- The active lanes of a vector access under a guard. -/
def activeLanes (L : Nat) (mask : BitVec 256) : List Nat := (upto 0 L).filter (fun j => mask.getLsbD j)

/-- The elements that a tile-store access of the lanes `js` writes from `v`, then the headers of the blocks they lie in
(R163, R172). -/
def storeOf (x : StreamReg) (ty : Nat) (o : Int) (js : List Nat) (v : VecVal) : List ElWrite :=
  js.map (fun j => ⟨(x.rc.addr (x.tuple (o + j))).1.toNat, tyWidth ty, (x.rc.addr (x.tuple (o + j))).2, laneAt (tyWidth ty) v j⟩) ++
    (if isBX ty then (upto 0 8).filterMap (fun k => (js.find? (fun j => j / 32 == k)).map (fun j =>
      ⟨(x.rc.hdrAddr (x.tuple (o + j))).toNat, 32, 0, hdrAt v k⟩)) else [])

/-- The checks of R166 on a global access: the stream, every address formed, the alignment of every element. -/
def GlobalFits (s : State) (x : StreamReg) (tile : Bool) (ty : Nat) (o : Int) (ls : List LaneAt) : Prop :=
  StreamFits x tile ty (x.cursor 0 + o) ∧ (tile = false → ∀ a ∈ formed x.rc ls, 0 ≤ a ∧ vaOk s.area.priv a.toNat = true) ∧
    ∀ l ∈ ls, ∀ a sh, x.rc.loc l.tup = .at a sh → a % (elBytes (tyWidth ty) : Int) = 0

/-- The instruction accepts an effect and sends it: after commit it stands last in its queue; before, the ballast buffer
holds it when its bytes fit, and otherwise the application asks to commit and the instruction issues again (R140, R141). -/
def SendsEffect (i : Instr) (s : State) (path : Path) (que : Nat) (tok : Option Nat) (bytes : Nat) (fl : BitVec 6) (k : OpKind)
    (f : State → State) : Prop :=
  (s.app.cmt = true → exec i s = .next (f (s.push path que tok [] k)).advance) ∧
  (s.app.cmt = false → s.ballastUsed s.cur + bytes ≤ 65536 → exec i s = .next (f (s.hold path que tok bytes fl k)).advance) ∧
  (s.app.cmt = false → 65536 < s.ballastUsed s.cur + bytes → exec i s = .next (s.putApp { s.app with force := true }))

end Sys2Proof.Machine

/-- `ld` of in-range, aligned elements, which no earlier operation of the cell holds back, gives each active lane the element at the address R163 computes (a BX access also
the headers of the blocks it touches), keeps the inactive lanes, moves the cursor by the lane count and completes; `lds`
reads the one element into `s`d, extended by its type. An active lane out of range takes the memory trap of sub-cause 1
with the first such lane's address; that this address in the tile store is the trap's information is the model's reading of R338
(assumption 13). -/
def Obligations.TileStoreLoads : Prop :=
  ∀ (s : State) (h : Hdr) (f : FmtM), (s.cellAt s.cur).bad = [] →
    let x := s.app.getA f.as.toNat
    let ty := f.ty.toNat
    let W := tyWidth ty
    let L := lanes ty
    let o : Int := f.off.toInt + (s.app.getS f.ix.toNat).toInt
    let g := s.app.guard h
    let tup (j : Nat) : List Int := x.tuple (o + j)
    let el (j : Nat) : Nat :=
      leNat (tgetRun 0 (s.cellAt s.cur).ts (x.rc.addr (tup j)).1.toNat (elBytes W)) / 2 ^ (x.rc.addr (tup j)).2
    StreamFits x true ty (x.cursor 0 + o) →
    (ReadyLane s h [vR f.d, sR f.ix] →
      (s.tileHeld f.as.toNat true = false → (∀ j ∈ activeLanes L g, x.rc.inRange (tup j) = true ∧ (x.rc.addr (tup j)).1 % (elBytes W : Int) = 0) →
        ∃ new : VecVal,
          (∀ j, j < L → laneAt W new j = if g.getLsbD j then el j % 2 ^ W else laneAt W (s.app.getV f.d.toNat) j) ∧
          (isBX ty = false → new.side = 0) ∧
          (isBX ty = true → ∀ j ∈ activeLanes L g,
            hdrAt new (j / 32) = leNat (tgetRun 0 (s.cellAt s.cur).ts (x.rc.hdrAddr (tup j)).toNat 4)) ∧
          Retires (.ld h f) s ((s.app.setV f.d.toNat new).setA f.as.toNat (x.advance 0 L))) ∧
      (∀ j js, (activeLanes L g).filter (fun (j : Nat) => !x.rc.inRange (tup j)) = j :: js →
        Traps (.ld h f) s 8 1 (BitVec.ofInt 64 (x.rc.addr (tup j)).1))) ∧
    (Ready s h [sR f.d, sR f.ix] → isBX ty = false →
      (s.tileHeld f.as.toNat true = false → x.rc.inRange (tup 0) = true → (x.rc.addr (tup 0)).1 % (elBytes W : Int) = 0 →
        Retires (.lds h f) s ((s.app.setS f.d.toNat
          (if isIntTy ty then widenTy ty (el 0 % 2 ^ W) else BitVec.ofNat 64 (el 0 % 2 ^ W))).setA f.as.toNat (x.advance 0 1))) ∧
      (x.rc.inRange (tup 0) = false → Traps (.lds h f) s 8 1 (BitVec.ofInt 64 (x.rc.addr (tup 0)).1)))

/-- `st` and `sts` of in-range, aligned elements into a tile the application may write, which no earlier operation of the cell holds
back, store exactly those elements (and
a BX access its headers): every tile-store byte outside them, every other cell and all of memory are as before; the cursor
moves and the instruction completes. A byte element reads back. A store to a tile that the application may not write takes
the tile-write trap; an element out of range the memory trap, with its tile-store address as the model reads R338 (assumption 13). -/
def Obligations.TileStoreStores : Prop :=
  (∀ (s : State) (h : Hdr) (f : FmtM),
    let x := s.app.getA f.as.toNat
    let ty := f.ty.toNat
    let L := lanes ty
    let o : Int := f.off.toInt + (s.app.getS f.ix.toNat).toInt
    let js := activeLanes L (s.app.guard h)
    let fits (j : Nat) : Prop := x.rc.inRange (x.tuple (o + j)) = true ∧
      (x.rc.addr (x.tuple (o + j))).1 % (elBytes (tyWidth ty) : Int) = 0
    let stores (i : Instr) (els : List ElWrite) (n : Int) : Prop :=
      ∃ t : State, exec i s = .next t ∧ t = ((s.putCell s.cur ((s.cellAt s.cur).storeEls els)).putApp
          (s.app.setA f.as.toNat (x.advance 0 n))).advance ∧ t.mem = s.mem ∧ t.bufs = s.bufs ∧
        (∀ c, c ≠ s.cur → t.cellAt c = s.cellAt c) ∧
        (∀ b, (∀ e ∈ els, b < e.va ∨ e.va + elBytes e.bits ≤ b) →
          tget 0 (t.cellAt s.cur).ts b = tget 0 (s.cellAt s.cur).ts b)
    StreamFits x true ty (x.cursor 0 + o) →
    (ReadyLane s h [vR f.d, sR f.ix] →
      (s.recWrite x.rc = .ok → s.tileHeld f.as.toNat false = false → (∀ j ∈ js, fits j) →
        stores (.st h f) (storeOf x ty o js (s.app.getV f.d.toNat)) L) ∧
      (s.recWrite x.rc = .trap → Traps (.st h f) s 5 0 0) ∧
      (s.recWrite x.rc = .ok → ∀ j r, js.filter (fun (j : Nat) => !x.rc.inRange (x.tuple (o + j))) = j :: r →
        Traps (.st h f) s 8 1 (BitVec.ofInt 64 (x.rc.addr (x.tuple (o + j))).1))) ∧
    (Ready s h [sR f.d, sR f.ix] → isBX ty = false →
      (s.recWrite x.rc = .ok → s.tileHeld f.as.toNat false = false → fits 0 →
        stores (.sts h f) (storeOf x ty o [0] ⟨(s.app.getS f.d.toNat).setWidth 1024, 0⟩) 1) ∧
      (s.recWrite x.rc = .trap → Traps (.sts h f) s 5 0 0) ∧
      (s.recWrite x.rc = .ok → x.rc.inRange (x.tuple o) = false →
        Traps (.sts h f) s 8 1 (BitVec.ofInt 64 (x.rc.addr (x.tuple o)).1)))) ∧
  (∀ (c : Cell) (e : ElWrite), 8 ≤ e.bits → tgetRun 0 (c.storeEl e).ts e.va (e.bits / 8) = leBytes (e.bits / 8) e.val)

/-- A global access that passes its checks, with room under its token, leaves the cell as an operation of its stream's
queue with everything it read at issue: `ldg` and `stg` move the cursor by the lane count, gathers, scatters and prefetches
do not; a store is held before commit, its token then completing with the conversion's flags. A gather or scatter on a tile-store
record is performed at once when no earlier operation of the cell holds it back, and waits at issue otherwise: a gather gives each active lane
the element its index names, 0 or poison where the record puts it out of range, keeps the other lanes below 32 and clears the rest. -/
def Obligations.GlobalAccesses : Prop :=
  ∀ (s : State) (h : Hdr) (f : FmtM), s.app.tokRoom f.tv f.tok = true →
    let x := s.app.getA f.as.toNat
    let ty := f.ty.toNat
    let L := lanes ty
    let o : Int := f.off.toInt + (s.app.getS f.ix.toNat).toInt
    let ls := laneTuples x o L (s.app.guard h)
    let gs := gatherTuples x f.off.toInt ((s.app.getV f.ix.toNat).lanes 32) (s.app.guard h)
    let at' (j : Nat) : Loc := x.rc.loc (x.tuple (f.off.toInt + signed 32 (laneAt 32 (s.app.getV f.ix.toNat) j)))
    let tok := tokOf f.tv f.tok
    let v := s.app.getV f.d.toNat
    let moved (t : State) : State := t.bump f.as L
    let gbase := VecVal.ofLanes (tyWidth ty) ((v.lanes (tyWidth ty)).take 32 ++ List.replicate (L - 32) 0)
    (ReadyLane s h [vR f.d, sR f.ix] → GlobalFits s x false ty o ls →
      exec (.ldg h f) s = .next (moved (s.push .stream f.as.toNat tok [vR f.d]
        (.gload f.d.toNat ty (loadPlan x.rc ty ls v).1 (loadPlan x.rc ty ls v).2.1 (loadPlan x.rc ty ls v).2.2 false
          f.pol.toNat))).advance ∧
      SendsEffect (.stg h f) s .stream f.as.toNat tok (ls.length * tyWidth ty / 8 + 8)
        (if (storePlan x.rc ty ls v).2 then fPZ else 0)
        (.gstore (storePlan x.rc ty ls v).1 (storePlan x.rc ty ls v).2 false f.pol.toNat) moved) ∧
    (ReadyLane s h [vR f.d, vR f.ix] → GlobalFits s x false ty f.off.toInt gs →
      exec (.ldx h f) s = .next (s.push .stream f.as.toNat tok [vR f.d]
        (.gload f.d.toNat ty (loadPlan x.rc ty gs gbase).1 (loadPlan x.rc ty gs gbase).2.1 (loadPlan x.rc ty gs gbase).2.2
          true f.pol.toNat)).advance ∧
      SendsEffect (.stx h f) s .stream f.as.toNat tok (gs.length * (tyWidth ty / 8 + 8))
        (if (storePlan x.rc ty gs v).2 then fPZ else 0)
        (.gstore (storePlan x.rc ty gs v).1 (storePlan x.rc ty gs v).2 true f.pol.toNat) id) ∧
    (ReadyLane s h [vR f.d, vR f.ix] → GlobalFits s x true ty f.off.toInt gs →
      (s.tileHeld f.as.toNat true = false →
        ∃ w ff, exec (.ldx h f) s = .next (s.pushDone tok [vR f.d] [.v f.d.toNat w] ff 0).advance ∧
          ((s.cellAt s.cur).bad = [] → isBX ty = false → w.side = 0 ∧
            ff = (if (activeLanes 32 (s.app.guard h)).any (fun j => at' j == .poison) then fPZ else 0) ∧
            ∀ j, j < L → laneAt (tyWidth ty) w j = if 32 ≤ j then 0
              else if (s.app.guard h).getLsbD j = false then laneAt (tyWidth ty) v j
              else match at' j with
                | .at p sh => leNat (tgetRun 0 (s.cellAt s.cur).ts p.toNat (elBytes (tyWidth ty))) / 2 ^ sh % 2 ^ tyWidth ty
                | .zero => 0
                | .poison => poison ty % 2 ^ tyWidth ty)) ∧
      (s.tileHeld f.as.toNat true = true → exec (.ldx h f) s = .next s) ∧
      (s.recWrite x.rc = .ok → s.tileHeld f.as.toNat false = true → exec (.stx h f) s = .next s) ∧
      (s.recWrite x.rc = .ok → s.tileHeld f.as.toNat false = false → f.tv = 0 → exec (.stx h f) s =
        .next (s.modCell s.cur (fun c => c.storeEls (storePlan x.rc ty gs v).1)).advance) ∧
      (s.recWrite x.rc = .ok → s.tileHeld f.as.toNat false = false → f.tv = 1 → ∃ ff, exec (.stx h f) s =
        .next ((s.modCell s.cur (fun c => c.storeEls (storePlan x.rc ty gs v).1)).pushDone tok [] [] ff 0).advance)) ∧
    (Ready s h [sR f.ix] → GlobalFits s x false ty o (laneTuples x o L (BitVec.allOnes 256)) →
      exec (.pfg h f) s = .next (s.push .stream f.as.toNat tok []
        (.pfg ((formed x.rc (laneTuples x o L (BitVec.allOnes 256))).map Int.toNat) f.pol.toNat)).advance)

/-- Pushing an operation puts it last in its cell's list with a fresh identity and the index and word of its instruction, adds 1 to its token's count, marks the
registers it will write, counts an effect in its context's `esent`, and leaves memory, tile bytes, registers, the index and
every other cell as they were. Holding one before commit puts it in the ballast buffer with its bytes and changes no
memory; a token it names completes as it is held, with the flags known by then, and it owes its application those of its
performance. That every held effect completes its token so is assumption 23, and that `esent` counts an operation once assumption 31. -/
def Obligations.OperationsIssued : Prop :=
  ∀ (s : State) (path : Path) (que : Nat) (tok : Option Nat) (dst : List Reg) (k : OpKind) (bytes : Nat) (fl : BitVec 6),
    let t := s.push path que tok dst k
    let u := s.hold path que none bytes fl k
    let v := s.hold path que tok bytes fl k
    (t.cellAt s.cur).pend = (s.cellAt s.cur).pend ++
      [⟨s.nextOp + 1, s.here, s.desc, s.area.priv, path, que, tok, none, false, false, s.app.pc, (s.wordAt s.app.pc).getD 0, false, [], k⟩] ∧
    t.nextOp = s.nextOp + 1 ∧ t.mem = s.mem ∧ t.bufs = s.bufs ∧ (t.cellAt s.cur).ts = (s.cellAt s.cur).ts ∧
    (∀ c, c ≠ s.cur → t.cellAt c = s.cellAt c) ∧
    (∀ n, t.app.getS n = s.app.getS n) ∧ (∀ n, t.app.getV n = s.app.getV n) ∧ t.app.pc = s.app.pc ∧
    (∀ n, t.app.getT n = if tok = some n then s.app.getT n + 1 else s.app.getT n) ∧
    (∀ n, tok = some n → ∀ r ∈ dst, r ≠ .s 0 → (⟨r, n, none⟩ : Mark) ∈ t.app.marks) ∧
    (t.ctxAt s.desc).esent = (s.ctxAt s.desc).esent + (if k.counted then 1 else 0) ∧
    u.app.ballast = s.app.ballast ++
      [⟨⟨s.nextOp + 1, s.here, s.desc, s.area.priv, path, que, none, none, false, false, s.app.pc, (s.wordAt s.app.pc).getD 0, true, [], k⟩, bytes⟩] ∧
    { u with areas := s.areas, nextOp := s.nextOp } = s ∧
    v.app.ballast = s.app.ballast ++
      [⟨⟨s.nextOp + 1, s.here, s.desc, s.area.priv, path, que, none, none, tok.isSome, false, s.app.pc, (s.wordAt s.app.pc).getD 0, true, [], k⟩, bytes⟩] ∧
    (∀ n, tok = some n → (v.cellAt s.cur).done = (s.cellAt s.cur).done ++
      [⟨s.nextOp + 2, s.here, s.desc, tok, none, [], fl, 0, false, none⟩]) ∧ v.mem = s.mem ∧ v.bufs = s.bufs

/-- A record that passes R165 is placed in the stream register, its cursor 0 and its translation entry empty: from a
`TILE` symbol, from the bay's shape cache or the image's table (and then kept in the cache) with the symbol's base, from a `v` register, or with one extent replaced; `sadv` moves
the cursor. `talloc` allocates the lowest free run at a multiple of 32, zeroed, counts its bytes and writes its handle;
`tfree` frees a tile this application allocated and has not emitted; `tshr` frees the first of two equal tiles and writes
the second's handle, or leaves both. That the table is fetched as an unprivileged read from level 3 is the model's choice (assumption 107), and that
a hit neither translates nor reads and a record read is kept its reading of R176 (assumption 106). -/
def Obligations.ShapesAndTiles : Prop :=
  ∀ (s : State) (h : Hdr) (f : FmtM),
    let w := s.app.getS f.d.toNat
    let x := s.app.getA f.as.toNat
    let madeIn (u : State) (r : ShapeRec) : State := (u.putApp (u.app.setA f.as.toNat ⟨true, r, [], none⟩)).advance
    let made := madeIn s
    let shx := (w.extractLsb' 49 11).toNat
    let based (r : ShapeRec) : ShapeRec := { r with base := (w.extractLsb' 0 49).setWidth 64 <<< 6 }
    let vrec := ShapeRec.ofBytes (leBytes 64 (s.app.getV f.d.toNat).bits.toNat)
    let xrec : ShapeRec := ⟨x.rc.base, x.rc.ety, x.rc.ndim, x.rc.baxis, x.rc.bnd, x.rc.ts,
      tset 0 x.rc.ext f.d.toNat ((s.app.getS f.ix.toNat).setWidth 32), x.rc.str, x.rc.hdr⟩
    (Ready s h [sR f.d] → isTile w = true → s.recordCheck (tileRecord w) true = none →
      exec (.shpSym h f) s = .next (made (tileRecord w))) ∧
    (Ready s h [sR f.d] → symTag w = tagARRAY →
      (s.shapeTable.2 ≤ shx → Traps (.shpSym h f) s 9 2 0) ∧
      (∀ q, shx < s.shapeTable.2 → s.shapeHit shx = some q → s.recordCheck (based q.1) q.2 = none →
        exec (.shpSym h f) s = .next (made (based q.1))) ∧
      (∀ l, shx < s.shapeTable.2 → s.shapeHit shx = none →
        s.transEnts s.home ⟨s.desc, false⟩ false (upto (s.shapeTable.1 + 64 * shx) 64) = .ok l →
        let r := ShapeRec.ofBytes ((l.map paOf).map (s.readByte Party.reel 0))
        s.recordCheck (based r.1) r.2 = none →
          exec (.shpSym h f) s = .next (madeIn ((s.touchedHome s.home false l).shapeKeep shx r) (based r.1)))) ∧
    (Ready s h [vR f.d] → s.recordCheck vrec.1 vrec.2 = none → exec (.shpVec h f) s = .next (made vrec.1)) ∧
    (Ready s h [sR f.ix] → x.valid = true → f.d.toNat < x.rc.ndim →
      (s.recordCheck xrec true = none → exec (.shpExt h f) s = .next (made xrec)) ∧
      Retires (.sadv h f) s (s.app.setA f.as.toNat
        (x.advance f.d.toNat (f.off.toInt + (s.app.getS f.ix.toNat).toInt)))) ∧
    (Ready s h [sR f.d, sR f.ix] →
      let q := s.app.getS f.ix.toNat
      let ty := f.ty.toNat
      let rows := q.toNat % 512 + 1
      let cols := q.toNat / 512 % 512 + 1
      let len := footprint ty rows cols
      let clear (o : Nat) : Prop := o % 32 = 0 ∧ o + len ≤ 393216 ∧
        ∀ r ∈ (s.cellAt s.cur).tiles, o + len ≤ r.off ∨ r.off + r.len ≤ o
      (isBX ty = true → cols % 32 = 0) → len ≤ 393216 → s.app.held + len ≤ s.area.tileb → (∃ o, clear o) →
      ∃ off t, clear off ∧ (∀ o, clear o → off ≤ o) ∧ exec (.talloc h f) s = .next t ∧
        t.app = ({ s.app with held := s.app.held + len }.setS f.d.toNat (tileWord cols rows ty len off)).goto (s.app.pc + 1) ∧
        (∀ b, off ≤ b → b < off + len → tget 0 (t.cellAt s.cur).ts b = 0) ∧
        (t.cellAt s.cur).ts = (s.cellAt s.cur).ts.filter (fun e => !(off ≤ e.1 && e.1 < off + len)) ∧
        (t.cellAt s.cur).tiles = (s.cellAt s.cur).tiles ++ [⟨off, len, some s.here, false, 0⟩]) ∧
    (Ready s h [sR f.d] →
      (s.runNamed w = none → Traps (.tfree h f) s 8 6 0) ∧
      (∀ r, s.runNamed w = some r →
        (r.alloc = some s.here → r.emitted = false → ∃ t, exec (.tfree h f) s = .next t ∧ t = (s.dropTile r).advance ∧
          (t.cellAt s.cur).tiles = (s.cellAt s.cur).tiles.filter (fun y => y.off != r.off) ∧
          t.app.held = s.app.held - r.len) ∧
        (r.alloc ≠ some s.here → Traps (.tfree h f) s 8 5 0))) ∧
    (Ready s h [sR f.d, sR f.ix] → ∀ ra rb, s.runNamed w = some ra → s.runNamed (s.app.getS f.ix.toNat) = some rb →
      ra.alloc = some s.here → ra.emitted = false → withOff w 0 = withOff (s.app.getS f.ix.toNat) 0 →
      let same : Prop := (s.cellAt s.cur).tread ra.off ra.len = (s.cellAt s.cur).tread rb.off rb.len
      (same → exec (.tshr h f) s = .next ((s.dropTile ra).putApp
        ((s.dropTile ra).app.setS f.d.toNat (s.app.getS f.ix.toNat))).advance) ∧
      (¬same → Retires (.tshr h f) s s.app))


/-- A `cpy`, with room under its token, committed or writing the tile store, stands last in the copy queue with the packet it read,
the status R184 gives it (0 when it may move) and every piece still to be read, the tiles it writes pinned (its header plane's among
them; that the plane lies in the destination's tile store with `cv` 3 and 4 is assumption 107, the model's choice beside R186); a bridle counts its bytes at issue whatever the status, and fails at once when the packet is refused; before commit a `cpy`
to memory, or one bound to a bridle in memory, asks to commit (the second is the model's choice between two rules, assumption 110).
Its update leaves the bridle's line in the stage cache. `cpq` writes the kept code in bits 7 to 0 and the bytes delivered
above, and clears them. Which bytes a bound copy counts, and that a refused one counts them and then fails, is assumption 34. -/
def Obligations.CopyIssue : Prop :=
  ∀ (s : State) (h : Hdr) (f : FmtM),
    let p := copyPkt (s.app.getV f.d.toNat).bits.toNat
    let br := s.copyBridle p f.scp.toNat
    let st := s.copyStatus p br.isSome
    let pin (c : Cell) (a : Nat) : Cell := c.pinOver a 1
    let pinned (t : State) : State := if st = 0 then t.modCell t.cur (p.onTiles pin) else t
    let sent (mem : Option (Nat × Nat)) (t : State) : State := ((pinned t).push .copy 0 (tokOf f.tv f.tok) []
      (.copy p f.scp.toNat f.pol.toNat ⟨if p.pieces = 0 then [] else [(0, p.pieces)], [], 0, mem, []⟩ st 0)).advance
    let bound (u : State) (hm : BridleHome) : State :=
      let t := u.bridleUpd hm (.issue (p.out * p.runs)) none
      if st = 0 then t else t.bridleUpd hm .fail none
    (∀ (x : Cell), p.onTiles pin x = if p.dts = false then x
      else if 3 ≤ p.cv then (x.pinOver p.dstSpan.1.toNat 1).pinOver p.hadr.toNat 1 else x.pinOver p.dstSpan.1.toNat 1) ∧
    (Ready s h [vR f.d] → s.app.tokRoom f.tv f.tok = true →
      (br = none → (p.dts = true ∨ s.app.cmt = true) → exec (.cpy h f) s = .next (sent none s)) ∧
      (∀ c i, br = some (.slot c i) → (p.dts = true ∨ s.app.cmt = true) →
        exec (.cpy h f) s = .next (sent none (bound s (.slot c i)))) ∧
      (∀ va e, br = some (.mem va) → s.app.cmt = true → s.lookup s.home s.me va true = some e →
        exec (.cpy h f) s = .next (sent (some (e.pa + (va - e.va), e.sc))
          (bound (s.touched (bayOf s.cur) 0 true [(va, e)]) (.memory (e.pa + (va - e.va)))))) ∧
      ((p.dts = false ∨ ∃ va, br = some (.mem va)) → s.app.cmt = false →
        exec (.cpy h f) s = .next (s.putApp { s.app with force := true }))) ∧
    (Ready s h [sR f.d] → f.ix.toNat < 8 →
      let k := tget (⟨0, 0⟩ : CopyStat) s.app.cstat f.ix.toNat
      ∃ c', tget ⟨0, 0⟩ c' f.ix.toNat = (⟨0, 0⟩ : CopyStat) ∧
        (∀ n, n ≠ f.ix.toNat → tget ⟨0, 0⟩ c' n = tget ⟨0, 0⟩ s.app.cstat n) ∧
        Retires (.cpq h f) s { (s.app.setS f.d.toNat (BitVec.ofNat 64 (k.code.toNat + 256 * (k.bytes % 2 ^ 32)))) with cstat := c' })

/-- Each field of the packet is read at its place; run r = i + n1·(j + n2·k) reads from sadr + i·ss1 + j·ss2 + k·ss3 and
writes to dadr + i·ds1 + j·ds2 + k·ds3; a packet with a reserved bit or value, a zero count, a run beyond 16,777,216, an `hadr` without `cv`, a
`badr` without `brv`, `cv` with `tr`, or a transpose of more than one dimension is refused with status 1. -/
def Obligations.CopyPacket : Prop :=
  (∀ (b : BitVec 1024),
    let p := copyPkt b.toNat
    p.sadr = b.extractLsb' 0 64 ∧ p.dadr = b.extractLsb' 64 64 ∧ p.hadr = b.extractLsb' 128 64 ∧
    p.run = (b.extractLsb' 192 32).toNat ∧ p.n1 = (b.extractLsb' 224 32).toNat ∧
    p.n2 = (b.extractLsb' 256 32).toNat ∧ p.n3 = (b.extractLsb' 288 32).toNat ∧
    p.ss1 = (b.extractLsb' 320 64).toInt ∧ p.ss2 = (b.extractLsb' 384 64).toInt ∧ p.ss3 = (b.extractLsb' 448 64).toInt ∧
    p.ds1 = (b.extractLsb' 512 64).toInt ∧ p.ds2 = (b.extractLsb' 576 64).toInt ∧ p.ds3 = (b.extractLsb' 640 64).toInt ∧
    p.badr = b.extractLsb' 704 64 ∧ p.ctl = b.extractLsb' 768 32 ∧ (p.rsvd = true ↔ b.extractLsb' 800 224 = 0)) ∧
  (∀ (p : CopyPkt) (i j k : Nat), i < p.n1 → j < p.n2 → k < p.n3 →
    p.srcAt (i + p.n1 * (j + p.n2 * k)) = (p.sadr.toNat : Int) + i * p.ss1 + j * p.ss2 + k * p.ss3 ∧
    p.dstAt (i + p.n1 * (j + p.n2 * k)) = (p.dadr.toNat : Int) + i * p.ds1 + j * p.ds2 + k * p.ds3) ∧
  (∀ (s : State) (p : CopyPkt) (ok : Bool),
    let cv := (p.ctl.extractLsb' 3 3).toNat
    let tr : Prop := p.ctl.getLsbD 6 = true
    p.rsvd = false ∨ p.ctl.extractLsb' 8 24 ≠ 0 ∨ 5 ≤ cv ∨ p.run = 0 ∨ p.n1 = 0 ∨ p.n2 = 0 ∨ p.n3 = 0 ∨ 16777216 < p.run ∨
      (cv = 0 ∧ p.hadr ≠ 0) ∨ (p.ctl.getLsbD 7 = false ∧ p.badr ≠ 0) ∨ (cv ≠ 0 ∧ tr) ∨ (tr ∧ (p.n2 ≠ 1 ∨ p.n3 ≠ 1)) →
    s.copyStatus p ok = 1)

/-- `mma` with a bank of its column type and an accumulator of its kind performs one K step in each element of row
`nrow`, keeps every other row (all zeroed when `zc` changes the kind), ORs in the matrix flags and completes; a bank of
another type or an accumulator of another kind takes the operand trap. `mzero` clears, `mscl` scales an FP32 accumulator by
rows, `mrd` reads a row converted, `mst` stores the rows converted and moves the cursor by them; a conversion the accumulator does
not allow takes ACCTYPE, and a flag of `mrd` or `mst` that is enabled the arithmetic trap. -/
def Obligations.MatrixOnRegisters : Prop :=
  ∀ (s : State) (h : Hdr) (f : FmtX),
    let m := s.app.getM f.acc.toNat
    let b := s.app.getB f.bk.toNat
    let v := s.app.getV f.src.toNat
    let tya := f.tya.toNat
    let tyb := f.tyb.toNat
    let row := f.nrow.toNat
    let zc := f.zc == 1
    let old (i j : Nat) : BitVec 32 := if zc = true ∧ m.fp ≠ pairFp tya then 0 else m.get i j
    let stepF (j : Nat) : Nat × BitVec 3 := kStepF
      (((rowVals tya v).zip (rowVals tyb (b.column j))).map (fun p => evMul p.1 p.2))
      ((rowVals tya v).any EV.psn || (rowVals tyb (b.column j)).any EV.psn ||
        (if zc then EV.fin ⟨false, 0, 1⟩ else fdec 8 (m.get row j).toNat).psn)
      (if zc then .fin ⟨false, 0, 1⟩ else fdec 8 (m.get row j).toNat)
    let stepI (j : Nat) : Nat × BitVec 3 := kStepI
      ((upto 0 128).map (fun k => extTy tya (laneAt 8 v k) * extTy tyb (laneAt 8 (b.column j) k)))
      (if zc then 0 else (m.get row j).toInt)
    let step (j : Nat) : Nat × BitVec 3 := if pairFp tya then stepF j else stepI j
    let fl : BitVec 3 := (upto 0 16).foldl (fun x j => x ||| (step j).2) 0
    (Ready s h [.m f.acc.toNat, .b f.bk.toNat, vR f.src] →
      (b.ty = f.tyb → (zc = true ∨ m.fp = pairFp tya) →
        (fl.getLsbD 0 = false ∨ s.app.trapen.getLsbD 6 = false →
          ∃ m' : Acc, m'.fp = pairFp tya ∧ (∀ j, j < 16 → m'.get row j = BitVec.ofNat 32 (step j).1) ∧
            (∀ i j, i ≠ row → j < 16 → m'.get i j = old i j) ∧
            Retires (.mma h f) s ({ s.app with mflags := s.app.mflags ||| fl }.setM f.acc.toNat m')) ∧
        (fl.getLsbD 0 = true → s.app.trapen.getLsbD 6 = true → Traps (.mma h f) s 2 6 64)) ∧
      (b.ty ≠ f.tyb → Traps (.mma h f) s 10 2 0) ∧
      (b.ty = f.tyb → zc = false → m.fp ≠ pairFp tya → Traps (.mma h f) s 10 3 0)) ∧
    (Ready s h [.m f.acc.toNat] →
      Retires (.mzero h f) s (s.app.setM f.acc.toNat ⟨f.tya == 8, []⟩) ∧
      (let x := s.app.getA f.src.toNat
       let els : List ElWrite := (upto 0 (row + 1)).flatMap (fun q => (upto 0 16).map (fun j =>
         ⟨(x.rc.addr (x.rowTuple j q)).1.toNat, tyWidth tya, 0, ((accConv m.fp tya true (m.get q j)).getD ⟨0, 0⟩).bits⟩))
       let raised : BitVec 6 := (upto 0 (row + 1)).foldl (fun y q => (upto 0 16).foldl (fun y j =>
         y ||| ((accConv m.fp tya true (m.get q j)).getD ⟨0, 0⟩).fl) y) 0
       StreamFits x true tya (x.cursor 0) → s.recWrite x.rc = .ok →
       ((accConv m.fp tya true 0).isSome = false → Traps (.mst h f) s 10 3 0) ∧
       ((accConv m.fp tya true 0).isSome = true → (∀ q j : Nat, q ≤ row → j < 16 → x.rc.inRange (x.rowTuple j q) = true ∧
         (x.rc.addr (x.rowTuple j q)).1 % (elBytes (tyWidth tya) : Int) = 0) →
       s.tileHeld f.src.toNat false = false →
       TrapsFlags (.mst h f) s raised ∧
       (raised &&& s.app.trapen.setWidth 6 = 0 →
       exec (.mst h f) s = .next ((s.putApp ({ s.app with fflags := s.app.fflags ||| raised }.setA f.src.toNat
         (x.advance 1 (row + 1)))).modCell s.cur (fun c => c.storeEls els)).advance)))) ∧
    (Ready s h [.m f.acc.toNat, vR f.src] →
      (m.fp = false → Traps (.mscl h f) s 10 3 0) ∧
      (m.fp = true →
        let el (i j : Nat) : Nat × BitVec 3 := msclEl (m.get i j).toNat (laneAt 32 v i)
        let g : BitVec 3 := (upto 0 16).foldl (fun y i => (upto 0 16).foldl (fun y j => y ||| (el i j).2) y) 0
        ∃ m' : Acc, m'.fp = true ∧ (∀ i j, i < 16 → j < 16 → m'.get i j = BitVec.ofNat 32 (el i j).1) ∧
          Retires (.mscl h f) s ({ s.app with mflags := s.app.mflags ||| g }.setM f.acc.toNat m')) ∧
      ((accConv m.fp tya false 0).isSome = true →
        let el (j : Nat) : FR := (accConv m.fp tya false (m.get row j)).getD ⟨0, 0⟩
        let raised : BitVec 6 := (upto 0 16).foldl (fun y j => y ||| (el j).fl) 0
        TrapsFlags (.mrd h f) s raised ∧
        (raised &&& s.app.trapen.setWidth 6 = 0 →
        ∃ new : VecVal, new.side = 0 ∧ (∀ j, j < 1024 / tyWidth tya → laneAt (tyWidth tya) new j =
            if j < 16 then (el j).bits % 2 ^ tyWidth tya else 0) ∧
          Retires (.mrd h f) s ({ s.app with fflags := s.app.fflags ||| raised }.setV f.src.toNat new))) ∧
      ((accConv m.fp tya false 0).isSome = false → Traps (.mrd h f) s 10 3 0))

/-- A bank load and an `mmt` whose stream passes its checks: from the tile store they are performed at once, the bank or
accumulator written when the token completes; from memory they stand in the matrix queue with the rows to fetch; either way the
cursor moves by the rows. A load of a bank that an earlier `mmt` still reads waits. A `bldm`, whose cell has no send in flight where it sends itself, joins its group under the next number when it agrees with
those that have joined its send (type, rows, one sender), and raises MISMATCH in every running cell, with no other effect, when it does not. -/
def Obligations.MatrixStreams : Prop :=
  (∀ (s : State) (h : Hdr) (f : FmtX), s.app.tokRoom f.tv f.tok = true →
    let x := s.app.getA f.src.toNat
    let ty := f.tya.toNat
    let n := f.nrow.toNat + 1
    let tok := tokOf f.tv f.tok
    let moved := s.putApp (s.app.setA f.src.toNat (x.advance 1 n))
    let m := s.app.getM f.acc.toNat
    let b := s.app.getB f.bk.toNat
    (s.app.guardBit h = true → s.bankRead f.bk.toNat = true → exec (.bld h f) s = .next s ∧
      (f.zc = 1 → exec (.bldm h f) s = .next s)) ∧
    (rowsCheck s x .either ty n = none → rowsRange x ty n = none →
    (Ready s h [.b f.bk.toNat] → s.bankRead f.bk.toNat = false →
      (x.rc.ts = true → s.tileHeld f.src.toNat true = false → ∃ ff, exec (.bld h f) s = .next (moved.pushDone tok [.b f.bk.toNat]
        [.b f.bk.toNat (Bank.ofRows f.tya (s.tileRows x ty n).1)] ff 0).advance) ∧
      (x.rc.ts = false → exec (.bld h f) s = .next (moved.push .matrix 0 tok [.b f.bk.toNat]
        (.bld f.bk.toNat f.tya n (rowPlans x ty n).1)).advance)) ∧
    (Ready s h [.m f.acc.toNat, .b f.bk.toNat] → b.ty = f.tyb → (f.zc = 1 ∨ m.fp = pairFp ty) →
      (x.rc.ts = true → s.tileHeld f.src.toNat true = false → ∃ ff, exec (.mmt h f) s = .next (moved.pushDone tok [.m f.acc.toNat]
        [.m f.acc.toNat (kRows m (f.zc == 1) ty f.tyb.toNat b (s.tileRows x ty n).1).1] ff
        (kRows m (f.zc == 1) ty f.tyb.toNat b (s.tileRows x ty n).1).2).advance) ∧
      (x.rc.ts = false → exec (.mmt h f) s = .next (moved.push .matrix 0 tok [.m f.acc.toNat]
        (.mmt f.acc.toNat f.bk.toNat b f.tya f.tyb (f.zc == 1) (rowPlans x ty n).1)).advance)))) ∧
  (∀ (ty : BitVec 4) (rows : List VecVal) (q : Nat), rows.length ≤ 16 → q < 16 →
    (Bank.ofRows ty rows).ty = ty ∧ (Bank.ofRows ty rows).column q = rows.getD q ⟨0, 0⟩) ∧
  (∀ (s : State) (h : Hdr) (f : FmtX), s.app.tokRoom f.tv f.tok = true →
    let role := if f.zc = 1 then 2 else if f.bk = 1 then 1 else 0
    let x := s.app.getA f.src.toNat
    let ty := f.tya.toNat
    let n := f.nrow.toNat + 1
    let k := tget 0 s.app.nmc f.acc.toNat
    Ready s h (if role = 2 then [.b f.bk.toNat] else []) → (role = 2 → s.bankRead f.bk.toNat = false) →
    (role = 0 → ∀ j ∈ s.area.joins, j.cell = s.cur → j.role = 0 → j.nrow < j.sent) →
    (role = 0 → rowsCheck s x .either ty n = none ∧ rowsRange x ty n = none ∧
      (x.rc.ts = true → s.tileHeld f.src.toNat true = false)) →
    (role = 1 → rowsCheck s x .tile ty n = none ∧ s.recWrite x.rc = .ok ∧ rtCheck x ty n = none) →
    let agrees (j : McJoin) : Prop := j.grp = f.acc.toNat → j.k = k →
      j.ty = f.tya ∧ j.nrow = f.nrow.toNat ∧ ¬(j.role = 0 ∧ role = 0)
    ((∀ j ∈ s.area.joins, agrees j) → ∃ t j, exec (.bldm h f) s = .next t ∧ (t.areaAt s.here).joins = s.area.joins ++ [j] ∧ j.cell = s.cur ∧
      j.grp = f.acc.toNat ∧ j.k = k ∧ j.role = role ∧ j.ty = f.tya ∧ j.nrow = f.nrow.toNat ∧ j.op = s.nextOp + 1 ∧
      (t.appOf s.here s.cur).pc = s.app.pc + 1 ∧ tget 0 (t.appOf s.here s.cur).nmc f.acc.toNat = k + 1) ∧
    ((∃ j ∈ s.area.joins, ¬agrees j) → exec (.bldm h f) s = .next (s.raiseAll s.here 7 5)))


/-- A fence and a stream barrier issue at once as a marker in the cell's operations, before commit one that acts on all but the effects held
as it issues, kept in the ballast buffer too as one that acts on those of its own application: a marker holds none of the others and waits for none of
them, and it waits for every earlier write of a path it names that it acts on and that stands short of its scope, whichever application of the cell
wrote it. An `atom` on an own tile of the cell is performed at once: the bytes become the new value its code gives and the
old value is the result under the token; one on a virtual address leaves as an operation on the translated address, held
before commit when it has no result. `flset` is an effect of 16 bytes; a committed `flwait` enters the watch table. That a held fence or stream
barrier takes 0 bytes of the ballast buffer is assumption 24. -/
def Obligations.Synchronisation : Prop :=
  (∀ (s : State) (h : Hdr) (f : FmtF), Ready s h [] →
    let issued (i : Instr) (k : Option (Bool × List Nat) → OpKind) : Prop :=
      let mark (on : Option (Bool × List Nat)) : State := s.push .portal 0 none [] (k on)
      let now := mark (some (false, s.heldIds s.cur))
      let kept : Held := ⟨⟨s.nextOp + 2, s.here, s.desc, s.area.priv, .portal, 0, none, none, false, false, s.app.pc,
        (s.wordAt s.app.pc).getD 0, true, [], k (some (true, s.app.ballast.map (fun e => e.op.id)))⟩, 0⟩
      (s.app.cmt = true → exec i s = .next (mark none).advance) ∧
      (s.app.cmt = false → exec i s =
        .next ({ now.putApp { now.app with ballast := s.app.ballast ++ [kept] } with nextOp := s.nextOp + 2 }).advance)
    issued (.fence h f) (.fence f.pb f.pa f.scp.toNat f.kind.toNat none) ∧
    issued (.sbar h f) (.fence 1 1 f.scp.toNat f.kind.toNat (some f.str))) ∧
  (∀ (s : State) (c : Nat) (l : List PendOp) (g : PendOp) (b ro : Bool) (ids : List Nat) (own : Option Nat)
    (names : BitVec 7 → Option (BitVec 8) → Bool) (pb pa : BitVec 7) (scp kind : Nat) (str : Option (BitVec 8)),
    g.kind = .fence pb pa scp kind str (some (b, ids)) →
      (¬(own = some g.area ↔ b = true) → s.fenced c ro own names [g] = false) ∧
      s.fencePassed c l g = s.fencePassed c (l.filter (fun x => ids.contains x.id == b)) g ∧
      (∀ w ∈ s.bufs, kind < 2 → str = none → w.cell = c → pb.getLsbD (pathBit w.path) = true → w.op < g.id → ids.contains w.op = b →
        w.level < scp → s.fencePassed c l g = false)) ∧
  (∀ (s : State) (h : Hdr) (f : FmtA), s.app.tokRoom f.tv f.tok = true →
    let aop := f.aop.toNat
    let n := atomBytes aop f.ty.toNat
    let w := s.app.getS f.a.toNat
    let B := atomOperand s.app aop f.b.toNat
    let C := atomOperand s.app aop f.c.toNat
    let pair (x : BitVec 6) : List Reg := if aop = 12 then [.s x.toNat, .s (x.toNat + 1)] else [.s x.toNat]
    let tok := tokOf f.tv f.tok
    Ready s h (pair f.d ++ pair f.b ++ (if aop = 9 ∨ aop = 12 then pair f.c else []) ++ [sR f.a]) →
    (∀ r, w.getLsbD 63 = true → w.extractLsb' 19 44 = 0 →
      let off := (w.extractLsb' 0 19).toNat
      let old := leNat ((s.cellAt s.cur).tread off n)
      off % n = 0 → (s.cellAt s.cur).runOver off n = some r → s.mayRead r = true → (aop = 11 ∨ s.mayWrite r = .ok) →
      atomAccepts none aop f.scp.toNat = none → s.tileHeld 8 false = false →
      let wr (t : State) : State := match (atomNew aop f.ty.toNat old B C).1 with
        | some v => t.modCell t.cur (fun c => c.twrite off (leBytes n v))
        | none => t
      exec (.atom h f) s = .next (if f.tv = 1
        then ((wr s).pushDone tok (atomDst f.d.toNat aop) (atomWrites f.d.toNat aop f.ty.toNat old) 0 0).advance
        else (wr s).advance)) ∧
    (∀ e sp, w.getLsbD 63 = false → vaOk s.area.priv w.toNat = true → w.toNat % n = 0 →
      s.lookup s.home s.me w.toNat (aop != 11) = some e → spaceOf (e.pa + (w.toNat - e.va)) = some sp →
      atomAccepts (some sp) aop f.scp.toNat = none →
      let k : OpKind := .atom f.d.toNat (e.pa + (w.toNat - e.va)) aop f.ty.toNat f.scp.toNat e.sc B C
      (f.d = 0 → aop ≠ 11 → SendsEffect (.atom h f) s .stream 8 tok (n + 8) 0 k id) ∧
      (f.d ≠ 0 ∨ aop = 11 →
        (s.app.cmt = true → exec (.atom h f) s = .next (s.push .stream 8 tok (atomDst f.d.toNat aop) k).advance) ∧
        (s.app.cmt = false → exec (.atom h f) s = .next (s.putApp { s.app with force := true }))))) ∧
  (∀ (s : State) (h : Hdr) (f : FmtA), s.app.tokRoom f.tv f.tok = true →
    let w := s.app.getS f.a.toNat
    let idx := (w.extractLsb' 0 16).toNat
    let exp : BitVec 32 := if f.b = 0 then w.extractLsb' 16 32 else (s.app.getS f.b.toNat).setWidth 32
    (Ready s h [sR f.d, sR f.a, sR f.b] → s.app.cmt = true → s.watchRoom idx exp = true →
      ∃ t, exec (.flwait h f) s = .next t ∧ (∃ e ∈ t.watch, e.idx = idx ∧ e.exp = exp ∧ WatchWho.cell s.cur (s.nextOp + 1) ∈ e.who ∧
          e.hit = (if flagReached (s.flag idx) exp then some (s.flag idx) else none)) ∧
        (t.cellAt s.cur).pend = (s.cellAt s.cur).pend ++ [⟨s.nextOp + 1, s.here, s.desc, s.area.priv, .stream, 8,
          tokOf f.tv f.tok, none, false, false, s.app.pc, (s.wordAt s.app.pc).getD 0, false, [], .flwait f.d.toNat idx exp f.scp.toNat false none⟩] ∧ t.app.pc = s.app.pc + 1) ∧
    (Ready s h [sR f.a, sR f.b] → SendsEffect (.flset h f) s .stream 8 (tokOf f.tv f.tok) 16 0
      (.flset idx (f.aop == 1) (s.app.getS f.b.toNat) f.scp.toNat) id))

/-- With a good handle and room under its token, a bridle instruction leaves for its home: at once for a slot, once
committed for memory (an update without result is held before). `brinit` also names its slot for the application. A count of 0
or beyond its limit takes COUNT. An evaluation without initialisation subtracts arrivals and drops, adds expected and
issued bytes and takes off landed ones, once in a cycle; the phase flips and `apend` reloads just when no fault stands and both counts are
0. -/
def Obligations.Bridles : Prop :=
  (∀ (s : State) (h : Hdr) (f : FmtA) (hd : Handle), s.app.tokRoom f.tv f.tok = true →
    let n := (s.app.getS f.b.toNat).toNat
    let tok := tokOf f.tv f.tok
    let w := s.app.getS f.a.toNat
    let scp := f.scp.toNat
    let dst (d : Nat) : List Reg := if d = 0 then [] else [.s d]
    let sends (i : Instr) (d : Nat) (u : BrUpd) : Prop :=
      (∀ c j, hd = .slot c j → exec i s = .next (s.push .tree 0 tok (dst d) (.brUpd d (.slot c j) 0 u scp)).advance) ∧
      (∀ va, hd = .mem va → s.app.cmt = true →
        exec i s = .next (s.push .stream 8 tok (dst d) (.brUpd d (.memory 0) va u scp)).advance) ∧
      (∀ va, hd = .mem va → s.app.cmt = false → d = 0 →
        SendsEffect i s .stream 8 tok 24 0 (.brUpd d (.memory 0) va u scp) id)
    let asks (i : Instr) (k : OpKind) : Prop :=
      (∀ c j, hd = .slot c j → exec i s = .next (s.push .tree 0 tok [sR f.d] k).advance) ∧
      (∀ va, hd = .mem va → s.app.cmt = true → exec i s = .next (s.push .stream 8 tok [sR f.d] k).advance) ∧
      (∀ va, hd = .mem va → s.app.cmt = false → exec i s = .next (s.putApp { s.app with force := true }))
    (Ready s h [sR f.a, sR f.b] → s.handle w scp true = .ok hd →
      (n = 0 ∨ 32767 < n → Traps (.brinit h f) s 11 3 0) ∧
      (∀ c j, hd = .slot c j → 0 < n → n ≤ 32767 → ∃ t, exec (.brinit h f) s = .next t ∧
        (t.cellAt s.cur).pend.length = (s.cellAt s.cur).pend.length + 1 ∧ t.app.pc = s.app.pc + 1 ∧
        (tget Bridle.blank (t.cellAt c).bridles j).area = some s.here) ∧
      (∀ va, hd = .mem va → 0 < n → n ≤ 32767 → s.app.cmt = true →
        exec (.brinit h f) s = .next (s.push .stream 8 tok [] (.brUpd 0 (.memory 0) va (.init n) scp)).advance)) ∧
    (s.handle w scp false = .ok hd →
      (Ready s h [sR f.d, sR f.a] → sends (.brarr h f) f.d.toNat .arr ∧ sends (.brdrop h f) f.d.toNat .drop ∧
        asks (.brtest h f) (.brTest f.d.toNat hd.home hd.va scp)) ∧
      (Ready s h [sR f.a, sR f.b] → (0 < n → n < 2 ^ 40 → sends (.brexp h f) 0 (.exp n)) ∧
        (n = 0 ∨ 2 ^ 40 ≤ n → Traps (.brexp h f) s 11 3 0)) ∧
      (Ready s h [sR f.d, sR f.a, sR f.b] →
        asks (.brwait h f) (.brWait f.d.toNat hd.home hd.va ((s.app.getS f.b.toNat).getLsbD 0) scp false)))) ∧
  (∀ (b : Bridle) (us : List BrUpd) (pick : Nat), (∀ n, BrUpd.init n ∉ us) → us ≠ [] →
    let ev := evalBridle b us pick
    let arr : Nat := (us.filter (fun u => u == .arr || u == .drop)).length
    let drp : Nat := (us.filter (fun u => u == .drop)).length
    let bytes (u : BrUpd) : Int := match u with | .exp n => n | .issue n => n | .land n => -(n : Int) | _ => 0
    let bp : Int := us.foldl (fun x u => x + bytes u) b.bpend
    let bad : Prop := b.apend < arr ∨ b.areset < drp ∨ bp < 0 ∨ 2 ^ 40 ≤ bp ∨ BrUpd.fail ∈ us
    (ev.flt = true ↔ bad) ∧ (ev.rc.fault = true ↔ b.fault = true ∨ bad) ∧
    ev.rc.areset = min (b.areset - drp) 32767 ∧ ev.rc.bpend = min bp.toNat (2 ^ 40 - 1) ∧
    (ev.ok = true ↔ ev.rc.fault = false ∧ min (b.apend - arr) 32767 = 0 ∧ bp = 0) ∧
    ev.rc.phase = (if ev.ok then !b.phase else b.phase) ∧
    ev.rc.apend = (if ev.ok then ev.rc.areset else min (b.apend - arr) 32767)) ∧
  (∀ (s : State) (hm : BridleHome), ((s.bridleAt hm).upd = [] ∨ (s.bridleAt hm).once = true → exec (.bridleEvaluation hm) s = .next s) ∧
    (∀ c i, hm = .slot c i → (s.bridleAt hm).upd ≠ [] → (s.bridleAt hm).once = false → ∃ t p, exec (.bridleEvaluation hm) s = .next t ∧
      let ev := evalBridle (s.bridleAt hm) ((s.bridleAt hm).upd.map Prod.fst) p
      let b := t.bridleAt hm
      b.upd = [] ∧ b.once = true ∧ b.phase = ev.rc.phase ∧ b.fault = ev.rc.fault ∧ b.apend = ev.rc.apend ∧
      b.areset = ev.rc.areset ∧ b.bpend = ev.rc.bpend ∧
      ((ev.rst || ev.flt || ev.ok) = true → b.wait = [])))


/-- With room under its token and, for all but `gcol` and `gqry`, the application committed: `gld` of an aligned image into
a free handle stands in its plane's queue with the handle loading; on a handle that is loaded or still loading it answers HANDLE at
once, and with a misaligned address FORMAT, a free handle then counting as loading until that completes; `grel`, `gfrz`
and `gthaw` stand in the handle's queue; `gbind` of a fitting stream binds it; `gstr` and `gcol` join the graph's line; `gctx`
sets the quantum of the graph's plane; `gqry` writes the handle's summary or the record's size. An unloaded handle takes
NOGRAPH. -/
def Obligations.FabricInstructions : Prop :=
  ∀ (s : State) (h : Hdr) (f : FmtG), s.app.tokRoom f.tv f.tok = true →
    let d := s.desc
    let hn := f.sl.toNat
    let g := s.graphAt d hn
    let va := s.app.getS f.sa.toNat
    let tok := tokOf f.tv f.tok
    let n := f.cnt.toNat + 1
    let freeze (i : Instr) (k : OpKind) (n : Nat) : Prop := s.app.cmt = true → vaOk s.area.priv va.toNat = true →
      vaOk s.area.priv (va.toNat + n - 1) = true →
      exec i s = .next (s.push .fabric (1024 + hn) tok [sR f.va] k).advance
    (Ready s h [sR f.sa, sR f.va] →
      (s.app.cmt = true → vaOk s.area.priv va.toNat = true →
        (va.toNat % 64 = 0 → g.loaded = false → g.loading = none → exec (.gld h f) s =
          .next ((s.putGraph d hn { g with loading := some (s.nextOp + 1) }).push .fabric (4 * dieOf s.cur + f.pl.toNat) tok [sR f.va]
            (.gld hn f.pl.toNat va f.va.toNat [])).advance) ∧
        (va.toNat % 64 = 0 → (g.loaded = true ∨ g.loading ≠ none) → exec (.gld h f) s =
          .next (s.pushDone tok [sR f.va] [.s f.va.toNat (gldStatus gstHANDLE 0 0 0 0)] 0 0).advance) ∧
        (va.toNat % 64 ≠ 0 → exec (.gld h f) s =
          .next ((if g.loaded = true ∨ g.loading ≠ none then s else s.putGraph d hn { g with loading := some (s.nextOp + 1) }).pushDone
            tok [sR f.va] [.s f.va.toNat (gldStatus gstFORMAT 0 0 0 0)] 0 0).advance)) ∧
      (vaOk s.area.priv va.toNat = false → Traps (.gld h f) s 8 3 va) ∧
      freeze (.gfrz h f) (.gfrz hn va f.va.toNat) g.recordSize ∧ freeze (.gthaw h f) (.gthaw hn va f.va.toNat) 64) ∧
    (Ready s h [] →
      (s.app.cmt = true → exec (.grel h f) s = .next (s.push .fabric (1024 + hn) tok [] (.grel hn)).advance) ∧
      (g.loaded = false → Traps (.gbind h f) s 12 1 0 ∧ Traps (.gctx h f) s 12 1 0) ∧
      (g.loaded = true → s.app.cmt = true →
        let x : StreamReg := { s.app.getA f.sa.toNat with ent := none }
        (f.fn = 0 → bindCheck g (s.app.getA f.sa.toNat) false = none →
          exec (.gbind h f) s = .next (s.putGraph d hn { g with bin := x }).advance) ∧
        (f.fn = 1 → bindCheck g (s.app.getA f.sa.toNat) true = none →
          exec (.gbind h f) s = .next (s.putGraph d hn { g with bout := x }).advance) ∧
        (∃ t, exec (.gctx h f) s = .next t ∧ t.quantum g.die g.plane = n ∧ t.app.pc = s.app.pc + 1 ∧
          (∀ e p, p < 4 → g.plane < 4 → (e ≠ g.die ∨ p ≠ g.plane) → t.quantum e p = s.quantum e p)))) ∧
    (Ready s h [sR f.va] →
      (g.loaded = false → Traps (.gstr h f) s 12 1 0) ∧
      (g.loaded = true → (g.bin.valid = false ∨ g.bout.valid = false) → Traps (.gstr h f) s 12 2 0) ∧
      (g.loaded = true → s.app.cmt = true → g.bin.valid = true → g.bout.valid = true →
        bindRange s.area.priv g.bin g.nin (s.strAhead d hn).1 n = none →
        bindRange s.area.priv g.bout g.nout (s.strAhead d hn).2 n = none → exec (.gstr h f) s =
          .next ((s.push .fabric (4 * g.die + g.plane) tok [sR f.va] (.gstr hn f.va.toNat n 0 ⟨[], []⟩ 0)).gjoin d hn n).advance) ∧
      (f.fn = 0 → g.loaded = false → WritesS (.gqry h f) s f.va 0) ∧
      (f.fn = 0 → g.loaded = true → g.sail0 < 256 → g.nsail < 128 → g.plane < 4 → g.lat < 256 → g.hist < 256 → ∃ w,
        WritesS (.gqry h f) s f.va w ∧ w.toNat % 2 = 1 ∧ w.toNat / 2 % 2 = (if g.frozen then 1 else 0) ∧
        w.toNat / 4 % 4 = g.plane ∧ w.toNat / 16 % 256 = g.sail0 ∧ w.toNat / 2 ^ 12 % 128 = g.nsail ∧
        w.toNat / 2 ^ 19 % 256 = g.lat ∧ w.toNat / 2 ^ 27 % 256 = g.hist ∧
        (1 ≤ s.quantum g.die g.plane → s.quantum g.die g.plane ≤ 256 → w.toNat / 2 ^ 35 % 256 + 1 = s.quantum g.die g.plane) ∧
        (g.inq.length < 64 → w.toNat / 2 ^ 43 % 64 = g.inq.length) ∧ w.toNat / 2 ^ 49 = 0) ∧
      (f.fn = 1 → WritesS (.gqry h f) s f.va (if g.loaded then BitVec.ofNat 64 g.recordSize else 0))) ∧
    (Ready s h [vR f.sa, vR f.va] →
      (g.loaded = false → Traps (.gcol h f) s 12 1 0) ∧
      (g.loaded = true → (lanes g.inFmt.toNat < n * g.nin ∨ lanes g.outFmt.toNat < n * g.nout) →
        Traps (.gcol h f) s 12 3 0) ∧
      (g.loaded = true → n * g.nin ≤ lanes g.inFmt.toNat → n * g.nout ≤ lanes g.outFmt.toNat → exec (.gcol h f) s =
        .next ((s.push .fabric (1280 + hn) tok [vR f.va]
          (.gcol hn f.va.toNat n (s.app.getV f.sa.toNat) VecVal.zero 0)).gjoin d hn n).advance))

/-- In an active cycle below its quantum every graph of the plane that can step does, the step counts and the still count
clears; with none that can, the still count grows; at the end of the cycle the plane is left when it has no ready graph. At the
quantum, or after 8 still cycles, the plane is left. Leaving it, the sequencer turns to the first ready plane after its own, stays
when that is itself, and stands idle when none is; an idle one turns at once to the first plane that becomes ready. When a switch
ends the plane it named is active with that plane's quantum. That a plane which stays keeps its quantum, and that an idle sequencer turns to the first
plane to become ready as that happens, is the model's reading of R298 (assumption 77). -/
def Obligations.PlaneSequencer : Prop :=
  ∀ (s : State),
    let die := s.unit
    let q := s.seqrAt die
    let go := (s.planeGraphs die q.plane).filter (fun p => s.canStep p.2)
    let left (u t : State) : Prop :=
      ((∀ r, u.planeReady die r = false) → t = u.putSeqr die { q with idle := true, steps := 0, still := 0 }) ∧
      (∀ k, k ≤ 3 → u.planeReady die ((q.plane + k + 1) % 4) = true →
        (∀ j, j < k → u.planeReady die ((q.plane + j + 1) % 4) = false) → q.plane < 4 →
        t = u.putSeqr die (if k = 3 then { q with steps := 0, still := 0 }
          else { q with switch := some ((q.plane + k + 1) % 4), steps := 0, still := 0 }))
    let leaves (u t : State) : Prop :=
      (u.planeReady die q.plane = true → t = u) ∧ (u.planeReady die q.plane = false → left u t)
    (q.idle = false → q.switch = none →
      (q.steps < q.quant → q.still < 8 →
        (go = [] → ∃ t, exec .graphStep s = .next t ∧ leaves (s.putSeqr die { q with still := q.still + 1 }) t) ∧
        (go ≠ [] → ∃ t u, exec .graphStep s = .next t ∧ leaves u t ∧ u.seqrAt die = { q with steps := q.steps + 1, still := 0 } ∧
          u = go.foldl (fun t p => t.stepGraph (p.1 / 256) (p.1 % 256)) (s.putSeqr die { q with steps := q.steps + 1, still := 0 }))) ∧
      (q.quant ≤ q.steps → ∃ t, exec .quantumExpiry s = .next t ∧ left s t) ∧
      (8 ≤ q.still → ∃ t, exec .planeIdleTimeout s = .next t ∧ left s t)) ∧
    (q.idle = true → ((∀ r, s.planeReady die r = false) → s.wakeSeqr die = s) ∧
      (∀ k, k ≤ 3 → q.plane < 4 → s.planeReady die ((q.plane + k + 1) % 4) = true →
        (∀ j, j < k → s.planeReady die ((q.plane + j + 1) % 4) = false) →
        s.wakeSeqr die = s.putSeqr die { q with idle := false, switch := some ((q.plane + k + 1) % 4) })) ∧
    (∀ r, q.switch = some r → exec .planeSwitchDone s =
      .next (s.putSeqr die ⟨r, false, none, 0, 0, s.quantum die r⟩))

/-- `syrd` writes the symbol it names or takes SLOTRANGE; `opnd` sends its question to the root; `emit` of a word it may
write appends it (an `OPER` in an unprivileged microprogram with `sys` 0), a bad word takes BADSYM before any budget, a good one
beyond the slot budget the budget trap of sub-cause 1, and one beyond the 16 symbols the buffer holds for its area that of sub-cause 3 (a
system operator's microprogram is bound by neither); `emitt` under the same limits appends the handle of a live tile the application may read with fewer than 8
sharers; `tok` of a committed application with a free id detaches its token's operations, pending and finished ones, under that id, which the context
lists with their number (with none outstanding the completion is posted at once), and appends and writes the `TOKEN`
symbol of the lowest free id; over the live or slot budget it traps, before it commits where it has not: that order is the model's reading of R133
(assumption 22). -/
def Obligations.ReadingAndReplacing : Prop :=
  ∀ (s : State) (h : Hdr) (f : FmtS),
    let w := s.app.getS f.a.toNat
    let p := w.toNat + f.sl.toNat
    let full : Prop := s.area.sys = false ∧ (s.area.slotb ≤ s.app.out.length ∨ 16 ≤ s.app.out.length)
    let limits (i : Instr) : Prop := s.area.sys = false →
      (s.area.slotb ≤ s.app.out.length → Traps i s 4 1 0) ∧
      (s.app.out.length < s.area.slotb → 16 ≤ s.app.out.length → Traps i s 4 3 0)
    (Ready s h [sR f.d, sR f.a] →
      (f.fn = 0 → (∀ y, (s.area.syms.filter (fun y => y.cell == s.cur))[p]? = some y → WritesS (.syrd h f) s f.d y.word) ∧
        ((s.area.syms.filter (fun y => y.cell == s.cur)).length ≤ p → Traps (.syrd h f) s 7 1 0)) ∧
      (f.fn = 1 → (∀ y, p < s.area.opLen → s.area.operand[p]? = some y → y.cell = s.cur → WritesS (.syrd h f) s f.d y.word) ∧
        ((∀ y, s.area.operand[p]? = some y → y.cell ≠ s.cur) → Traps (.syrd h f) s 7 1 0)) ∧
      (s.app.tokRoom f.tv f.tok = true → exec (.opnd h f) s = .next (s.push .tree 11 (tokOf f.tv f.tok) [sR f.d]
        (.opnd f.d.toNat (s.area.opndWord w.toNat))).advance)) ∧
    (Ready s h [sR f.a] →
      (emitBad w = true → Traps (.emit h f) s 7 2 0) ∧
      (emitBad w = false → ¬full → Retires (.emit h f) s
        { s.app with out := s.app.out ++ [⟨if symTag w = 5 ∧ s.area.priv = false then w &&& 0xF7FF_FFFF_FFFF_FFFF else w, s.cur⟩] }) ∧
      (emitBad w = false → limits (.emit h f)) ∧
      (s.runNamed w = none → Traps (.emitt h f) s 7 3 0) ∧
      (∀ r, s.runNamed w = some r → s.mayRead r = true →
        (8 ≤ s.sharers s.cur r.off → Traps (.emitt h f) s 7 4 0) ∧
        (s.sharers s.cur r.off < 8 → limits (.emitt h f)) ∧
        (s.sharers s.cur r.off < 8 → ¬full → ∃ t, exec (.emitt h f) s = .next t ∧
          t.app.out = s.app.out ++ [⟨w, s.cur⟩] ∧ t.app.pc = s.app.pc + 1 ∧ (∀ n, t.app.getS n = s.app.getS n) ∧
          t.mem = s.mem ∧ (t.cellAt s.cur).ts = (s.cellAt s.cur).ts))) ∧
    (Ready s h [sR f.d] → (s.ctxAt s.desc).freeTid ≠ none → limits (.tok h f)) ∧
    (Ready s h [sR f.d] → s.app.cmt = true → ¬full → ∀ id, id < 0xFFFC → id ∉ (s.ctxAt s.desc).tids →
      (∀ j, j < id → j ∈ (s.ctxAt s.desc).tids) → ∃ t, exec (.tok h f) s = .next t ∧
        let word : Word := BitVec.ofNat 64 (10 * 2 ^ 60 + id)
        t.app.getS f.d.toNat = (if f.d = 0 then 0 else word) ∧ t.app.out = s.app.out ++ [⟨word, s.cur⟩] ∧
        t.app.getT f.ch.toNat = 0 ∧ id ∈ (t.ctxAt s.desc).tids ∧ t.app.pc = s.app.pc + 1 ∧
        (∀ m ∈ t.app.marks, m.det = none → m.tok ≠ f.ch.toNat) ∧
        let x := s.cellAt s.cur
        let under (ar : Nat) (tk det : Option Nat) : Bool := ar == s.here && tk == some f.ch.toNat && det == none
        let n := (x.pend.filter (fun o => under o.area o.tok o.det)).length + (x.done.filter (fun o => under o.area o.tok o.det)).length
        (t.cellAt s.cur).pend = x.pend.map (fun o => if under o.area o.tok o.det then { o with det := some id } else o) ∧
        (t.cellAt s.cur).done = x.done.map (fun o => if under o.area o.tok o.det then { o with det := some id } else o) ∧
        (0 < n → (t.ctxAt s.desc).detached = (s.ctxAt s.desc).detached ++ [(id, n, false)] ∧ (t.ctxAt s.desc).compl = (s.ctxAt s.desc).compl) ∧
        (n = 0 → (t.ctxAt s.desc).detached = (s.ctxAt s.desc).detached ∧
          (t.ctxAt s.desc).compl = (s.ctxAt s.desc).compl ++ [⟨false, id, 0, tokSym false⟩]))

/-- A collective that agrees with the parts already there, with no cell ended short of it, joins under its cell's next
number and stands on the tree; a disagreement raises MISMATCH in every running cell. `abc` from an index at or above
`x.ALEN`, and `asnd` to one, take RANGE. `asnd` with room puts its message last in the outbound queue; `arcv` waits on its
channel. A delivery takes the first message whose buffer has room into that buffer (this order is the model's, assumption 27). The combined value of two lanes and the
neighbour each cell hears are as R135 and R137 say. -/
def Obligations.CollectivesAndChannels : Prop :=
  (∀ (s : State) (h : Hdr) (f : FmtS), s.app.tokRoom f.tv f.tok = true →
    let k := s.app.ncoll
    let src := (s.app.getS f.b.toNat).toNat
    let vec := f.fn.toNat % 2 = 0
    let dst : Reg := if vec then .v f.d.toNat else .s f.d.toNat
    let arg : Reg := if vec then .v f.a.toNat else .s f.a.toNat
    let val : VecVal := if vec then s.app.getV f.a.toNat else ⟨(s.app.getS f.a.toNat).setWidth 1024, 0⟩
    let part (code src : Nat) (dst : Reg) (v : VecVal) : CollPart := ⟨s.cur, s.nextOp + 1, code, f.rop.toNat, f.ty.toNat,
      f.fn.toNat, src, dst, v, k, tokOf f.tv f.tok, false⟩
    let joins (i : Instr) (p : CollPart) : Prop :=
      ((∀ q ∈ s.area.colls, q.id = k → q.agrees p = true) →
        (∀ c ∈ s.area.cells, (s.area.appAt c).ended = true → k < (s.area.appAt c).ncoll) →
        ∃ t, exec i s = .next t ∧ (t.areaAt s.here).colls = s.area.colls ++ [p] ∧ t.app.ncoll = k + 1 ∧
          t.app.pc = s.app.pc + 1 ∧ (t.cellAt s.cur).pend = (s.cellAt s.cur).pend ++
            [⟨s.nextOp + 1, s.here, s.desc, s.area.priv, .tree, 1, tokOf f.tv f.tok, none, false, false,
              s.app.pc, (s.wordAt s.app.pc).getD 0, false, [], .coll k⟩]) ∧
      ((∃ q ∈ s.area.colls, q.id = k ∧ q.agrees p = false) → exec i s = .next (s.raiseAll s.here 7 5))
    (Ready s h [dst, arg, sR f.b] →
      (s.area.alen ≤ src → Traps (.abc h f) s 7 6 0) ∧ (src < s.area.alen → joins (.abc h f) (part 0xD3 src dst val))) ∧
    (Ready s h [dst, arg] → joins (.ard h f) (part 0xD4 0 dst val) ∧ joins (.ascn h f) (part 0xD5 0 dst val)) ∧
    (Ready s h [vR f.d, vR f.a] → joins (.nbr h f) (part 0xD8 0 (.v f.d.toNat) (s.app.getV f.a.toNat))) ∧
    (Ready s h [vR f.a, sR f.b] →
      (s.area.alen ≤ src → Traps (.asnd h f) s 7 6 0) ∧
      (src < s.area.alen → s.app.outq.length < 8 → ∃ t m, exec (.asnd h f) s = .next t ∧
        t.app.outq = s.app.outq ++ [m] ∧ m.dest = src ∧ m.ch = f.ch.toNat ∧ m.sender = s.area.aidx s.cur ∧
        m.val = s.app.getV f.a.toNat ∧ m.op = (if f.tv = 1 then some (s.nextOp + 1) else none) ∧ t.app.pc = s.app.pc + 1)) ∧
    (Ready s h [vR f.d, sR f.a] → exec (.arcv h f) s = .next (s.push .tree (3 + f.ch.toNat) (tokOf f.tv f.tok)
      [vR f.d, sR f.a] (.arcv f.d.toNat f.a.toNat f.ch.toNat)).advance)) ∧
  (∀ (s : State) (i c : Nat) (m : ChanMsg), (s.areaAt i).live = true →
    (s.areaAt i).deliverable [] ((s.appOf i c).outq.filter (fun m => s.msgFree c m.seq)) = some m →
    let dest := (s.areaAt i).cells.getD m.dest 0
    dest ≠ c → ∃ t, exec (.channelMessageDelivery i c) s = .next t ∧
      (t.appOf i c).outq = (s.appOf i c).outq.erase m ∧ ∃ m', m'.val = m.val ∧ m'.sender = m.sender ∧
        tget [] (t.appOf i dest).recvq m.ch = tget [] (s.appOf i dest).recvq m.ch ++ [m']) ∧
  (∀ ty x y : Nat, ty ∈ [0, 1, 2, 3, 12, 13, 14] → x < 2 ^ tyWidth ty → y < 2 ^ tyWidth ty →
    (combLane 0 ty x y).bits = narrowTy ty false (extTy ty x + extTy ty y) ∧
    extTy ty (combLane 1 ty x y).bits = max (extTy ty x) (extTy ty y) ∧
    extTy ty (combLane 2 ty x y).bits = min (extTy ty x) (extTy ty y) ∧
    (combLane 3 ty x y).bits = x &&& y ∧ (combLane 4 ty x y).bits = x ||| y ∧ (combLane 5 ty x y).bits = x ^^^ y) ∧
  (∀ i n : Nat, i < n →
    nbrFrom 0 i n = (if i = 0 then none else some (i - 1)) ∧ nbrFrom 1 i n = (if i = n - 1 then none else some (i + 1)) ∧
    nbrFrom 2 i n = some ((i + n - 1) % n) ∧ nbrFrom 3 i n = some ((i + 1) % n))

namespace Sys2Proof.Machine

/-- An effect that the ballast buffer cannot take: an uncommitted application asks for its commit, a committed one puts the
operation on its queue and moves on. -/
def QueuesCommitted (i : Instr) (s : State) (path : Path) (que : Nat) (tok : Option Nat) (k : OpKind) : Prop :=
  (s.app.cmt = true → exec i s = .next (s.push path que tok [] k).advance) ∧
  (s.app.cmt = false → exec i s = .next (s.putApp { s.app with force := true }))

end Sys2Proof.Machine

/-- With room under its token, each of these puts its operation on its queue once its application has committed: `rlload`,
`rlgo`, `rlpost` (with its record's 32 bytes, and only with room in the posted queue of a channel its own) and `rlstat` (which
needs no commit) on the queue of their channel, `tlbi` with the range it covers, `ptst`, `asret` and `ctxsv` on those of the
portal. An address that is no virtual address, or for `ptst` no HBM address that is a multiple of 8, takes ADDR; `asret` of a
live descriptor takes LIVE, `ctxsv` of one that is not live NOTLIVE, `resume` without a parked save NOTSAVED, `kill` of
descriptor 0 LIVE. `fltdone` of a free entry or an ill-formed number takes RECORD (the latter is the model's reading, assumption 74); `irq` raises its vector and leaves the entry;
`ok` and `fail` free it. -/
def Obligations.ReelAndPrivileged : Prop :=
  (∀ (s : State) (h : Hdr) (f : FmtE), s.app.tokRoom f.tv f.tok = true →
    let r := f.rl.toNat
    let ch := f.ch.toNat
    let que := 16 * r + ch
    let tok := tokOf f.tv f.tok
    let va := s.app.getS f.a.toNat
    (Ready s h [sR f.a] →
      (vaOk s.area.priv va.toNat = true → QueuesCommitted (.rlload h f) s .reel que tok (.rlload r ch va)) ∧
      (vaOk s.area.priv va.toNat = false → Traps (.rlload h f) s 8 3 va) ∧
      exec (.rlstat h f) s = .next (s.push .reel que tok [sR f.a] (.rlstat f.a.toNat r ch)).advance) ∧
    (Ready s h [] → QueuesCommitted (.rlgo h f) s .reel que tok (.rlgo r ch)) ∧
    (Ready s h [vR f.a] →
      let full : Prop := (s.chanAt r ch).bound = some s.desc ∧ 16 ≤ (s.chanAt r ch).posted.length
      let k : OpKind := .rlpost r ch (leBytes 32 ((s.app.getV f.a.toNat).bits.toNat % 2 ^ 256))
      (¬full → QueuesCommitted (.rlpost h f) s .reel que tok k) ∧
      (s.app.cmt = true → full → exec (.rlpost h f) s = .next s))) ∧
  (∀ (s : State) (h : Hdr) (f : FmtA), s.app.tokRoom f.tv f.tok = true →
    let tok := tokOf f.tv f.tok
    let a := s.app.getS f.a.toNat
    let b := s.app.getS f.b.toNat
    let asid := (s.app.tasid.extractLsb' 0 10).toNat
    let gen := (s.app.tasid.extractLsb' 10 4).toNat
    let d := s.app.ctxsel.toNat
    (Ready s h [sR f.a] → QueuesCommitted (.tlbiPage h f) s .portal 2 tok
      (.tlbi (a &&& 0xFFFFFFFFFFFF0000).toNat ((a &&& 0xFFFFFFFFFFFF0000).toNat + 65536) asid gen)) ∧
    (Ready s h [sR f.a, sR f.b] →
      QueuesCommitted (.tlbiRange h f) s .portal 2 tok (.tlbi a.toNat (a.toNat + b.toNat) asid gen) ∧
      (a.toNat % 8 = 0 → a.toNat < 0xC000000000 → QueuesCommitted (.ptst h f) s .portal 1 tok (.ptst a.toNat b)) ∧
      (a.toNat % 8 ≠ 0 ∨ 0xC000000000 ≤ a.toNat → Traps (.ptst h f) s 8 3 a)) ∧
    (Ready s h [] →
      let live : Prop := (s.descAt d).live = true
      QueuesCommitted (.tlbiAsid h f) s .portal 2 tok (.tlbi 0 (2 ^ 64) asid gen) ∧
      (¬live → QueuesCommitted (.asret h f) s .portal 3 tok (.asret d)) ∧ (live → Traps (.asret h f) s 14 1 0) ∧
      (live → QueuesCommitted (.ctxsvSave h f) s .portal 3 tok (.ctxsv 0 d) ∧
        QueuesCommitted (.ctxsvForce h f) s .portal 3 tok (.ctxsv 1 d)) ∧
      (¬live → Traps (.ctxsvSave h f) s 14 2 0 ∧ Traps (.ctxsvForce h f) s 14 2 0) ∧
      ((s.ctxAt d).pre = .out true → QueuesCommitted (.ctxsvResume h f) s .portal 3 tok (.ctxsv 2 d)) ∧
      ((s.ctxAt d).pre ≠ .out true → Traps (.ctxsvResume h f) s 14 3 0) ∧
      (d ≠ 0 → live → (s.ctxAt d).ending = .no → QueuesCommitted (.ctxsvKill h f) s .portal 3 tok (.ctxsv 3 d)) ∧
      (d = 0 → Traps (.ctxsvKill h f) s 14 1 0) ∧
      (d ≠ 0 → (¬live ∨ (s.ctxAt d).ending ≠ .no) → Traps (.ctxsvKill h f) s 14 2 0))) ∧
  (∀ (s : State) (h : Hdr) (f : FmtA),
    let a := s.app.getS f.a.toNat
    let b := s.app.getS f.b.toNat
    let q := (a.extractLsb' 0 12).toNat
    let bad : Prop := a.extractLsb' 12 52 ≠ 0 ∨ (s.faultAt q).live = false
    (Ready s h [sR f.a] →
      (bad → Traps (.fltdoneOk h f) s 14 4 0 ∧ Traps (.fltdoneFail h f) s 14 4 0) ∧
      (¬bad → s.app.cmt = true →
        (∃ t, exec (.fltdoneOk h f) s = .next t ∧ t.faultAt q = FaultEnt.blank) ∧
        (∃ t, exec (.fltdoneFail h f) s = .next t ∧ t.faultAt q = FaultEnt.blank))) ∧
    (Ready s h [sR f.a, sR f.b] →
      (bad → Traps (.fltdoneIrq h f) s 14 4 0) ∧
      (¬bad → s.app.cmt = true → exec (.fltdoneIrq h f) s =
        .next (s.raiseVec (if b.getLsbD 16 then .B else .A) (b.extractLsb' 0 11).toNat).advance)))

namespace Sys2Proof.Machine

/-- The acting channel runs and no rank that instruction `i` names has aborted (R327). -/
def ChanActs (s : State) (i : Instr) : Prop :=
  s.chan.st = .running ∧ ∀ k ∈ ranksNamed i, s.peerAt s.chan k ∉ s.chan.aborts

/-- A chunk instruction answers a next state in which the acting channel is `c` and every other channel is as it was. -/
def ChanBecomes (i : Instr) (s : State) (c : Chan) (p : State → Prop) : Prop :=
  ∃ t, exec i s = .next t ∧ t.chan = c ∧ p t ∧
    (∀ r ch, 16 * r + ch ≠ 16 * s.curReel + s.curChan → t.chanAt r ch = s.chanAt r ch)

/-- A channel whose instruction has retired, with `pc` at `pc` and, after a posted record, without that record; a pause that
waited for the end of its `send` has fallen (R328). -/
def Chan.retired (c : Chan) (pc : Nat) (post : Bool) : Chan :=
  { c with pc := pc, prg := Prog.blank, posted := if post then c.posted.drop 1 else c.posted,
           st := if c.st = .running ∧ c.pcs = 2 then .paused else c.st }

/-- The messages of the acting channel that state `t` has and `s` has not: each in the module's own wires, on a link, or refused where
the module it is for cannot be reached (R329). -/
def MessagesSent (s t : State) (ms : List ((Nat × Nat × Nat) × MsgKind)) : Prop :=
  let own (q : (Nat × Nat × Nat) × MsgKind) : Bool := q.1.1 == s.ownMod
  let out (q : (Nat × Nat × Nat) × MsgKind) : Bool := !own q && s.modUp q.1.1
  let msg (q : (Nat × Nat × Nat) × MsgKind) : Msg := ⟨s.ownMod, s.curReel, s.curChan, q.1.1, q.1.2.1, q.1.2.2, q.2⟩
  t.outbox = s.outbox ++ (ms.filter out).map msg ∧ t.msgs = s.msgs ++ (ms.filter own).map msg ∧
    t.refused = s.refused ++ (ms.filter (fun q => !own q && !out q)).map msg

end Sys2Proof.Machine

/-- In a running channel none of whose named ranks has aborted: `nop` goes on; `setc` sets its counter, `decb` counts it down and
branches while it is not 0; `mark` keeps its 16 bits; `sig` sends its value to its rank; `cwait` takes its count from `sgc`
once that is large enough and waits else; `seqb` sets both sequence numbers of its rank once no chunk to it is in the window
and waits else; `lflag` writes or adds to its flag once the channel's earlier writes stand at level 3; `end` ends the run once the
window is empty and waits else. Each touches no other channel, and all but `lflag` no memory. In a running channel one of whose
named ranks has aborted, the run stops with PEER, and the recorded abort is spent (assumption 111, the model's choice beside R327). -/
def Obligations.ChunkControl : Prop :=
  ∀ (s : State) (w : ChunkV) (v : ChunkC),
    let c := s.chan
    let k := w.k.toNat
    let still (t : State) : Prop := t.mem = s.mem ∧ t.bufs = s.bufs
    let quiet (t : State) : Prop := still t ∧ t.cells = s.cells ∧ t.msgs = s.msgs ∧ t.outbox = s.outbox ∧ t.refused = s.refused
    let next (x : Chan) : Chan := x.retired (c.pc + 1) false
    (ChanActs s (.reelNop v) → ChanBecomes (.reelNop v) s (next c) quiet) ∧
    (ChanActs s (.setc w) → ChanBecomes (.setc w) s (next { c with c := tset 0 c.c k w.v }) quiet) ∧
    (ChanActs s (.decb w) → ChanBecomes (.decb w) s ({ c with c := tset 0 c.c k (tget 0 c.c k - 1) }.retired
      (if tget 0 c.c k = 1 then c.pc + 1 else ((c.pc : Int) + w.v.toInt).toNat) false) quiet) ∧
    (ChanActs s (.mark w) → ChanBecomes (.mark w) s (next { c with mark := w.v.setWidth 16 }) quiet) ∧
    (ChanActs s (.sig w) → ChanBecomes (.sig w) s (next c) (fun t =>
      still t ∧ t.cells = s.cells ∧ MessagesSent s t [(s.peerAt c k, .signal w.v)])) ∧
    (ChanActs s (.cwait w) → w.v ≤ c.sgc → ChanBecomes (.cwait w) s (next { c with sgc := c.sgc - w.v }) quiet) ∧
    (ChanActs s (.cwait w) → c.sgc < w.v → exec (.cwait w) s = .next s) ∧
    (ChanActs s (.seqb w) → (∀ q ∈ c.window, q.1 ≠ k) →
      ChanBecomes (.seqb w) s (next { c with tx := tset 0 c.tx k w.v, rx := tset 0 c.rx k w.v }) quiet) ∧
    (ChanActs s (.seqb w) → (∃ q ∈ c.window, q.1 = k) → exec (.seqb w) s = .next s) ∧
    (ChanActs s (.lflag w) → (∀ b ∈ s.bufs, b.path = .reel → b.que = 16 * s.curReel + s.curChan → 3 ≤ b.level) →
      ChanBecomes (.lflag w) s (next c) (fun t => t.cells = s.cells ∧
        t.flag w.x.toNat = (if w.md = 1 then s.flag w.x.toNat + w.v.setWidth 64 else w.v.setWidth 64) ∧
        (∀ pa, pa < 0xBFFFF80000 + 8 * w.x.toNat ∨ 0xBFFFF80000 + 8 * w.x.toNat + 8 ≤ pa → t.peekByte pa = s.peekByte pa))) ∧
    (ChanActs s (.reelEnd v) → c.window = [] →
      ChanBecomes (.reelEnd v) s { c with st := .ended, prg := Prog.blank, gos := [] } still) ∧
    (ChanActs s (.reelEnd v) → c.window ≠ [] → exec (.reelEnd v) s = .next s) ∧
    (c.st = .running → s.peerAt c k ∈ c.aborts →
      let spent : Chan := { c with aborts := c.aborts.filter (fun p => !(p == s.peerAt c k)) }
      (∀ i ∈ [Instr.sig w, Instr.seqb w], ChanBecomes i s { spent with st := .stopped, ecode := 5, pcs := 0, prg := Prog.blank, gos := [] } still))

/-- In a running channel none of whose named ranks has aborted, with the chunk record their operand names: `send` waits for the
clear-to-send of its next chunk and for room in the window, uses the clear-to-send for its header, passes on the chunk granule by
granule as the link takes it, and with the tail keeps the chunk in the window and advances `tx`. `recv` and `red` first send their
clear-to-send, then take their message as it comes in, writing it block by block or combining each granule, and once the tail
is there advance `rx`, acknowledge, and retire; a message of another size stops the channel with SIZE. `rrc` does both. `redany`
sends a clear-to-send to each of its ranks, takes what has come of one of them, the next granule or a whole chunk's commit, waits while
nothing has, and goes on once all have committed. An INT32 sum
is the sum of the lanes modulo 2^32. `ccpy` and `xf` gather their whole source before they write, and go on once every granule is
written. A posted record that fails its checks stops the channel with DESC. That a chunk crosses as a header, its granules and its tail,
each a message, and lands block by block is assumption 83; how much a link and the window take, and that a tail passes only once its
receiver has written every granule, is assumption 102. -/
def Obligations.ChunkTransfers : Prop :=
  ∀ (s : State) (w : ChunkC) (k : Chunk),
    let c := s.chan
    let rk := w.rk.toNat
    let rk2 := w.rk2.toNat
    let post := decide (w.ca = 0xFFF)
    let n := k.bytes / 16
    let nget (t : Tbl (BitVec 32)) (r : Nat) : BitVec 32 := tget 0 t r
    let ctsFor (r : Nat) : Nat × Nat × Nat × BitVec 32 := ((s.peerAt c r).1, (s.peerAt c r).2.1, (s.peerAt c r).2.2, nget c.tx r)
    let clear (r : Nat) : Prop := ctsFor r ∈ c.cts ∧ c.window.length < 8
    let heads (r : Nat) : Chan := { c with cts := c.cts.erase (ctsFor r), prg := { c.prg with head := true } }
    let grew (bs : List Byte) : Chan := { c with prg := { c.prg with done := c.prg.done + 1, data := c.prg.data ++ bs } }
    let sent (r : Nat) (x : Chan) : Chan := { x with
      window := c.window ++ [(r, nget c.tx r, c.prg.data)], tx := tset 0 c.tx r (nget c.tx r + 1) }
    let got (r : Nat) (x : Chan) : Chan := { x with rx := tset 0 c.rx r (nget c.rx r + 1) }
    let stops (i : Instr) (e : Nat) : Prop :=
      ∃ t, exec i s = .next t ∧ t.chan.st = .stopped ∧ t.chan.ecode = e ∧ t.mem = s.mem ∧ t.bufs = s.bufs
    let noted (t : State) : Prop := t.mem = s.mem ∧ t.bufs = s.bufs
    let lands (i : Instr) (r g : Nat) (fl : BitVec 6) (u : State) (p : State → Prop) : Prop :=
      ∃ t, exec i s = .next t ∧ t.mem = u.mem ∧ t.bufs = u.bufs ∧ t.chan.rfl = c.rfl ||| rflOf fl ∧ t.chan.pc = c.pc ∧
        t.chan.prg.opened = c.prg.opened.map (fun q => if q.rank = r then { q with done := g } else q) ∧ p t
    let block (e : RxMsg) : List (Int × List Byte × BitVec 6) :=
      (upto e.done (c.blockOf k)).map (fun g => (c.dstAddr k g, relay (c.xfOf k) e.data g))
    let takes (i : Instr) (e : RxMsg) (p : List Byte → State → Prop) : Prop :=
      (16 * (e.done + 1) ≤ e.data.length → ∀ loc u, s.chanRead ((k.addr.toNat : Int) + 16 * (e.done : Int)) = .ok loc →
        let r := combGran w.rop.toNat k.ety.toNat loc ((e.data.drop (16 * e.done)).take 16)
        s.chanWrite ((k.addr.toNat : Int) + 16 * (e.done : Int)) r.1 = .ok u → lands i e.rank (e.done + 1) r.2 u (p r.1))
    let combines (i : Instr) (e : RxMsg) (p : List Byte → State → Prop) : Prop :=
      (e.data.length < 16 * (e.done + 1) → exec i s = .next s) ∧ takes i e p
    let relays (i : Instr) (ka kb : Chunk) (x : Option XfRec) (both : Bool) : Prop :=
      let m := ka.bytes / 16
      (c.prg.done < m → ∀ bs, s.chanRead (copySrc ka.addr.toNat x c.prg.done) = .ok bs → ChanBecomes i s (grew bs) noted) ∧
      (∀ g u, c.prg.done = m + g → g < m → copyLaps ka.addr.toNat kb.addr.toNat x m = false →
        s.chanWrite (copyDst kb.addr.toNat x g) (relay x c.prg.data g).1 = .ok u →
        ∃ t, exec i s = .next t ∧ t.mem = u.mem ∧ t.bufs = u.bufs ∧ t.chan.prg.done = c.prg.done + 1 ∧
          t.chan.rfl = c.rfl ||| rflOf (relay x c.prg.data g).2) ∧
      (2 * m ≤ c.prg.done → ChanBecomes i s (c.retired (c.pc + 1) both) noted)
    (∀ red, c.operand w.ca red = .chunk k →
      (red = false → ChanActs s (.send w) →
        (c.prg.head = false →
          (¬clear rk → exec (.send w) s = .next s) ∧
          (clear rk → ChanBecomes (.send w) s (heads rk) (fun t =>
            noted t ∧ MessagesSent s t [(s.peerAt c rk, .chunk (nget c.tx rk) k.bytes)]))) ∧
        (c.prg.head = true → (c.prg.done < n ∧ s.linkRoom rk = false ∨ n ≤ c.prg.done ∧ s.tailRoom rk n = false) →
          exec (.send w) s = .next s) ∧
        (c.prg.head = true → s.linkRoom rk = true → c.prg.done < n → ∀ bs, s.chanRead (c.srcAddr k c.prg.done) = .ok bs →
          ChanBecomes (.send w) s (grew bs) (fun t => noted t ∧ MessagesSent s t [(s.peerAt c rk, .gran bs)])) ∧
        (c.prg.head = true → s.tailRoom rk n = true → n ≤ c.prg.done →
          ChanBecomes (.send w) s ((sent rk c).retired (c.pc + 1) post) (fun t =>
            noted t ∧ MessagesSent s t [(s.peerAt c rk, .tail)]))) ∧
      (∀ i ∈ [Instr.recv w, Instr.red w], (red = true ↔ i = .red w) → ChanActs s i →
        (c.prg.cts = false → ChanBecomes i s { c with prg := { c.prg with cts := true } } (fun t =>
          noted t ∧ MessagesSent s t [(s.peerAt c rk, .cts (nget c.rx rk))])) ∧
        (c.prg.cts = true → c.prg.opened = [] → exec i s = .next s) ∧
        (∀ e rest, c.prg.cts = true → c.prg.opened = e :: rest →
          (e.bytes ≠ k.bytes → stops i 8) ∧
          (e.bytes = k.bytes → e.done < n →
            (i = .recv w →
              (e.data.length < 16 * (e.done + c.blockOf k) → exec i s = .next s) ∧
              (16 * (e.done + c.blockOf k) ≤ e.data.length → ∀ u,
                s.chanWrites ((block e).map (fun q => (q.1, q.2.1))) = .ok u →
                lands i e.rank (e.done + c.blockOf k) ((block e).foldl (fun f q => f ||| q.2.2) 0) u (fun _ => True))) ∧
            (i = .red w → combines i e (fun _ _ => True))) ∧
          (e.bytes = k.bytes → n ≤ e.done →
            (e.tail = false → exec i s = .next s) ∧
            (e.tail = true → ChanBecomes i s ((got rk c).retired (c.pc + 1) post) (fun t =>
              noted t ∧ MessagesSent s t [(s.peerAt c rk, .ack (nget c.rx rk))]))))) ∧
      (red = true → ChanActs s (.rrc w) →
        (c.prg.cts = false →
          (¬clear rk2 → exec (.rrc w) s = .next s) ∧
          (clear rk2 → ChanBecomes (.rrc w) s { c with prg := { c.prg with cts := true } } (fun t =>
            noted t ∧ MessagesSent s t [(s.peerAt c rk, .cts (nget c.rx rk))]))) ∧
        (c.prg.cts = true → c.prg.opened = [] → exec (.rrc w) s = .next s) ∧
        (∀ e rest, c.prg.cts = true → c.prg.opened = e :: rest →
          (e.bytes ≠ k.bytes → stops (.rrc w) 8) ∧
          (e.bytes = k.bytes → c.prg.head = false → ChanBecomes (.rrc w) s (heads rk2) (fun t =>
            noted t ∧ MessagesSent s t [(s.peerAt c rk2, .chunk (nget c.tx rk2) k.bytes)])) ∧
          (e.bytes = k.bytes → c.prg.head = true →
            (e.done < n ∧ s.linkRoom rk2 = false ∨ n ≤ e.done ∧ (e.tail = false ∨ s.tailRoom rk2 n = false)) →
            exec (.rrc w) s = .next s) ∧
          (e.bytes = k.bytes → c.prg.head = true →
            (e.done < n → s.linkRoom rk2 = true → combines (.rrc w) e (fun bs t => t.chan.prg.done = c.prg.done + 1 ∧
              t.chan.prg.data = c.prg.data ++ bs ∧ MessagesSent s t [(s.peerAt c rk2, .gran bs)])) ∧
            (n ≤ e.done → e.tail = true → s.tailRoom rk2 n = true → ChanBecomes (.rrc w) s ((got rk (sent rk2 c)).retired (c.pc + 1) post) (fun t =>
              noted t ∧ MessagesSent s t [(s.peerAt c rk2, .tail), (s.peerAt c rk, .ack (nget c.rx rk))]))))) ∧
      (red = true → ChanActs s (.redany w) →
        (c.prg.cts = false → ChanBecomes (.redany w) s { c with prg := { c.prg with cts := true } } (fun t => noted t ∧
          MessagesSent s t ((upto rk w.n.toNat).map (fun r => (s.peerAt c r, .cts (nget c.rx r)))))) ∧
        (c.prg.cts = true → w.n.toNat ≤ c.prg.fin.length →
          ChanBecomes (.redany w) s (c.retired (c.pc + 1) post) noted) ∧
        (c.prg.cts = true → c.prg.fin.length < w.n.toNat →
          let come := c.prg.opened.filter (fun e => e.bytes != k.bytes || e.ripe)
          (come = [] → exec (.redany w) s = .next s) ∧
          (come ≠ [] → ∃ e ∈ come,
            (e.bytes ≠ k.bytes → stops (.redany w) 8) ∧
            (e.bytes = k.bytes → e.done < n → takes (.redany w) e (fun _ _ => True)) ∧
            (e.bytes = k.bytes → n ≤ e.done → ∃ t, exec (.redany w) s = .next t ∧ noted t ∧
              t.chan = { got e.rank c with prg := { c.prg with
                opened := c.prg.opened.filter (fun q => q.rank != e.rank), fin := c.prg.fin ++ [e.rank] } } ∧
              MessagesSent s t [(s.peerAt c e.rank, .ack (nget c.rx e.rank))])))) ∧
      (red = false → ∀ kb, c.operand w.cb false = .chunk kb →
        (ChanActs s (.ccpy w) →
          (k.bytes ≠ kb.bytes → stops (.ccpy w) 8) ∧
          (k.bytes = kb.bytes → relays (.ccpy w) k kb none (post || decide (w.cb = 0xFFF)))) ∧
        (∀ x, ChanActs s (.xf w) → c.xfs[w.n.toNat]? = some x →
          (k.bytes ≠ 16 * x.granules → stops (.xf w) 8) ∧
          (k.bytes = 16 * x.granules → relays (.xf w) k kb (some x) (post || decide (w.cb = 0xFFF)))))) ∧
    (c.operand w.ca false = .bad → ∀ i ∈ [Instr.send w, Instr.recv w, Instr.ccpy w, Instr.xf w], ChanActs s i → stops i 6) ∧
    (c.operand w.ca true = .bad → ∀ i ∈ [Instr.rrc w, Instr.red w, Instr.redany w], ChanActs s i → stops i 6) ∧
    (∀ a b : List Byte, a.length = 16 → b.length = 16 → ∀ j, j < 4 →
      leNat (((combGran 0 2 a b).1.drop (4 * j)).take 4) = (leNat ((a.drop (4 * j)).take 4) + leNat ((b.drop (4 * j)).take 4)) % 2 ^ 32)

/-- A message arrives from this module's own wires once no earlier one between the same two channels stands before it, or from
a peer module. A clear-to-send is kept by a bound channel. The header of a chunk with the sequence number its rank expects opens
it when the running instruction waits for it, and its granules and tail join it there while the channel runs and has room; one already taken, or from a sender that is no rank of a bound channel, counts in `dup` and is acknowledged again; one ahead stops a busy
channel with SEQ. An acknowledgement takes its chunk out of the window. A signal of a bound channel with no open chunk of its
sender adds to `sgc`. An abort stops a busy channel that still exchanges with its sender with PEER, and is recorded by another
bound one. That the room is one of granules (assumption 83), that a signal waits for an open chunk (assumption 84), and that any bound channel
keeps a clear-to-send while only a busy one stops with SEQ (assumption 86), is the model's reading; that a sender that is no rank counts as a
duplicate's is assumption 112. -/
def Obligations.MessageArrivals : Prop :=
  ∀ (s t : State) (src : MsgSrc) (m : Msg),
    let from' := (m.fromMod, m.fromReel, m.fromChan)
    let r := m.toReel
    let ch := m.toChan
    let c := s.chanAt r ch
    let here (k : Nat) : Prop := k < c.ranks.length ∧ s.peerAt c k = from'
    let least (p : Nat → Prop) (k : Nat) : Prop := p k ∧ ∀ j, j < k → ¬p j
    let wanted (k : Nat) : Prop := ∃ i, c.current = some i ∧ k ∈ ranksReceived i
    (∀ j, src = .inflight j → s.msgs[j]? = some m → m.toMod = s.ownMod →
      (∀ i x, i < j → s.msgs[i]? = some x → sameLane x m = false) → s.arrival src = some (m, { s with msgs := s.msgs.eraseIdx j })) ∧
    (src = .peer m → m.toMod = s.ownMod → m.fromMod ≠ s.ownMod → s.arrival src = some (m, s)) ∧
    let again (n : BitVec 32) : Prop := ∃ u, exec (.chunkMessageArrival src) s = .next u ∧
      u.chanAt r ch = { c with dup := if c.dup = 0xFFFF then c.dup else c.dup + 1 } ∧
      (let a : Msg := ⟨s.ownMod, r, ch, m.fromMod, m.fromReel, m.fromChan, .ack n⟩
       let own : Bool := m.fromMod == s.ownMod
       let up : Bool := s.modUp m.fromMod
       u.msgs = (if own then t.msgs ++ [a] else t.msgs) ∧ u.outbox = (if !own && up then t.outbox ++ [a] else t.outbox) ∧
         u.refused = (if !own && !up then t.refused ++ [a] else t.refused))
    (s.arrival src = some (m, t) →
      (∀ n bytes, m.kind = .chunk n bytes → c.bound ≠ none → (∀ k, ¬here k) → again n) ∧
      (∀ n, m.kind = .cts n → c.bound ≠ none → exec (.clearToSendArrival src) s =
        .next (t.putChan r ch { c with cts := c.cts ++ [(m.fromMod, m.fromReel, m.fromChan, n)] })) ∧
      (∀ n bytes k, m.kind = .chunk n bytes →
        (least (fun k => here k ∧ wanted k) k ∨ (least here k ∧ ∀ j, ¬(here j ∧ wanted j))) →
        let d := n - tget 0 c.rx k
        (d = 0 → c.st = .running → c.prg.cts = true → wanted k → (∀ q ∈ c.prg.opened, q.rank ≠ k) → k ∉ c.prg.fin →
          exec (.chunkMessageArrival src) s =
            .next (t.putChan r ch { c with prg := { c.prg with opened := c.prg.opened ++ [⟨k, bytes, 0, [], false⟩] } })) ∧
        (d.toInt < 0 → again n) ∧
        (0 < d.toInt → c.busy = true → ∃ u, exec (.chunkMessageArrival src) s = .next u ∧
          (u.chanAt r ch).st = .stopped ∧ (u.chanAt r ch).ecode = 4)) ∧
      (let takes : Option RxMsg := c.prg.opened.find? (fun e => s.peerAt c e.rank == from' && !e.tail)
       let held (e e' : RxMsg) : State := t.putChan r ch { c with prg := { c.prg with
         opened := c.prg.opened.map (fun q => if q.rank = e.rank then e' else q) } }
       ((∃ bs, m.kind = .gran bs) ∨ m.kind = .tail →
         (takes = none → exec (.chunkMessageArrival src) s = .next t) ∧
         (takes ≠ none → c.st ≠ .running → exec (.chunkMessageArrival src) s = .next s)) ∧
       (∀ e bs, takes = some e → m.kind = .gran bs → c.st = .running → bs.length = 16 → e.data.length + 16 ≤ e.bytes →
         exec (.chunkMessageArrival src) s =
           .next (if e.data.length / 16 < e.done + 8 then held e { e with data := e.data ++ bs } else s)) ∧
       (∀ e, takes = some e → m.kind = .tail → c.st = .running → e.bytes ≤ e.data.length →
         exec (.chunkMessageArrival src) s = .next (held e { e with tail := true }))) ∧
      (∀ n, m.kind = .ack n → ∃ u, exec (.acknowledgementArrival src) s = .next u ∧ u.mem = s.mem ∧
        ∀ q, q ∈ (u.chanAt r ch).window ↔ q ∈ c.window ∧ ¬(here q.1 ∧ q.2.1 = n)) ∧
      (∀ v, m.kind = .signal v → c.bound ≠ none → (∀ q ∈ c.prg.opened, s.peerAt c q.rank ≠ from') →
        exec (.signalArrival src) s = .next (t.putChan r ch { c with sgc := c.sgc + v })) ∧
      (m.kind = .abort → c.bound ≠ none →
        let meets : Prop := c.busy = true ∧
          ∃ i k, c.current = some i ∧ k ∈ ranksExchanged i ∧ s.peerAt c k = from' ∧ k ∉ c.prg.fin
        (meets → ∃ u, exec (.abortArrival src) s = .next u ∧ (u.chanAt r ch).st = .stopped ∧ (u.chanAt r ch).ecode = 5) ∧
        (¬meets → ∃ u, exec (.abortArrival src) s = .next u ∧ from' ∈ (u.chanAt r ch).aborts ∧ (u.chanAt r ch).st = c.st)))

/-- With the windows open: a write into a slot the hardware does not own that leaves the final word alone stores its bytes
and nothing else, into an owned slot it is error 5; one that covers the final word commits the record when the queue is
enabled, the slot is the next, the queue has room and the copy of `seq` agrees, and is else the first error of 1 to 4 that
applies, which keeps an earlier cause. `QSTAT.errv` clears with its cause. A flush without privilege is refused and logged; by
privilege, where no waiting record asks for a completion record, every record committed ends with FLUSHED. A read of a free semaphore claims it and
says so; of a held one it does not; its holder frees it, and so does a forced write by privilege; any other write is
refused and logged. That clearing `errv` clears the cause is assumption 54, and that a write of a free semaphore is logged assumption 55. -/
def Obligations.QueuesAndSemaphores : Prop :=
  ∀ (s : State) (a : HostAcc) (q slot off n : Nat) (data : List Byte), s.board.opened = true → a.i3c = false →
    let x := s.queueAt q
    let waiting := (x.pc - x.cc).toNat
    let owned : Prop := (slot + 32 - x.cc.toNat % 32) % 32 < waiting
    let new := tsetRun 0 x.bytes (256 * slot + off) data
    let field (t : Tbl Byte) (o n : Nat) : Nat := leNat (tgetRun 0 t (256 * slot + o) n)
    let errs (i : Instr) (k : Nat) : Prop := ∃ t, exec i s = .next t ∧
      (t.queueAt q).errv = true ∧ (t.queueAt q).ecause = (if x.errv then x.ecause else BitVec.ofNat 4 k) ∧
      (t.queueAt q).pc = x.pc ∧ (t.queueAt q).bytes = x.bytes ∧ t.mem = s.mem
    (q < 64 → slot < 32 → off + data.length ≤ 256 →
      ∀ i ∈ [Instr.queueSlotWrite a q slot off data, Instr.launchCommit a q slot off data],
      (248 < off ∨ off + data.length < 256 →
        (owned → errs i 5) ∧ (¬owned → exec i s = .next (s.putQueue q { x with bytes := new }))) ∧
      (off ≤ 248 → off + data.length = 256 →
        (x.en = false → errs i 1) ∧
        (x.en = true → slot ≠ x.pc.toNat % 32 → errs i 2) ∧
        (x.en = true → slot = x.pc.toNat % 32 → waiting = 32 → errs i 3) ∧
        (x.en = true → slot = x.pc.toNat % 32 → waiting ≠ 32 → field new 248 4 ≠ field new 0 4 → errs i 4) ∧
        (x.en = true → slot = x.pc.toNat % 32 → waiting ≠ 32 → field new 248 4 = field new 0 4 → exec i s =
          .next (s.putQueue q { x with bytes := new, pc := x.pc + 1, seqs := x.seqs ++ [BitVec.ofNat 32 (field new 0 4)] })))) ∧
    (q < 64 → exec (.qstatErrvClear a q) s = .next (s.putQueue q { x with errv := false, ecause := 0 })) ∧
    (q < 64 → a.user = true → exec (.queueFlush a q) s = .next (s.logRefusal a (0x80000 + 0x40 * q) true)) ∧
    (q < 64 → a.user = false → waiting ≤ 32 → x.stage = .none →
      let rec' (k : Nat) : Launch := Launch.ofBytes q (x.slot ((x.cc.toNat + k) % 32))
      (∀ k, k < waiting → (rec' k).crec = 0) → ∃ t, exec (.queueFlush a q) s = .next t ∧
        (t.queueAt q).cc = x.pc ∧ (t.queueAt q).pc = x.pc ∧ (t.queueAt q).stage = .none ∧ (t.queueAt q).flushTo = none ∧
        (∀ k, k < waiting → ((rec' k).seq, 0x0B) ∈ (t.queueAt q).retired)) ∧
    (n < 64 →
      let y := s.semAt n
      let word (z : Sem) (won : Bool) : Word := ((BitVec.ofBool won ++ 0#13 ++ BitVec.ofBool z.held ++ (match z.port with | .A => 0#1 | .B => 1#1) ++ z.rid : BitVec 32).setWidth 64)
      let mine : Sem := ⟨a.rid, a.port, true⟩
      (y.held = false → exec (.semaphoreClaim a n) s = .next { (s.putSem n mine) with lastRead := word mine true }) ∧
      (y.held = true → exec (.semaphoreClaim a n) s = .next { s with lastRead := word y false }) ∧
      (y = mine → ∀ i ∈ [Instr.semaphoreRelease a n, Instr.semaphoreForceRelease a n],
        exec i s = .next (s.putSem n Sem.blank)) ∧
      (a.user = false → exec (.semaphoreForceRelease a n) s = .next (s.putSem n Sem.blank)) ∧
      (y ≠ mine → exec (.semaphoreRelease a n) s = .next (s.logRefusal a (0x90000 + 8 * n) true) ∧
        (a.user = true → exec (.semaphoreForceRelease a n) s = .next (s.logRefusal a (0x90000 + 8 * n) true))))


/-- With the windows open: an access without privilege to a register whose unprivileged view is none is refused, logged in
its port's `ERRLOG` unless an earlier one stands there, and reads as 0. A write of `HUB.ASBIND` with `go` binds the ASID under its next generation unless a live descriptor holds it or the descriptor
is live; the end of the binding clears busy. A write of `HUB.CTXKILL` with `go` stops the context for good unless it is
descriptor 0 or not live. A cap from 1200 to 3200 W is taken, another refused and logged. Clearing the error log clears both bits;
unmasking sends what is pending; the enable of a port's MSI-X, in its configuration space, is answered in recovery too. Each word of a descriptor reads back as it was written and changes no other, in word 8
all but `basid`, `live` and the reserved bits, which keep their values and read 0. A
report asked for by a request word of 1 becomes ready: the word becomes 2, and the report begins with `ATTT`, the new count,
the nonce and the digest of the manifest. That a bind of descriptor 0, which R67's field leaves out, binds it is the model's choice (assumption 105); that the report's count
includes the new report is assumption 87. That clearing `ev` clears `eovf` is assumption 54, and that a write of the binding register
without `go` only stores its fields assumption 56. That a cap refused to Maryon is logged in both ports is assumption 112. -/
def Obligations.HubRegisters : Prop :=
  (∀ (s : State),
    let at' (t : State) (o n : Nat) : List Byte := tgetRun 0 t.board.attest o n
    (leNat (at' s 0 4) ≠ 1 → exec .attestationReportReady s = .next s) ∧
    (leNat (at' s 0 4) = 1 → ∃ t, exec .attestationReportReady s = .next t ∧ leNat (at' t 0 4) = 2 ∧
      t.board.nrep = s.board.nrep + 1 ∧ leNat (at' t 64 4) = 0x54545441 ∧ leNat (at' t 68 4) = t.board.nrep.toNat ∧
      at' t 72 32 = at' s 32 32 ∧ leNat (at' t 104 32) = s.board.mdig.toNat ∧ t.mem = s.mem ∧ t.irqs = s.irqs)) ∧
  (∀ (s : State) (a : HostAcc) (v : Word), s.board.opened = true → a.i3c = false →
    let r := s.portAt a.port
    let refused (off : Nat) (w : Bool) : State := s.putPort a.port
      (if r.ev then { r with eovf := true } else ⟨BitVec.ofNat 22 off, a.user, w, true, r.eovf, r.msix, r.table, r.pend⟩)
    let n := (v.extractLsb' 0 10).toNat
    let d := (v.extractLsb' 10 7).toNat
    let k := (v.extractLsb' 0 7).toNat
    let asked : State := { s with hub := { s.hub with asid := v.extractLsb' 0 10, desc := v.extractLsb' 10 7 } }
    let cap := (v.extractLsb' 0 12).toNat
    let aimed : State := { s with hub := { s.hub with kdesc := v.extractLsb' 0 7 } }
    (a.user = true →
      exec (.asidBind a v) s = .next (refused 0xB0000 true) ∧ exec (.ctxkill a v) s = .next (refused 0xB0008 true) ∧
      exec (.attestationRequest a) s = .next (refused 0xC1000 true) ∧ exec (.pcapWrite a v) s = .next s ∧
      (∀ off, off % 8 = 0 → (0xA0000 ≤ off ∧ off < 0xA4000) ∨ (0xC1000 ≤ off ∧ off < 0xC2000) ∨ (0x100000 ≤ off ∧ off < 0x200000) →
        exec (.registerWrite a off (some v)) s = .next (refused off true) ∧
        exec (.registerWrite a off none) s = .next { (refused off false) with lastRead := 0 })) ∧
    (a.user = false →
      (v.getLsbD 17 = false → exec (.asidBind a v) s = .next asked) ∧
      (v.getLsbD 17 = true → s.hub.busy = true → exec (.asidBind a v) s = .next s) ∧
      (v.getLsbD 17 = true → s.hub.busy = false →
        let held : Prop := ∃ e ∈ s.boundTo n, (s.descAt e).live = true
        (held → exec (.asidBind a v) s = .next { asked with hub := { asked.hub with bst := 1 } }) ∧
        (¬held → (s.descAt d).live = true → exec (.asidBind a v) s = .next { asked with hub := { asked.hub with bst := 2 } }) ∧
        (¬held → (s.descAt d).live = false → ∃ t, exec (.asidBind a v) s = .next t ∧
          t.genOf n = (s.genOf n + 1) % 16 ∧ (t.descAt d).basid.toNat = n ∧ t.hub.busy = true ∧ t.hub.bst = 0 ∧
          t.hub.gen.toNat = (s.genOf n + 1) % 16 ∧ (∀ e, e ≠ d → (s.descAt e).basid.toNat = n → (t.descAt e).basid = 0xFFFF) ∧
          t.mem = s.mem)) ∧
      (v.getLsbD 7 = false → exec (.ctxkill a v) s = .next aimed) ∧
      (v.getLsbD 7 = true → s.hub.kbusy = true → exec (.ctxkill a v) s = .next s) ∧
      (v.getLsbD 7 = true → s.hub.kbusy = false →
        (k = 0 → exec (.ctxkill a v) s = .next { aimed with hub := { aimed.hub with kst := 2 } }) ∧
        (k ≠ 0 → ((s.descAt k).live = false ∨ (s.ctxAt k).ending ≠ .no) →
          exec (.ctxkill a v) s = .next { aimed with hub := { aimed.hub with kst := 1 } }) ∧
        (k ≠ 0 → (s.descAt k).live = true → (s.ctxAt k).ending = .no → ∃ t, exec (.ctxkill a v) s = .next t ∧
          (t.ctxAt k).stop = some .killed ∧ (t.ctxAt k).stopped = true ∧ t.hub.kbusy = true ∧ t.hub.kwho.toNat = k ∧ t.hub.kst = 0)) ∧
      ((cap < 1200 ∨ 3200 < cap → exec (.pcapWrite a v) s = .next (refused 0xC0100 true)) ∧
        (1200 ≤ cap → cap ≤ 3200 → exec (.pcapWrite a v) s = .next { s with board := { s.board with
          cap := v.extractLsb' 0 12, pen := v.getLsbD 12, pstep := if v.getLsbD 12 then s.board.pstep else 0 } })) ∧
      (s.board.attestWord ≠ 1 → ∃ t, exec (.attestationRequest a) s = .next t ∧ t.board.attestWord = 1 ∧
        (∀ o, 4 ≤ o → tget 0 t.board.attest o = tget 0 s.board.attest o)) ∧
      (∀ e o, e < 128 → o % 8 = 0 → o < 128 →
        let x := s.descAt e
        let y := x.putWord o v
        exec (.registerWrite a (0xA0000 + 0x80 * e + o) (some v)) s = .next (s.putDesc e y) ∧
        exec (.registerWrite a (0xA0000 + 0x80 * e + o) none) s = .next { s with lastRead := x.word o } ∧
        (o ≠ 8 → o ≤ 80 → y.word o = v) ∧ (80 < o → y = x ∧ x.word o = 0) ∧
        (∀ p, p ≠ o → y.word p = x.word p) ∧
        (o = 8 → y.basid = x.basid ∧ y.live = x.live ∧ y.valid = v.getLsbD 16 ∧ y.signed = v.getLsbD 17 ∧
          y.pceil = v.extractLsb' 32 8 ∧ y.maxstr = v.extractLsb' 40 8 ∧
          (y.word 8).extractLsb' 0 16 = x.basid ∧ (y.word 8).extractLsb' 16 2 = v.extractLsb' 16 2 ∧ (y.word 8).getLsbD 18 = x.live ∧
          (y.word 8).extractLsb' 19 13 = 0 ∧ (y.word 8).extractLsb' 32 16 = v.extractLsb' 32 16 ∧ (y.word 8).extractLsb' 48 16 = 0))) ∧
    exec (.asidBindDone) s = .next { s with hub := { s.hub with busy := false } } ∧
    exec (.errlogClear a) s = .next (s.putPort a.port { r with ev := false, eovf := false }) ∧
    (∃ t, exec (.msixUnmask a none) s = .next t ∧ (t.portAt a.port).msix = true ∧
      (∀ x ∈ (t.portAt a.port).pend, (t.portAt a.port).mayRaise x = false) ∧
      (∀ x ∈ r.pend, ((t.portAt a.port).mayRaise x = true ↔ x ∉ (t.portAt a.port).pend)) ∧
      (∀ x ∈ r.pend, (t.portAt a.port).mayRaise x = true → (a.port, x) ∈ t.irqs)) ∧
    (∀ x, x < 2048 → a.user = false → ∃ t, exec (.msixUnmask a (some x)) s = .next t ∧
      ((t.portAt a.port).tableWord (2 * x + 1)).getLsbD 32 = false ∧
      (r.msix = true → x ∉ (t.portAt a.port).pend ∧ (x ∈ r.pend → (a.port, x) ∈ t.irqs)))) ∧
  (∀ (s : State) (a : HostAcc), s.board.opened = false → a.i3c = false →
    (s.board.recovery = true → ∃ t, exec (.msixUnmask a none) s = .next t ∧ (t.portAt a.port).msix = true) ∧
    (s.board.recovery = false → exec (.msixUnmask a none) s = .next s)) ∧
  (∀ (s : State) (a : HostAcc) (v : Word), s.board.maryon ≠ none → a.i3c = true →
    let cap := (v.extractLsb' 0 12).toNat
    (cap < 1200 ∨ 3200 < cap → ∃ t, exec (.pcapWrite a v) s = .next t ∧ t.portA.ev = true ∧ t.portB.ev = true ∧ t.board = s.board) ∧
    (1200 ≤ cap → cap ≤ 3200 → exec (.pcapWrite a v) s = .next { s with board := { s.board with
      cap := v.extractLsb' 0 12, pen := v.getLsbD 12, pstep := if v.getLsbD 12 then s.board.pstep else 0 } }))

namespace Sys2Proof.Machine

/-- A hub event of queue `q` ends the launch at its head: the record is consumed and has retired with a status, and where that is not OK
every checked `HOLD` record of another queue that depends on it and asks for it is refused with DEPFAIL. -/
def EndsLaunch (i : Instr) (s : State) (q : Nat) (seq : BitVec 32) (status : Nat) : Prop :=
  ∃ t, exec i s = .next t ∧ (t.queueAt q).cc = (s.queueAt q).cc + 1 ∧ (t.queueAt q).head = none ∧
    (t.queueAt q).stage = .none ∧ (t.queueAt q).retired.getLast? = some (seq, status) ∧
    (status ≠ 0 → ∀ p l, p ≠ q → (s.queueAt p).stage = .checked → (s.queueAt p).head = some l → l.place = false →
      l.lflags.getLsbD 2 = true → (q, seq) ∈ l.deps → (t.queueAt p).stage = .refused 6)

end Sys2Proof.Machine

/-- The record at the head is checked in order: an unclean one, one out of sequence, one whose descriptor its queue may not use,
one above the descriptor's priority or strand limits, one with a dependence on a launch never committed ends at once with
its status (shown for records that ask for no completion record), after a queue error where its descriptor cannot be used; one that is a `HOLD` record, asks for DEPFAIL and depends on a launch that has failed already ends with it; a good one stands checked, and the next
`seq` is expected. A launch that ends so with a status other than OK takes with it the checked `HOLD` records of other queues that depend on it and
ask for DEPFAIL. A checked record with no waits left (a `PLACE` record, or a `HOLD` record whose flags have all
been entered and reached and whose dependences have all retired) is released once its descriptor is free; a `HOLD` record whose
dependence failed ends with DEPFAIL when it asks for that. A released one whose image passes waits for strands; one whose image fails
ends with the status of the failure. The allocator serves the request of highest priority and, among those, the oldest that the
free strands satisfy, from the smallest run that holds it. That only a `HOLD` record ends with DEPFAIL is assumption 41, and that a
dependence must be among the sequence numbers committed to its queue assumption 43. That a refusal whose `ctxd` is 0 reports the queue errors 8 and 9
is the model's choice (assumption 107), and that an unresolved fault of the image's fetch gives the status IMAGE is assumption 46. -/
def Obligations.HubLaunch : Prop :=
  (∀ (s : State),
    let q := s.unit
    let x := s.queueAt q
    let bs := x.slot (x.cc.toNat % 32)
    let l := Launch.ofBytes q bs
    let d := s.descAt l.ctxd
    let mine : Prop := s.ctxOk q l = true
    let follows : Prop := x.expect = none ∨ x.expect = some l.seq
    let ends (st : Nat) : Prop := l.crec = 0 → EndsLaunch .headChecks s q l.seq st
    let errs (k : Nat) : Prop := l.crec = 0 → ∃ t, exec .headChecks s = .next t ∧ (t.queueAt q).errv = true ∧
      (t.queueAt q).ecause = (if x.errv then x.ecause else BitVec.ofNat 4 k)
    q < 64 → x.stage = .none → x.flushTo = none →
      (x.pc = x.cc → exec .headChecks s = .next s) ∧
      (x.pc ≠ x.cc →
        (launchClean bs = false → ends 1 ∧ (¬mine → errs 8)) ∧
        (launchClean bs = true → ¬follows → ends 2 ∧ (¬mine → errs 9)) ∧
        (launchClean bs = true → follows → ¬mine → errs 6 ∧ ∃ t, exec .headChecks s = .next t ∧ (t.queueAt q).cc = x.cc + 1) ∧
        (launchClean bs = true → follows → mine →
          (d.pceil.toNat < l.prio → ends 3) ∧
          (l.prio ≤ d.pceil.toNat → d.maxstr.toNat < l.nstr → ends 4) ∧
          (l.prio ≤ d.pceil.toNat → l.nstr ≤ d.maxstr.toNat →
            let unknown : Prop := ∃ p ∈ l.deps, p.2 ∉ (s.queueAt p.1).seqs ∨ p = (q, l.seq)
            let failed : Prop := l.place = false ∧ l.lflags.getLsbD 2 = true ∧ ∃ p ∈ l.deps, ∃ n, n ≠ 0 ∧ s.depStatus p.1 p.2 = some n
            (unknown → ends 5) ∧
            (¬unknown → failed → ends 6) ∧
            (¬unknown → ¬failed → ∃ t, exec .headChecks s = .next t ∧ (t.queueAt q).head = some l ∧ (t.queueAt q).stage = .checked ∧
              (t.queueAt q).expect = some (l.seq + 1) ∧ (t.queueAt q).cc = x.cc))))) ∧
  (∀ (s : State) (l : Launch),
    let q := s.unit
    let x := s.queueAt q
    let sts := l.deps.map (fun p => s.depStatus p.1 p.2)
    x.head = some l →
      (x.stage = .checked →
        let fails : Prop := l.place = false ∧ l.lflags.getLsbD 2 = true ∧ ∃ n, n ≠ 0 ∧ some n ∈ sts
        (fails → l.crec = 0 → EndsLaunch .holdRelease s q l.seq 6) ∧
        (¬fails → (l.place = true ∨ ((l.flags = [] ∨ x.entered ≠ []) ∧ x.watching = [] ∧ none ∉ sts)) →
          ((s.descAt l.ctxd).live = false → exec .holdRelease s = .next (s.putQueue q { x with stage := .released })) ∧
          ((s.descAt l.ctxd).live = true → exec .holdRelease s = .next s)) ∧
        (¬fails → l.place = false → l.flags ≠ [] → x.entered = [] → s.watch.length + l.flags.length ≤ 1024 →
          ∃ t, exec .holdRelease s = .next t ∧ (t.queueAt q).stage = .checked ∧ (t.queueAt q).watching = l.flags.map Prod.fst ∧
            ∀ f ∈ l.flags, ∃ w ∈ t.watch, w.idx = f.1 ∧ w.exp = f.2)) ∧
      (x.stage = .released →
        (x.ifail = true → l.crec = 0 → EndsLaunch .imageFetch s q l.seq 7) ∧
        (x.ifail = false → (s.descAt l.ctxd).live = false →
          (∀ im, s.imageOf l = .ok im → exec .imageFetch s =
            .next (s.putQueue q { x with stage := .strands, image := some im, since := s.cyc, ifail := false })) ∧
          (∀ n, s.imageOf l = .error (.status n) → l.crec = 0 → EndsLaunch .imageFetch s q l.seq n)))) ∧
  (∀ (s : State),
    let served (r : Request) : Prop := firstRequest (s.requests.filter (fun r => s.satisfied r.2.2)) = some r
    (∀ r, served r → ∃ p a, (p, a, r) ∈ s.requests ∧ s.satisfied r = true ∧
      ∀ y ∈ s.requests, s.satisfied y.2.2 = true → y.1 < p ∨ (y.1 = p ∧ a ≤ y.2.1)) ∧
    (∀ q l im st t, served (.place q l im) → (s.queueAt q).ifail = false → smallestRun l.nstr s.freeRuns = some st →
      s.place q l im st = .ok t → exec .strandGrant s = .next (if s.standStill (t.ctxAt l.ctxd).bays then t else s)) ∧
    (∀ d n st len, served (.grow d n) → s.grown d n = some (st, len) → ∃ t, exec .strandGrant s = .next t ∧
      (t.ctxAt d).start = st ∧ (t.ctxAt d).len = len ∧ (t.ctxAt d).grow = none) ∧
    (∀ n (l : List (Nat × Nat)) st, smallestRun n l = some st → ∃ k, (st, k) ∈ l ∧ n ≤ k ∧ ∀ y ∈ l, n ≤ y.2 → k ≤ y.2))

/-- A bay at its boundary that has reason to and is not marked to join starts P alone and stands in L; marked bays start together
once all of them stand at their boundary. A missing microprogram is fetched into the hub's cache, and one that breaks the
limits rewrites its area to BADOP. A broadcast no other is preferred to loads an area whose cells have room. L closes after its window, or once
every area is loaded: what is loaded has waited 0 times, what is not is deferred once more. A loaded area that all its
cells serve first starts: a microprogram runs from fresh registers, a system operator is over and committed. S comes when every area is
over: the areas of the sweep are gone and the bays stand at their boundary. The end of a shift frees its fenced range, whose bays
have reason to start P (which bays these are is assumption 60); that a system operator is over and committed in the step that starts it is assumption 67. A
re-lay of symbols in row order keeps them in row order, in cells that follow in that order, and puts each cell within its limits. -/
def Obligations.Sweeps : Prop :=
  (∀ (s : State),
    let b := s.unit
    let x := s.bayAt b
    let bs := s.group b
    let is := s.areasIn bs
    let loads (i : Instr) (js : List Nat) (joined : List Nat) : Prop := ∃ t, exec i s = .next t ∧ (∀ k ∈ js,
      (t.bayAt k).phase = .load ∧ (t.bayAt k).lopen = s.cyc ∧ (t.bayAt k).due = false ∧ (t.bayAt k).join = joined) ∧
      (∀ k, k ∉ js → (t.bayAt k).phase = (s.bayAt k).phase)
    (b < 16 →
      (s.atBoundary b = true → s.bayDue b = true → x.mark = [] → loads .sweepP [b] []) ∧
      (s.atBoundary b = false ∨ s.bayDue b = false ∨ x.mark ≠ [] → exec .sweepP s = .next s) ∧
      (x.mark ≠ [] → (∀ k ∈ x.mark, s.atBoundary k = true) → (∃ k ∈ x.mark, s.bayDue k = true) →
        loads .joinedSweepStart x.mark x.mark) ∧
      ((∃ k ∈ x.mark, s.atBoundary k = false) → exec .joinedSweepStart s = .next s) ∧
      (x.phase = .exec → s.readyForS is = true → ∀ u m f,
        (s.dropServed bs is).storeCtxs bs is ((s.dropServed bs is).ctxsIn bs) = .ok (u, m, f) → ∃ t, exec .storagePhase s = .next t ∧
          (∀ k ∈ bs, (t.bayAt k).phase = .boundary ∧ (t.bayAt k).join = []) ∧ (∀ i ∈ is, (t.areaAt i).live = false) ∧
          t.mem = u.mem ∧ t.cells = u.cells)) ∧
    (is.Nodup → x.phase = .load →
      let waits : Prop := s.cyc < x.lopen + 1024 ∧ ∃ i ∈ is, (s.areaAt i).phase = .formed
      (waits → exec .lClose s = .next s) ∧
      (¬waits → ∃ t, exec .lClose s = .next t ∧ (∀ k ∈ bs, (t.bayAt k).phase = .exec) ∧
        (∀ i ∈ is, (s.areaAt i).phase = .formed →
          t.areaAt i = { s.areaAt i with phase := .waiting, dfr := min 8 ((s.areaAt i).dfr + 1) }) ∧
        (∀ i ∈ is, (s.areaAt i).phase = .loaded → t.areaAt i = { s.areaAt i with dfr := 0 }))) ∧
    (let y := s.bayAt (b % 16)
     (y.fences[b / 16]? = none → exec .shiftComplete s = .next s) ∧
     (∀ f, y.fences[b / 16]? = some f → ∃ t, exec .shiftComplete s = .next t ∧
       (t.bayAt (b % 16)).fences = y.fences.eraseIdx (b / 16) ∧
       ∀ k, bayOf f.2.1 ≤ k → k ≤ bayOf f.2.2 → (t.bayAt k).due = true))) ∧
  (∀ (s : State),
    let i := s.unit
    let a := s.areaAt i
    a.live = true →
      (a.phase = .formed → s.source a = none → ∀ r, s.opRec a.desc a.opid = some r →
        (r.ok = false → ∃ t, exec .hubCacheFetch s = .next t ∧
          t.areaAt i = { a with phase := .over, fate := .one (symError 3 0) } ∧ (∀ c ∈ a.cells, i ∉ (t.cellAt c).serve)) ∧
        (r.ok = true → ∀ bs, s.hubRead a.desc r.code (8 * r.ncode) = some bs → ∃ t tag, exec .hubCacheFetch s = .next t ∧
          t.hubCache.getLast? = some tag ∧ tag.sys = false ∧ tag.desc = a.desc ∧ tag.opid = a.opid ∧ tag.priv = r.priv ∧
          tag.code.length = r.ncode ∧ (∀ k, k < r.ncode → (tag.code.getD k 0).toNat = leNat ((bs.drop (8 * k)).take 8) % 2 ^ 64))) ∧
      (a.phase = .loaded → (a.desc = 0 → s.pagerUp = true) → (s.bayAt (a.bays.headD 0)).phase = .exec → (∀ c ∈ a.cells, (s.cellAt c).serve.head? = some i) →
        (a.sys = false → ∃ t, exec .areaStart s = .next t ∧ t.areaAt i = { a with phase := .running, moved := s.cyc, apps := [] }) ∧
        (a.sys = true → a.opid = 0x011 → a.parm ≠ 0 → ∃ t, exec .areaStart s = .next t ∧
          t.areaAt i = { a with phase := .over, cmt := true, fate := .sysRepl [(a.cells.headD 0, ⟨symError 3 0, a.cells.headD 0⟩)] }) ∧
        (a.sys = true → a.opid = 0x011 → a.parm = 0 → (∀ y, a.operand = [y] → symTag y.word ≠ 6) → ∃ t, exec .areaStart s = .next t ∧
          t.areaAt i = { a with phase := .over, cmt := true, fate := .sysRepl [(a.cells.headD 0, ⟨symError 1 0, a.cells.headD 0⟩)] }) ∧
        (a.sys = true → a.opid = 0x011 → a.parm = 0 → (∃ y, a.operand = [y] ∧ symTag y.word = 6) → ∃ t, exec .areaStart s = .next t ∧
          (t.areaAt i).phase = .running ∧
          (∀ c ∈ a.cells, (t.areaAt i).appAt c = { AppCell.start with frec := a.pageEntry })) ∧
        (a.sys = true → a.opid ≠ 0x011 → a.opid ≠ 0x00F → a.opid ≠ 0x012 → ∃ t, exec .areaStart s = .next t ∧
          t.areaAt i = { a with phase := .over, cmt := true, fate := .sysRepl (sysReplacement (s.trapid a.desc) (a.cells.headD 0) a.syms) }))) ∧
  (∀ (s : State) (ar : Nat) (t : Tag),
    let a := s.areaAt ar
    let b := a.bays.headD 0
    a.live = true → a.phase = .formed → (s.bayAt b).phase = .load → s.cyc < (s.bayAt b).lopen + 1024 → s.source a = some t →
      s.sameCode (s.group b) a = [ar] → s.preferred [ar] = false → a.hits t = true → t.lines ≤ 64 → a.ncode ≤ 4096 →
      a.cells.Nodup → a.scopesOk = true → (∀ c ∈ a.cells, (s.cellAt c).serve = [ar] ∧ (s.cellAt c).cache = []) →
      ∃ u, exec (.microprogramBroadcast ar []) s = .next u ∧ (u.areaAt ar).phase = .loaded ∧
        ∀ c ∈ a.cells, a.tagIn (u.cellAt c) = some { t with used := s.cyc }) ∧
  (∀ (s : State) (is : List Nat) (lo hi : Nat) (l l' : List PSym), lo ≤ hi → s.relay is lo hi l = some l' →
    (l.map PSym.home).Pairwise (· ≤ ·) → l'.map PSym.word = l.map PSym.word ∧ (l'.map PSym.home).Pairwise (· ≤ ·) ∧
      (∀ c, lo ≤ c → c < hi → let ys := l'.filter (fun y => y.home == c)
        ys.length ≤ 8 ∧ demand [] ys ≤ (s.cellAt c).cap ∧ (ys ≠ [] → (s.cellAt c).retired = false)))

/-- A span that may slide and whose bays stand at their boundary is held and begins its move; when the move is done it starts at
its new strand and no bay is held. A launch that has waited its time pre-empts the yielding context of lowest priority and, among those, latest
placement. At the boundary, under `force`, or after the grace period, a requested pre-emption cuts: no area of the context
runs on, and its running channels pause, one that sends a chunk once the chunk is out (shown where no trap or fault waits for a root). A save that fits frees the span and leaves the context out; one that does not leaves
it in place with `estate` 3. An aborted context stops once its application has left the row. The first sample is taken
where its conditions hold; a second one that does not hold cancels it, an early one waits, and a good one retires the
context: its launch has retired with its status, and its descriptor is free (shown for launches without a completion record). That the
boundary of the cut is reached when no area of the context takes part in a sweep is assumption 68; that a pre-empted, ending or shifting context is never slid,
and that one whose save was refused (`estate` 3) is not chosen again, is assumption 70. -/
def Obligations.PreemptionAndRetirement : Prop :=
  ∀ (s : State),
    let d := s.unit
    let c := s.ctxAt d
    let may : Prop := s.moving = none ∧ d ≠ 0 ∧ c.inRow = true ∧ c.pre = .none ∧ c.ending = .no ∧ s.shifting d = false ∧ s.compacts = true
    let cuts (i : Instr) (park : Bool) (op : Option (Nat × Nat)) : Prop := ∃ t, exec i s = .next t ∧ (t.ctxAt d).pre = .cut park op ∧
      (∀ k, (t.areaAt k).live = true → (t.areaAt k).desc = d → (t.areaAt k).phase = .parked ∨ (t.areaAt k).phase = .over) ∧
      (∀ r ch, ch < 16 → (t.chanAt r ch).bound = some d → (t.chanAt r ch).st = .running → (t.chanAt r ch).sending = true ∧ (t.chanAt r ch).pcs = 2)
    let calm : Prop := ∀ k, (s.areaAt k).live = true → (s.areaAt k).desc = d → (s.areaAt k).phase = .running → (s.areaAt k).taken = none
    (∀ st, may → s.slideTo d = some st → (∀ b ∈ c.moveBays st, (s.bayAt b).phase = .boundary) → ∃ t, exec .compaction s = .next t ∧
      t.moving = some (d, st) ∧ (∀ b ∈ c.moveBays st, (t.bayAt b).held = true) ∧ t.cells = s.cells ∧ t.ctxs = s.ctxs) ∧
    (¬may → exec .compaction s = .next s) ∧
    (∀ st e, s.moving = some (e, st) → ∃ t, exec .compactionMoveDone s = .next t ∧ t.moving = none ∧
      (∀ b, b < 16 → (t.bayAt b).held = false) ∧ ((s.ctxAt e).inRow = true → (t.ctxAt e).start = st ∧ (t.ctxAt e).len = (s.ctxAt e).len)) ∧
    (s.moving = none → exec .compactionMoveDone s = .next s) ∧
    (∀ l im, (s.queueAt d).stage = .strands → (s.queueAt d).head = some l → (s.queueAt d).image = some im →
      let ys := s.yielding l.prio
      (s.cyc < (s.queueAt d).since + 190000 → exec .allocatorPreemptionTimeout s = .next s) ∧
      ((s.queueAt d).since + 190000 ≤ s.cyc → s.satisfied (.place d l im) = false → (s.descAt l.ctxd).live = false →
        l.nstr ≤ s.freeTotal + (ys.map (fun p => p.2.len)).sum → ys ≠ [] →
        (∀ p ∈ s.ctxs, ∀ t f o, p.2.pre ≠ .requested t f false o ∧ p.2.pre ≠ .cut false o) →
        ∃ t k x, exec .allocatorPreemptionTimeout s = .next t ∧ (k, x) ∈ ys ∧ (t.ctxAt k).pre = .requested s.cyc false false none ∧
          ∀ y ∈ ys, x.prio < y.2.prio ∨ (x.prio = y.2.prio ∧ y.2.placed ≤ x.placed))) ∧
    (∀ since force park op, c.pre = .requested since force park op →
      (s.shifting d = true → exec .preemptionCut s = .next s ∧ exec .gracePeriodExpiry s = .next s) ∧
      (s.shifting d = false →
        (calm → force = true ∨ s.settledCtx d = true → cuts .preemptionCut park op) ∧
        (force = false → s.settledCtx d = false → exec .preemptionCut s = .next s) ∧
        (calm → since + 38000 ≤ s.cyc → cuts .gracePeriodExpiry park op) ∧
        (s.cyc < since + 38000 → exec .gracePeriodExpiry s = .next s))) ∧
    (∀ park op, c.pre = .cut park op →
      (s.readyToSave d = false → exec .preemptionSaveWrite s = .next s) ∧
      (s.readyToSave d = true →
        let f := s.flushed d
        let x := f.descUse d
        let secs := (f.saveImage d).1
        let u := (f.saveImage d).2
        let e := envelope (if park then 2 else 1) (f.ctxAt d).len (f.ctxAt d).etnext secs
        (0x4100 + e.2 ≤ x.envsize.toNat → (∃ v, u.hubWrites d x.envbase.toNat e.1 = .ok v) → ∃ t, exec .preemptionSaveWrite s = .next t ∧
          (t.ctxAt d).pre = .out park ∧ (t.ctxAt d).estate = (if park then 2 else 1) ∧
          (∀ k ∈ (f.ctxAt d).cells, (t.cellAt k).slots = [] ∧ (t.cellAt k).tiles = [])) ∧
        (x.envsize.toNat < 0x4100 + e.2 → (∃ v, u.hubWrites d x.envbase.toNat
            [(0, envHeader 3 (f.ctxAt d).len (f.ctxAt d).etnext e.2 (sectOffsets 0x4100 secs).1 (secs.map Prod.snd))] = .ok v) →
          ∃ t, exec .preemptionSaveWrite s = .next t ∧ (t.ctxAt d).pre = .none ∧ (t.ctxAt d).estate = 3))) ∧
    (∀ code, c.live = true → c.stopped = false → c.ending = .no → c.rfault = false → c.rowf = none → c.stop = some (.aborted code) →
      let leaving : Prop := ∃ p ∈ s.areas, p.2.live = true ∧ p.2.desc = d ∧ p.2.sys = true ∧ p.2.opid = 0x012 ∧ p.2.phase = .over
      (leaving → exec .abortContextStop s = .next s) ∧
      (¬leaving → ∃ t, exec .abortContextStop s = .next t ∧ (t.ctxAt d).stopped = true ∧ (t.ctxAt d).stop = some (.aborted code))) ∧
    (c.ending = .no →
      ((c.bays ≠ [] ∧ ∀ b ∈ c.bays, (s.bayAt b).phase ≠ .boundary) → exec .terminationFirstSample s = .next s) ∧
      ((c.bays = [] ∨ ∃ b ∈ c.bays, (s.bayAt b).phase = .boundary) → ∃ x, exec .terminationFirstSample s = .next (s.putCtx d { c with sample := x }) ∧
        (x.isSome = true ↔ s.sampleOk d = true) ∧ ∀ y, x = some y → y.cyc = s.cyc ∧ y.esent = c.esent ∧ y.pcs.length = c.bays.length) ∧
      (∀ x, c.sample = some x →
        (s.sampleHolds d x = false → exec .terminationSecondSample s = .next (s.putCtx d { c with sample := none })) ∧
        (s.sampleHolds d x = true → s.sampleRipe d x = false → exec .terminationSecondSample s = .next s) ∧
        (s.sampleHolds d x = true → s.sampleRipe d x = true → ∀ l, c.launch = some l → l.crec = 0 →
          let u := s.putCtx d { c with sample := none, rfault := false, ending := .result }
          (c.stopped = false → ∀ va, u.hubPut d ((s.descUse d).envbase.toNat + 0x4100)
            (u.resultImage d ((s.descUse d).envsize.toNat - 0x4100)).1 ≠ .error (.absent va)) →
          ∃ t, exec .terminationSecondSample s = .next t ∧ (t.ctxAt d).live = false ∧ (t.descAt d).live = false ∧
            (t.queueAt l.q).retired.getLast? = some (l.seq, match c.stop with
              | none => 0x00 | some (.aborted _) => 0x0C | some (.rowInt _) => 0x0D | some (.rowFull _) => 0x0E | some .killed => 0x0F))))

/-- An application that asks for it and has no trap commits as a whole: every cell of it is committed and its held effects
stand on its queues. The root takes the first trap of its cells in row order: a store after commit to a shared operand tile, which the
model carries to the root under a class of its own (assumption 14), leaves `err.TILEWR`, any other
its number after its record is written; a page fault before commit leaves an await on a fresh token. A stalled area takes the
STALL trap, an area that is not stalled none. A sleep ends once its cycles have passed, an area none of whose cells waits having its quiet cycles counted from then. A bay's counts are reported once a period,
and only when one exceeds 256. A watch entry that has been met goes, releases the flag guards and held records in it, and gives an `flwait` in it the word that met its
test; one that has not been met releases nobody. A trap record has 64
bytes with its fields in their places. -/
def Obligations.RootEvents : Prop :=
  (∀ (s : State),
    let i := s.unit
    let a := s.areaAt i
    let due : Prop := a.live = true ∧ a.phase = .running ∧ a.cmt = false ∧ a.trapped = false ∧ a.commitDue = true
    (¬due → exec .commit s = .next s) ∧
    (due → a.cells.Nodup → ∃ t, exec .commit s = .next t ∧ (t.areaAt i).cmt = true ∧ t.mem = s.mem ∧ ∀ c ∈ a.cells,
      ((t.areaAt i).appAt c).cmt = true ∧ ((t.areaAt i).appAt c).ballast = [] ∧
      ((t.areaAt i).appAt c).s = (a.appAt c).s ∧ ((t.areaAt i).appAt c).pc = (a.appAt c).pc ∧
      ((t.cellAt c).pend.drop (s.cellAt c).pend.length).map PendOp.kind = (a.appAt c).ballast.map (fun h => h.op.kind) ∧
      (t.cellAt c).pend.take (s.cellAt c).pend.length = (s.cellAt c).pend) ∧
    (a.live = true → a.phase = .running →
      let alone : Prop := ∀ p ∈ s.faults, ∀ c ∈ a.cells, Waiter.voiding i c ∉ p.2.who
      (a.taken = none → exec .trapAtRoot s = .next s) ∧
      (∀ c x, a.taken = some (.trap c x) →
        (x.cls = clsTileWr → ∃ t, exec .trapAtRoot s = .next t ∧ (t.areaAt i).phase = .over ∧ (t.areaAt i).fate = .one (symError 10 0)) ∧
        (x.cls ≠ clsTileWr → ∀ n u, s.writeTrap a.desc (fun n => ⟨n, x.cls, x.sub, a.cmt, c, a.aidx c, x.pc, a.opid, a.parm, x.word, x.info, x.fseq⟩) = .ok (n, u) →
          ∃ t, exec .trapAtRoot s = .next t ∧ (t.areaAt i).phase = .over ∧ (t.areaAt i).fate = .trapped n ∧ t.bufs = u.bufs ∧ (alone → t.mem = u.mem))) ∧
      (∀ c q, a.taken = some (.page c q) → ∀ tid, (s.ctxAt a.desc).freeTid = some tid → ∃ t, exec .trapAtRoot s = .next t ∧
        (t.areaAt i).phase = .over ∧ (t.areaAt i).fate = .awaitTok tid ∧ tid ∈ (t.ctxAt a.desc).tids)) ∧
    (s.stalled i = false → exec .areaStall s = .next s) ∧
    (s.stalled i = true → ∃ t, exec .areaStall s = .next t ∧ (∀ c ∈ a.cells, (a.appAt c).ended = false → (a.appAt c).trap = none →
      ∃ x, ((t.areaAt i).appAt c).trap = some x ∧ x.cls = 7 ∧ x.sub = 7 ∧ x.pc = (a.appAt c).pc) ∧ t.cells = s.cells ∧ t.mem = s.mem)) ∧
  (∀ (s : State),
    let b := s.unit
    let x := s.bayAt b
    (∀ i r t, (s.cellAt b).serve = i :: r → (s.appOf i b).sleep = some t →
      (t ≤ s.cyc → exec .sleepExpiry s = .next (s.putArea i { (s.areaAt i).putApp b { s.appOf i b with sleep := none } with
        moved := if s.someWaits i then (s.areaAt i).moved else s.cyc })) ∧
      (s.cyc < t → exec .sleepExpiry s = .next s)) ∧
    (s.cyc < x.sampled + 2097152 → exec .sampleReport s = .next s) ∧
    (x.sampled + 2097152 ≤ s.cyc → (∀ p ∈ x.counts, p.2 ≤ 256) → exec .sampleReport s = .next (s.putBay b { x with sampled := s.cyc })) ∧
    (x.sampled + 2097152 ≤ s.cyc → (∃ p ∈ x.counts, 256 < p.2) → s.pagerUp = true → ∀ q, s.freeFault = some q → ∃ t,
      exec .sampleReport s = .next t ∧ (t.bayAt b).counts = [] ∧ (t.bayAt b).sampled = s.cyc ∧ (t.faultAt q).live = true ∧
        (t.faultAt q).kind = 5 ∧ (t.faultAt q).fseq = s.fseq ∧ t.fseq = s.fseq + 1 ∧ (t.bayAt 15).due = true) ∧
    (∀ w, s.watch[b]? = some w →
      (w.hit = none → exec .watchFire s = .next s) ∧
      (∀ v, w.hit = some v → ∃ t, exec .watchFire s = .next t ∧ t.watch = s.watch.eraseIdx b ∧
        (∀ d, WatchWho.guard d ∈ w.who → (⟨true, w.idx, w.exp, symNil⟩ : Compl) ∈ (t.ctxAt d).compl) ∧
        (∀ n, w.who = [.hold n] → (t.queueAt n).watching = (s.queueAt n).watching.erase w.idx) ∧
        (∀ c o d idx exp scp got, w.who = [.cell c o.id] → s.opAnywhere o.id = some o → s.opAt c o.id = some o →
          o.kind = .flwait d idx exp scp true got →
          ∃ e, (t.cellAt c).done.getLast? = some e ∧ e.id = o.id ∧ e.writes = [.s d v])))) ∧
  (∀ r : TrapRec,
    let f (o n : Nat) : Nat := leNat ((r.bytes.drop o).take n)
    r.bytes.length = 64 ∧ f 0 4 = r.tseq.toNat ∧ f 4 1 = r.cls % 256 ∧ f 5 1 = r.sub % 256 ∧
      f 6 2 = (if r.cmt then 1 else 0) + (if r.fseq.isSome then 2 else 0) ∧ f 8 2 = r.cell % 65536 ∧ f 10 2 = r.aidx % 65536 ∧
      f 12 2 = r.pc % 65536 ∧ f 16 4 = r.opid % 2 ^ 32 ∧ f 20 4 = r.parm.toNat ∧ f 24 8 = r.word.toNat ∧ f 32 8 = r.info.toNat)

/-- A buffered write that no earlier one of its path to the same byte holds back moves one level outward, or from level 3 to
its bytes of memory; one held back stays. A walk that ends well takes its request away and leaves a translation with which the access hits;
one that faults is walked again, and when the confirming walk faults too and an entry of the fault table is free, the fault is
recorded there with the address and the context (shown for a request with one requester, among the 16 oldest of its die). A leaf of
the level-3 table without `ct` maps its 64 KiB page to its physical base. A table entry with an uncorrectable error gives a walk no
outcome: a confirming walk that reads one raises the machine check, and that its request stays with the walker is the model's choice
(assumption 91). -/
def Obligations.WritesAndWalks : Prop :=
  (∀ (s : State) (w : BufWrite), s.bufs[s.unit]? = some w →
    (s.mayMove s.unit = false → exec .propagateWrite s = .next s) ∧
    (s.mayMove s.unit = true →
      (w.level < 3 → exec .propagateWrite s = .next { s with bufs := s.bufs.eraseIdx s.unit ++ [{ w with
        level := w.level + 1, dom := if w.level = 0 then w.dom / 512 else if w.level = 1 then w.dom / 4 else 0 }] }) ∧
      (3 ≤ w.level → ∃ t, exec .propagateWrite s = .next t ∧ t.bufs = s.bufs.eraseIdx s.unit ∧
        (∀ k, k < w.data.length → t.peekByte (w.pa + k) = w.data.getD k 0) ∧
        (∀ p, p < w.pa ∨ w.pa + w.data.length ≤ p → t.peekByte p = s.peekByte p)))) ∧
  (∀ (s : State) (r : WalkReq), s.walks[s.unit]? = some r →
    let cache := s.walkCacheOf r.die
    let early := ((s.walks.take s.unit).filter (fun x => x.die == r.die)).length < 16
    let hits (i : Instr) (a : WalkAsk) (e : TlbEnt) : Prop := ∃ t, exec i s = .next t ∧ t.walks = s.walks.eraseIdx s.unit ∧ t.mem = s.mem ∧
      t.lookup a.home ⟨a.desc, a.priv⟩ a.va a.write = some e
    (¬early → exec .tableWalk s = .next s ∧ exec .confirmingWalk s = .next s) ∧
    (r.confirm = true → exec .tableWalk s = .next s) ∧
    (r.confirm = false → exec .confirmingWalk s = .next s) ∧
    (∀ a, early → r.asks = [a] → r.confirm = false →
      (∀ e, s.walk cache ⟨a.desc, a.priv⟩ a.va a.write = .ok e → hits .tableWalk a e) ∧
      (∀ k l x p, s.walk cache ⟨a.desc, a.priv⟩ a.va a.write = .bad k l x p → ∃ t, exec .tableWalk s = .next t ∧
        t.walks = s.walks.set s.unit { r with confirm := true } ∧ t.mem = s.mem ∧ t.faults = s.faults) ∧
      (s.walk cache ⟨a.desc, a.priv⟩ a.va a.write = .torn → ∃ t, exec .tableWalk s = .next t ∧
        t.walks = s.walks.set s.unit { r with confirm := true } ∧ t.mem = s.mem ∧ t.faults = s.faults)) ∧
    (∀ a, early → r.asks = [a] → r.confirm = true →
      (∀ e, s.walk [] ⟨a.desc, a.priv⟩ a.va a.write = .ok e → hits .confirmingWalk a e) ∧
      (s.walk [] ⟨a.desc, a.priv⟩ a.va a.write = .torn → ∃ t, exec .confirmingWalk s = .next t ∧ t.walks = s.walks ∧ t.mem = s.mem ∧
        t.faults = s.faults ∧ ((Port.A, 0) ∈ t.irqs ∨ 0 ∈ t.portA.pend)) ∧
      (∀ k l x p q, s.walk [] ⟨a.desc, a.priv⟩ a.va a.write = .bad k l x p → a.desc ≠ 0 → s.pagerUp = true →
        s.sameFault r.asid r.gen a.va k = none → s.freeFault = some q → ∃ t, exec .confirmingWalk s = .next t ∧
          t.walks = s.walks.eraseIdx s.unit ∧ (t.faultAt q).live = true ∧ (t.faultAt q).kind = k ∧ (t.faultAt q).va = a.va ∧
          (t.faultAt q).desc = a.desc ∧ (t.faultAt q).write = a.write ∧ (t.faultAt q).fseq = s.fseq ∧ t.fseq = s.fseq + 1))) ∧
  (∀ (s : State) (w : Who) (va : Nat) (write : Bool), va < 2 ^ 55 →
    let d := w.root va
    let ent (p : Nat) : Word := BitVec.ofNat 64 (s.peekNat p 8)
    let base (e : Word) : Nat := (e.extractLsb' 16 36).toNat * 65536
    let ptr (e : Word) : Prop := e.extractLsb' 0 16 = 3 ∧ e.extractLsb' 52 4 = 0
    let whole (p : Nat) : Prop := ∀ q ∈ s.bad, q < p ∨ p + 8 ≤ q
    let a1 := (s.descUse d).ptroot.toNat + 8 * (va / 2 ^ 42 % 8192)
    let e1 := ent a1
    let a2 := base e1 + 8 * (va / 2 ^ 29 % 8192)
    let e2 := ent a2
    let a3 := base e2 + 8 * (va / 65536 % 8192)
    let e3 := ent a3
    (¬whole a1 → s.walk [] w va write = .torn) ∧
    (whole a1 → e1.getLsbD 0 = false → s.walk [] w va write = .bad 1 1 e1 a1) ∧
    (whole a1 → ptr e1 → ¬whole a2 → s.walk [] w va write = .torn) ∧
    (whole a1 → whole a2 → ptr e1 → ptr e2 → ¬whole a3 → s.walk [] w va write = .torn) ∧
    (whole a1 → whole a2 → whole a3 → ptr e1 → ptr e2 →
      (e3.getLsbD 0 = false → s.walk [] w va write = .bad 1 3 e3 a3) ∧
      (e3.extractLsb' 0 16 = 5 → e3.extractLsb' 52 4 = 0 → base e3 < 0xC000000000 → ∃ e, s.walk [] w va write = .ok e ∧
        e.pa + (va - e.va) = base e3 + va % 65536 ∧ e.w = true) ∧
      (e3.extractLsb' 0 16 = 1 → e3.extractLsb' 52 4 = 0 → base e3 < 0xC000000000 → write = true →
        s.walk [] w va write = .bad 2 3 e3 a3)))

namespace Sys2Proof.Machine

/-- In cell `c` of state `t` operation `o` is performed and off its queue, with these register writes and flags still to be
seen by its cell. -/
def Performed (t : State) (c : Nat) (o : PendOp) (w : List RegWrite) (ff : BitVec 6) (mf : BitVec 3) : Prop :=
  (t.cellAt c).done.getLast? = some ⟨o.id, o.area, o.desc, o.tok, o.det, w, ff, mf, false, o.kind.graphOf⟩ ∧ ∀ x ∈ (t.cellAt c).pend, x.id ≠ o.id

end Sys2Proof.Machine

/-- An operation that has been performed already, waits for the pager, or stands behind an earlier one of its queue, which for a plane's queue may be another cell's, is not performed. One that is
ready is: a load whose addresses hit completes with what it read, and one with a page that misses keeps the translations of those that hit; a store whose addresses hit puts its bytes in the stream buffers and leaves memory
alone, each element of a byte or more its value's low bytes from its translated address on; an atomic writes its new value and completes with the old one, and one that writes nothing leaves the old one; `flset` writes or adds to its flag;
`opnd` and `rlstat` complete with their words; `ptst` writes its word; `tlbi` leaves no matching
translation in any TLB; a fence that is passed goes. A plain copy from tile store to tile store reads a byte and then writes it
where its nest puts it. A copy completes once every
piece stands at its scope, and keeps a failure's status for its token. A multicast row enters each served link below the root, passes
from a buffer to a link below it, and leaves a cell's own buffer as it lands;
the last row of a bank ends its load. A completion that has left its cell's buffer leaves the cell's list, writes its registers unless the application has stopped, adds its flags and takes one off its token's count;
the last one under a detached token posts its completion. -/
def Obligations.Performing : Prop :=
  (∀ (s : State) (c k : Nat),
    let l := (s.cellAt c).pend
    (s.ready c k = none → ∀ part, exec (.performQueueHead c ⟨k, part⟩) s = .next s) ∧
    (∀ o, l[k]? = some o →
      (o.paused = true ∨ s.opPerformed o = true → s.ready c k = none) ∧
      ((∃ e ∈ l.take k, e.path = o.path ∧ e.que = o.que ∧ e.kind.isFence = false ∧ s.opPerformed e = false) → s.ready c k = none) ∧
      (o.path = .fabric → o.que < 1024 → (∃ x ∈ s.cells, ∃ e ∈ x.2.pend, e.path = .fabric ∧ e.que = o.que ∧ e.id < o.id ∧
        e.kind.isFence = false ∧ s.opPerformed e = false) → s.ready c k = none)) ∧
    (∀ o part, s.ready c k = some o →
      let does (p : State → Prop) : Prop := ∃ t, exec (.performQueueHead c ⟨k, part⟩) s = .next t ∧ p t
      (∀ d ty base els pz gather pol es, o.kind = .gload d ty base els pz gather pol → s.bad = [] →
        s.streamEnts c o (s.heldEnt c o gather) false (els.map (fun e => e.va)) = .ok es → does (fun t =>
          t.mem = s.mem ∧ t.bufs = s.bufs ∧ Performed t c o [.v d (overlay base ((els.zip (es.map paOf)).map (fun p =>
            (p.1.pos, p.1.bits, s.readNat (Party.ofCell c 0) 0 p.2 (elBytes p.1.bits) / 2 ^ p.1.sh))))] (if pz then 0x20 else 0) 0)) ∧
      (∀ d ty base els pz gather pol va x, o.kind = .gload d ty base els pz gather pol →
        let own := o.owns (s.heldEnt c o gather)
        s.streamEnts c o (s.heldEnt c o gather) false (els.map (fun e => e.va)) = .error va → s.opAt c o.id = some x → does (fun t =>
          t.mem = s.mem ∧ t.bufs = s.bufs ∧ ∃ es, t.opAt c o.id = some { x with pages := es } ∧
            ∀ p, p ∈ es ↔ ∃ e ∈ els, s.transOne (.bay (c / 512)) ⟨o.desc, o.priv⟩ own false e.va = some p)) ∧
      (∀ els pz gather pol es, o.kind = .gstore els pz gather pol →
        s.streamEnts c o (s.heldEnt c o gather) true (els.map (fun e => e.va)) = .ok es →
        (∀ q ∈ es, paOf q + 8 ≤ 0xC000000000) → (∀ e ∈ els, 8 ≤ e.bits ∧ e.bits ≤ 64) → does (fun t => t.mem = s.mem ∧
          (∃ new, t.bufs = s.bufs ++ new ∧
            (∀ w ∈ new, w.path = .stream ∧ w.que = o.que ∧ w.level = 0 ∧ w.dom = c ∧ w.cell = c ∧ w.op = o.id ∧ w.desc = o.desc) ∧
            new.flatMap (fun w => (upto w.pa w.data.length).zip w.data) = (els.zip (es.map paOf)).flatMap (fun p =>
              (upto p.2 (p.1.bits / 8)).zip (leBytes (p.1.bits / 8) p.1.val))))) ∧
      (∀ d pa aop ty scp sc b x, o.kind = .atom d pa aop ty scp sc b x →
        let n := atomBytes aop ty
        let r := atomNew aop ty (s.peekNat pa n) b x
        does (fun t => (∀ v, r.1 = some v → t.peekNat pa n = v % 256 ^ n) ∧ (r.1 = none → t.mem = s.mem) ∧
          (o.tok ≠ none → Performed t c o (atomWrites d aop ty (s.peekNat pa n)) r.2 0))) ∧
      (∀ i add v scp, o.kind = .flset i add v scp → does (fun t => t.flag i = (if add then s.flag i + v else v))) ∧
      (∀ d v, o.kind = .opnd d v → does (fun t => Performed t c o [.s d v] 0 0 ∧ t.mem = s.mem)) ∧
      (∀ d r ch, o.kind = .rlstat d r ch → does (fun t =>
        Performed t c o [.s d ((s.chanAt r ch).status o.desc o.priv)] 0 0 ∧ t.chans = s.chans)) ∧
      (∀ pa v, o.kind = .ptst pa v → does (fun t => t.peekNat pa 8 = v.toNat ∧ Performed t c o [] 0 0 ∧
        ∀ p, p < pa ∨ pa + 8 ≤ p → t.peekByte p = s.peekByte p)) ∧
      (∀ lo hi asid gen, o.kind = .tlbi lo hi asid gen → (∀ e ∈ l, e.id < o.id → ∀ p v, e.kind ≠ .ptst p v) → does (fun t =>
        t.mem = s.mem ∧ Performed t c o [] 0 0 ∧ ∀ h, ∀ e ∈ (t.tlbOf h).ents, e.2.inRange asid (some gen) lo hi = false)) ∧
      (∀ pb pa scp kind str on, o.kind = .fence pb pa scp kind str on →
        s.fencePassed c (earlier l o.id) o = true → does (fun t => ∀ x ∈ (t.cellAt c).pend, x.id ≠ o.id)))) ∧
  (∀ (s : State) (c k : Nat),
    (s.copyAt c k = none → ∀ i n, exec (.copyBurstLand c k ⟨i, n⟩) s = .next s) ∧
    (∀ (o : PendOp) (p : CopyPkt) (scp pol fl i : Nat) (g : CopyProg), s.copyAt c k = some o → s.opAt c o.id = some o →
      o.kind = .copy p scp pol g 0 fl → p.brv = false → p.ctl.extractLsb' 0 7 = 3 → (s.cellAt c).bad = [] →
        let src := byteAt (p.from i)
        let dst := byteAt (p.to i)
        let at' (x : CopyProg) : Option PendOp := some { o with kind := .copy p scp pol x 0 fl }
        (g.awaits i = true → (∀ q ∈ g.got, q.idx ≠ i) → ∃ t, exec (.copyBurstLand c k ⟨i, 1⟩) s = .next t ∧
          t.opAt c o.id = at' { g with left := without i g.left, got := g.got ++ [⟨i, [g.seen src (tget 0 (s.cellAt c).ts src)], []⟩] } ∧
          (t.cellAt c).ts = (s.cellAt c).ts ∧ t.mem = s.mem ∧ t.bufs = s.bufs) ∧
        (∀ b, g.got = [⟨i, [b], []⟩] → p.covers dst = false → ∃ t, exec (.copyBurstLand c k ⟨i, 1⟩) s = .next t ∧
          tget 0 (t.cellAt c).ts dst = b ∧ (∀ q, q ≠ dst → tget 0 (t.cellAt c).ts q = tget 0 (s.cellAt c).ts q) ∧
          t.opAt c o.id = at' { g with got := [], del := g.del + 1 } ∧
          t.mem = s.mem ∧ t.bufs = s.bufs))) ∧
  (∀ (s : State) (c k : Nat) (o : PendOp) (p : CopyPkt) (scp pol st fl : Nat) (g : CopyProg), (s.cellAt c).pend[k]? = some o →
    o.kind = .copy p scp pol g st fl →
      (o.paused = true ∨ s.copyReady c o = false → exec (.copyComplete c k) s = .next s) ∧
      (o.paused = false → s.copyReady c o = true → ∀ tok, o.tok = some tok → o.det = none → ∃ t, exec (.copyComplete c k) s = .next t ∧
        (∀ x ∈ (t.cellAt c).pend, x.id ≠ o.id) ∧
        (∃ d, (t.cellAt c).done.getLast? = some d ∧ d.id = o.id ∧ (d.failed = true ↔ st ≠ 0)) ∧
        (st ≠ 0 → st < 256 → (tget (⟨0, 0⟩ : CopyStat) (s.appOf o.area c).cstat tok).code = 0 →
          tget (⟨0, 0⟩ : CopyStat) (t.appOf o.area c).cstat tok = ⟨BitVec.ofNat 8 st, g.del⟩))) ∧
  (∀ (s : State) (i g c level node : Nat) (j : McJoin) (r : McRow) (rest : List McRow),
    let a := (s.areaAt i).mcClean
    let below := a.mcBelow g j.k j.cell a.level a.rootNode
    (a.mcCurrent g = some j → j.strm.rc.ts = true → s.sendFree j.cell j.op = true →
      (∀ n ∈ below, (a.bufOf g (a.level - 1) n).rows.length < 8) → ∃ t, exec (.multicastRowMove i g .fromSender) s = .next t ∧
        (∃ x ∈ (t.areaAt i).joins, x.cell = j.cell ∧ x.k = j.k ∧ x.sent = j.sent + 1) ∧
        (∀ n ∈ below, ((t.areaAt i).bufOf g (a.level - 1) n).rows =
          (a.bufOf g (a.level - 1) n).rows ++ [⟨j.k, j.sent, j.rows.getD j.sent VecVal.zero, []⟩])) ∧
    (a.mcNext (a.bufOf g (level + 1) (node / 2)) node = none → exec (.multicastRowMove i g (.fromBuffer level node)) s = .next s) ∧
    (a.mcNext (a.bufOf g (level + 1) (node / 2)) node = some r → (a.bufOf g level node).rows.length < 8 → ∃ t,
        exec (.multicastRowMove i g (.fromBuffer level node)) s = .next t ∧ (t.areaAt i).joins = a.joins ∧
          ∃ x ∈ ((t.areaAt i).bufOf g level node).rows, x.send = r.send ∧ x.row = r.row ∧ x.val = r.val) ∧
    ((a.bufOf g 0 c).rows = [] → exec (.multicastRowLand i g c) s = .next s) ∧
    ((a.bufOf g 0 c).rows = r :: rest → s.opFree c j.op = true →
      a.joins.find? (fun x => x.grp == g && x.k == r.send && x.cell == c && x.role != 0) = some j →
      ∃ t, exec (.multicastRowLand i g c) s = .next t ∧ ((t.areaAt i).bufOf g 0 c).rows = rest ∧
        (j.role = 1 → (t.cellAt c).ts =
          ((s.cellAt c).storeEls (storePlan j.strm.rc j.ty.toNat (rowLanes j.strm j.ty.toNat r.row).1 r.val).1).ts) ∧
        (j.role = 2 → j.sent = j.nrow → ∀ o, s.opAt c j.op = some o →
          Performed t c o [.b j.bank (Bank.ofRows j.ty (j.rows ++ [r.val]))] 0 0))) ∧
  (∀ (s : State) (c k : Nat) (d : DoneOp), (s.cellAt c).done[k]? = some d →
    let a := s.appOf d.area c
    (s.inCell c d.id = true → exec (.asyncCompletion c k) s = .next s) ∧
    (∀ tok, s.inCell c d.id = false → d.det = none → d.tok = some tok → s.appLive d.area = true → ∃ t, exec (.asyncCompletion c k) s = .next t ∧
      let b := t.appOf d.area c
      (t.cellAt c).done = (s.cellAt c).done.eraseIdx k ∧ b.getT tok = a.getT tok - 1 ∧ b.fflags = a.fflags ||| d.fflags ∧
      b.mflags = a.mflags ||| d.mflags ∧ b.pc = a.pc ∧ t.mem = s.mem ∧ (a.stopped = true → b.s = a.s ∧ b.v = a.v) ∧
      (∀ n w, a.stopped = false → d.writes = [.s n w] → n ≠ 0 → b.getS n = w) ∧
      (∀ n w, a.stopped = false → d.writes = [.v n w] → b.getV n = w) ∧
      (a.getT tok = 1 → ∀ m ∈ b.marks, m.det ≠ none ∨ m.tok ≠ tok)) ∧
    (∀ tid bad, s.inCell c d.id = false → d.det = some tid → (s.ctxAt d.desc).detached = [(tid, 1, bad)] → ∃ t, exec (.asyncCompletion c k) s = .next t ∧
      (t.ctxAt d.desc).compl = (s.ctxAt d.desc).compl ++ [⟨false, tid, 0, tokSym (bad || d.failed)⟩] ∧
      (t.ctxAt d.desc).detached = []))

namespace Sys2Proof.Machine

/-- The log record of an error: serial number, unit, index, address and class (R381). -/
def LogRecord (n : BitVec 32) (u : ErrUnit) (idx addr cls : Nat) : List Byte :=
  leBytes 4 n.toNat ++ leBytes 4 (errUnitCode u) ++ leBytes 4 idx ++ leBytes 4 0 ++ leBytes 8 addr ++ leBytes 4 cls ++ leBytes 4 0

/-- In `t` the error is the newest record of the ring of 4,096, and no byte of memory outside it differs from `s`. -/
def Logged (s t : State) (u : ErrUnit) (idx addr cls : Nat) : Prop :=
  let a := Config.errorLogBase + 32 * (s.board.elogN.toNat % 4096)
  t.peek a 32 = LogRecord s.board.elogN u idx addr cls ∧ t.board.elogN = s.board.elogN + 1 ∧
    ∀ p, p < a ∨ a + 32 ≤ p → t.peekByte p = s.peekByte p

end Sys2Proof.Machine

/-- A failed flit is sent again, up to eight times, a flit that fails for the first time being counted anew (assumption 89); when it has failed and its eight retries have
too, the link retrains, and a retrain that fails raises the machine-check vector (at both ports, assumption 10). A port that resets is down, one that comes up again is up, but for one that bring-up found down; a message to a module out of reach is refused
and its channel stops with LINK. A host's write and a peer's write land in HBM, a peer's below the flag region only; a port reset frees the semaphores held through the
port. That the flag region alone is closed to a peer is assumption 88. Each error is logged, in the layout of assumption 5; a corrected one changes no value; an uncorrectable one marks its byte or stops its context, or raises the
machine check; that one in a microprogram cache leaves its word free, one in a home line of the stage cache marks the byte and a guest line is dropped is assumption 91. A cell with 16 corrected errors within an hour (its cycles are assumption 90), or an uncorrectable one, is due for retirement, and retired at once where its strand is free and marked otherwise. The power step moves by 1 under `pen`
between 95 % of the cap and the cap, the thermal step between 95 and 100 degrees, and 110 degrees stop the clocks: then no move but a cold start does anything.
A cold start without an accepted manifest ends in recovery at step 2, one with a bad component at step 3, any other at step 9
with the windows opened. How the free choices of training and of firmware fall is the model's (assumptions 2 and 6). That a cold start keeps flash and the map of retired
cells is assumption 92, and that nothing but a cold start acts after a trip assumption 94. -/
def Obligations.LinksErrorsPower : Prop :=
  (∀ (s : State),
    let u := s.unit
    (∃ t, exec .flitCrcRetry s = .next t ∧
      (tget 0 s.board.retries u < 9 →
        tget 0 t.board.retries u = tget 0 s.board.retries u + 1 ∨ tget 0 t.board.retries u = 1) ∧
      (9 ≤ tget 0 s.board.retries u → t = s) ∧
      (∀ k, k ≠ u → tget 0 t.board.retries k = tget 0 s.board.retries k) ∧ t.irqs = s.irqs ∧ t.mem = s.mem) ∧
    (∀ k ok, tget 0 s.board.retries k < 9 → exec (.linkRetrain k ok) s = .next s) ∧
    (∀ k ok, 9 ≤ tget 0 s.board.retries k →
      let t : State := { s with board := { s.board with retries := tset 0 s.board.retries k 0 } }
      exec (.linkRetrain k ok) s = .next (if ok then t else (t.raiseVec .A 0).raiseVec .B 0)) ∧
    (u < 16 → ∃ t, exec .portReset s = .next t ∧ u ∉ t.board.portUp ∧ (∀ p, p ≠ u → (p ∈ t.board.portUp ↔ p ∈ s.board.portUp)) ∧
      t.mem = s.mem ∧ ∀ r c, (s.chanAt r c).busy = false → t.chanAt r c = s.chanAt r c) ∧
    (u ∈ s.board.bootDown → exec .portUpResend s = .next s) ∧
    (u < 16 → u ∉ s.board.portUp → u ∉ s.board.bootDown → ∃ t, exec .portUpResend s = .next t ∧ t.board.portUp = s.board.portUp ++ [u] ∧
      t.chans = s.chans ∧ t.mem = s.mem ∧ s.msgs <+: t.msgs ∧ s.outbox <+: t.outbox ∧ s.refused <+: t.refused) ∧
    (∀ m, s.refused[u]? = some m → ∃ t, exec .linkRefusal s = .next t ∧
      (m.kind = .abort → t = { s with refused := s.refused.eraseIdx u }) ∧
      (m.kind ≠ .abort → (s.chanAt m.fromReel m.fromChan).busy = true →
        (t.chanAt m.fromReel m.fromChan).st = .stopped ∧ (t.chanAt m.fromReel m.fromChan).ecode = 7)) ∧
    (s.refused[u]? = none → exec .linkRefusal s = .next s)) ∧
  (∀ (s : State) (p : Port) (pa : Nat) (bs : List Byte), pa + bs.length ≤ 0xC000000000 →
    (s.board.opened = true → ∃ t, exec (.inboundPortWrite p pa bs) s = .next t ∧ t.peek pa bs.length = bs ∧
      ∀ q, q < pa ∨ pa + bs.length ≤ q → t.peekByte q = s.peekByte q) ∧
    (s.board.opened = false → exec (.inboundPortWrite p pa bs) s = .next s) ∧
    (let part := bs.take (0xBFFFF80000 - pa)
     ∃ t, exec (.peerInboundRequest (.write pa bs)) s = .next t ∧ t.peek pa part.length = part ∧
      ∀ q, q < pa ∨ pa + part.length ≤ q → t.peekByte q = s.peekByte q) ∧
    (∃ t, exec (.peerInboundRequest (.read pa 8)) s = .next t ∧ t.mem = s.mem ∧
      (pa + 8 ≤ 0xC000000000 → t.lastRead.toNat = s.peekNat pa 8)) ∧
    (∃ t, exec (.pciExpressPortReset p) s = .next t ∧ t.sems = s.sems.filter (fun q => !(q.2.held && q.2.port == p)) ∧
      t.mem = s.mem ∧ t.chans = s.chans) ∧
    (∀ a, exec (.dynamicAddressAssignment a) s = .next { s with board := { s.board with maryon := some a } })) ∧
  (∀ (s : State),
    (∀ u i a, ∃ t, exec (.correctedError u i a) s = .next t ∧ Logged s t u i a 0 ∧ t.irqs = s.irqs ∧ t.bad = s.bad.filter (fun p =>
        !(Config.errorLogBase + 32 * (s.board.elogN.toNat % 4096) ≤ p && p < Config.errorLogBase + 32 * (s.board.elogN.toNat % 4096) + 32)) ∧
      ((u = .register ∨ u = .slot ∨ u = .tileStore ∨ u = .programCache ∨ u = .outSlot) →
        let l := s.cyc :: (s.cellAt i).errs.filter (fun t => decide (s.cyc < t + 6840000000000))
        t.cellAt i = { s.cellAt i with errs := l, due := (s.cellAt i).due || decide (16 ≤ l.length) })) ∧
    (∀ c d, s.ctxOfCell c = some d → strandOf c ≠ 127 → (s.ctxAt d).stopped = false → (s.ctxAt d).ending = .no →
      exec (.uncorrectableError (.slot c)) s = .next ((s.softError .slot c 0 true).rowFault d 1)) ∧
    (∀ c, strandOf c = 127 → exec (.uncorrectableError (.slot c)) s = .next ((s.softError .slot c 0 true).machineCheck)) ∧
    (∀ c o, ∃ t, exec (.uncorrectableError (.tileByte c o)) s = .next t ∧ Logged s t .tileStore c o 1 ∧ o ∈ (t.cellAt c).bad ∧
      (t.cellAt c).due = true ∧ ∀ k, k ≠ o → tget 0 (t.cellAt c).ts k = tget 0 (s.cellAt c).ts k) ∧
    (∀ pa, pa < 0xC000000000 → ∃ t, exec (.uncorrectableError (.memByte pa)) s = .next t ∧ pa ∈ t.bad ∧
      (s.inTable pa = true → (Port.A, 0) ∈ t.irqs ∨ 0 ∈ t.portA.pend)) ∧
    (∀ b pa,
      ((∀ l ∈ (s.bayAt b).lines, l.num ≠ pa / 128) → exec (.uncorrectableError (.stageByte b pa)) s = .next s) ∧
      ((∃ l ∈ (s.bayAt b).lines, l.num = pa / 128) → b = homeSlice pa → ∃ t, exec (.uncorrectableError (.stageByte b pa)) s = .next t ∧
        pa ∈ t.bad ∧ t.board.elogN = s.board.elogN + 1 ∧ (s.inTable pa = true → (Port.A, 0) ∈ t.irqs ∨ 0 ∈ t.portA.pend)) ∧
      ((∃ l ∈ (s.bayAt b).lines, l.num = pa / 128) → b ≠ homeSlice pa → ∃ t, exec (.uncorrectableError (.stageByte b pa)) s = .next t ∧
        Logged s t .stageCache (pa / 2 ^ 36) pa 1 ∧ (t.bayAt b).lines = (s.bayAt b).lines.filter (fun l => l.num != pa / 128))) ∧
    (∀ c n k, ∃ t x, exec (.uncorrectableError (.program c n k)) s = .next t ∧ Logged s t .programCache c (512 * n + 8 * k) 1 ∧
      t.cellAt c = { s.cellAt c with cache := (s.cellAt c).cache.modify n (fun g => { g with code := g.code.set k x }) } ∧
      (strandOf c = 127 → (Port.A, 0) ∈ t.irqs ∨ 0 ∈ t.portA.pend)) ∧
    (∀ n k, ∃ t x, exec (.uncorrectableError (.hubProgram n k)) s = .next t ∧ Logged s t .programCache 0xFFFF (512 * n + 8 * k) 1 ∧
      t.hubCache = s.hubCache.modify n (fun g => { g with code := g.code.set k x })) ∧
    (let c := s.unit
     (c < 8192 → (s.cellAt c).due = true → c ∉ s.board.retireMap → ∃ t, exec .cellRetirement s = .next t ∧
        t.board.retireMap = s.board.retireMap ++ [c] ∧ (s.freeStrand (strandOf c) = true → (t.cellAt c).retired = true) ∧
        (s.freeStrand (strandOf c) = false → (t.cellAt c).marked = true ∧ (t.cellAt c).retired = (s.cellAt c).retired)) ∧
     ((s.cellAt c).due = false → exec .cellRetirement s = .next s))) ∧
  (∀ (s : State),
    let b := s.board
    let moves (i : Instr) (p : Prop) (b' : Board) : Prop := (p → exec i s = .next { s with board := b' }) ∧ (¬p → exec i s = .next s)
    moves .powerStepRise (b.pen = true ∧ b.cap.toNat < b.lastW ∧ b.pstep < 26) { b with pstep := b.pstep + 1 } ∧
    moves .powerStepFall (b.pen = true ∧ b.lastW * 100 < b.cap.toNat * 95) { b with pstep := b.pstep - 1 } ∧
    moves .thermalStepRise (100 < b.lastHot ∧ b.tstep < 26) { b with tstep := b.tstep + 1 } ∧
    moves .thermalStepFall (b.lastHot ≤ 95) { b with tstep := b.tstep - 1 } ∧
    moves .thermalTrip (110 ≤ b.lastHot) { b with tripped := true, trip := true } ∧
    (∀ m rest, b.tripped = true → s.agenda = m :: rest → m.acc = none →
      ((∀ u, m ≠ .event .coldStart u) → step s = .next { s with agenda := rest }) ∧
      (∀ u, m = .event .coldStart u → step s = exec .coldStart { s with agenda := rest, unit := u }))) ∧
  (∀ (s : State), ∃ t, exec .coldStart s = .next t ∧
    (s.board.manifest = none → t.board.boot = 2 ∧ t.board.recovery = true ∧ t.board.opened = false ∧ t.board.tripped = false ∧
      t.board.flash = s.board.flash ∧ t.board.retireMap = s.board.retireMap ∧ t.ctxs = [] ∧ t.queues = []) ∧
    (∀ es d, s.board.manifest = some (es, d) →
      ((∃ e ∈ es, s.board.componentOk e = false) → t.board.boot = 3 ∧ t.board.recovery = true ∧ t.board.opened = false) ∧
      ((∀ e ∈ es, s.board.componentOk e = true) → t.board.boot = 9 ∧ t.board.opened = true)))

/-- When memory lists its bytes by rising address, none of them 0, then so does it after any step, whatever moves next:
an instruction of a cell or a reel, a host access, an event of the hardware or a write of a host to its own memory. That an
unlisted byte reads as 0 is the model's choice (assumption 7). -/
def Obligations.MemoryCanonicalStep : Prop :=
  ∀ s t : State, Memory.wf s.mem = true → step s = .next t → Memory.wf t.mem = true

/-- Memory lists nothing and is in its canonical form; no descriptor is valid and none has an ASID bound (0xFFFF); no queue is enabled and none
has an error; every semaphore is free; no refused access is logged; every MSI-X vector is as it is at reset, the cap is 3,200 W and enabled, both
steps are 0 and the clock runs; no fault-table entry is live; the windows are closed and no port is up. That a descriptor is not valid,
that no fault entry is live and that MSI-X is off at reset is the model's choice (assumption 6), as is what unwritten memory holds
(assumption 7). -/
def Obligations.ResetState : Prop :=
  Memory.wf State.reset.mem = true ∧ State.reset.mem = [] ∧
  (∀ d, (State.reset.descAt d).valid = false ∧ (State.reset.descAt d).basid = 0xFFFF) ∧
  (∀ q, (State.reset.queueAt q).en = false ∧ (State.reset.queueAt q).errv = false ∧ (State.reset.queueAt q).ecause = 0) ∧
  (∀ k, (State.reset.semAt k).held = false) ∧
  (∀ p, (State.reset.portAt p).ev = false ∧ (State.reset.portAt p).eovf = false ∧ (State.reset.portAt p).eoff = 0 ∧
    (State.reset.portAt p).msix = false) ∧
  State.reset.board.cap = 3200 ∧ State.reset.board.pen = true ∧ State.reset.board.pstep = 0 ∧ State.reset.board.tstep = 0 ∧
  State.reset.board.tripped = false ∧ State.reset.board.opened = false ∧ State.reset.board.portUp = [] ∧
  (∀ k, (State.reset.faultAt k).live = false) ∧ State.reset.areas = [] ∧ State.reset.ctxs = []
end

