-- ==== Sys2Proof/Laws/Table.lean ====
section
/-! SUPPORT. Sparse tables: reading after a write, and the canonical form that every write keeps. -/

namespace Sys2Proof.Machine

open Sys2Proof

variable {α : Type}

/-- A canonical table stays canonical under a lower bound. -/
theorem tcanonFrom_le (d : α) [DecidableEq α] (t : Tbl α) (lo lo' : Nat) (h : lo' ≤ lo)
    (hc : tcanonFrom d lo t = true) : tcanonFrom d lo' t = true := by
  match t with
  | [] => rfl
  | (k', v) :: r =>
    simp only [tcanonFrom, Bool.and_eq_true, decide_eq_true_eq] at hc ⊢
    exact ⟨⟨by omega, hc.1.2⟩, hc.2⟩

/-- Dropping keys up to `k` does nothing to a table whose keys lie above. -/
theorem dropWhile_canon (d : α) [DecidableEq α] (t : Tbl α) (k : Nat) (hc : tcanonFrom d (k + 1) t = true) :
    t.dropWhile (fun e => decide (e.1 ≤ k)) = t := by
  match t with
  | [] => rfl
  | (k', v) :: r =>
    simp only [tcanonFrom, Bool.and_eq_true, decide_eq_true_eq] at hc
    have h : ¬k' ≤ k := by omega
    simp [List.dropWhile, h]

/-- A write keeps the canonical form. -/
theorem tset_canonFrom (d : α) [DecidableEq α] (t : Tbl α) (lo k : Nat) (v : α) (hk : lo ≤ k)
    (hc : tcanonFrom d lo t = true) : tcanonFrom d lo (tset d t k v) = true := by
  induction t generalizing lo with
  | nil => by_cases hv : v = d <;> simp [tset, tcanonFrom, hv, hk]
  | cons e r ih =>
    obtain ⟨k', v'⟩ := e
    simp only [tcanonFrom, Bool.and_eq_true, decide_eq_true_eq] at hc
    obtain ⟨⟨h1, h2⟩, h3⟩ := hc
    by_cases hlt : k < k'
    · by_cases hv : v = d
      · simp [tset, hlt, hv, tcanonFrom, h1, h2, h3]
      · have h4 : k + 1 ≤ k' := by omega
        simp only [tset, hlt, ↓reduceIte, hv, tcanonFrom, Bool.and_eq_true, decide_eq_true_eq]
        exact ⟨⟨hk, hv⟩, ⟨h4, h2⟩, h3⟩
    · by_cases he : k = k'
      · subst he
        by_cases hv : v = d
        · simp only [tset, Nat.lt_irrefl, ↓reduceIte, hv, dropWhile_canon d r k h3]
          exact tcanonFrom_le d r (k + 1) lo (by omega) h3
        · simp [tset, hv, tcanonFrom, hk, h3]
      · simp [tset, hlt, he, tcanonFrom, h1, h2, ih (k' + 1) (by omega) h3]

theorem tset_canon (d : α) [DecidableEq α] (t : Tbl α) (k : Nat) (v : α) (hc : tcanon d t = true) :
    tcanon d (tset d t k v) = true := tset_canonFrom d t 0 k v (Nat.zero_le k) hc

theorem tmod_canon (d : α) [DecidableEq α] (t : Tbl α) (k : Nat) (f : α → α) (hc : tcanon d t = true) :
    tcanon d (tmod d t k f) = true := tset_canon d t k _ hc

theorem tsetRun_canon (d : α) [DecidableEq α] (t : Tbl α) (k : Nat) (vs : List α) (hc : tcanon d t = true) :
    tcanon d (tsetRun d t k vs) = true := by
  induction vs generalizing t k with
  | nil => exact hc
  | cons v vs ih => exact ih _ _ (tset_canon d t k v hc)

/-- Past the dropped keys stands nothing for `k`. -/
theorem tget_dropWhile_same (d : α) (t : Tbl α) (k : Nat) :
    tget d (t.dropWhile (fun e => decide (e.1 ≤ k))) k = d := by
  induction t with
  | nil => rfl
  | cons e r ih =>
    obtain ⟨k', v'⟩ := e
    by_cases h : k' ≤ k
    · simpa [List.dropWhile, h] using ih
    · have h1 : ¬k = k' := by omega
      have h2 : k < k' := by omega
      simp [List.dropWhile, h, tget, h1, h2]

/-- Dropped keys do not show at a larger key. -/
theorem tget_dropWhile_above (d : α) (t : Tbl α) (k j : Nat) (h : k < j) :
    tget d (t.dropWhile (fun e => decide (e.1 ≤ k))) j = tget d t j := by
  induction t with
  | nil => rfl
  | cons e r ih =>
    obtain ⟨k', v'⟩ := e
    by_cases hk : k' ≤ k
    · have h1 : ¬j = k' := by omega
      have h2 : ¬j < k' := by omega
      simp only [List.dropWhile, hk, decide_true, tget, h1, h2, if_false]
      exact ih
    · simp [List.dropWhile, hk]

/-- Past the dropped keys stands nothing for a smaller key. -/
theorem tget_dropWhile_below (d : α) (t : Tbl α) (k j : Nat) (h : j < k) :
    tget d (t.dropWhile (fun e => decide (e.1 ≤ k))) j = d := by
  induction t with
  | nil => rfl
  | cons e r ih =>
    obtain ⟨k', v'⟩ := e
    by_cases hk : k' ≤ k
    · simpa [List.dropWhile, hk] using ih
    · have h1 : ¬j = k' := by omega
      have h2 : j < k' := by omega
      simp [List.dropWhile, hk, tget, h1, h2]

/-- Reading what was written. -/
@[simp] theorem tget_tset_same (d : α) [DecidableEq α] (t : Tbl α) (k : Nat) (v : α) : tget d (tset d t k v) k = v := by
  induction t with
  | nil => by_cases hv : v = d <;> simp [tset, tget, hv]
  | cons e r ih =>
    obtain ⟨k', v'⟩ := e
    by_cases hlt : k < k'
    · have hne : ¬k = k' := by omega
      by_cases hv : v = d <;> simp [tset, hlt, hv, tget, hne]
    · by_cases he : k = k'
      · subst he
        by_cases hv : v = d
        · simp only [tset, Nat.lt_irrefl, ↓reduceIte, hv]
          exact tget_dropWhile_same d r k
        · simp [tset, hv, tget]
      · simp [tset, hlt, he, tget, ih]

/-- A write leaves every other key alone. -/
theorem tget_tset_other (d : α) [DecidableEq α] (t : Tbl α) (k j : Nat) (v : α) (hj : j ≠ k) :
    tget d (tset d t k v) j = tget d t j := by
  induction t with
  | nil => by_cases hv : v = d <;> simp [tset, tget, hv, hj]
  | cons e r ih =>
    obtain ⟨k', v'⟩ := e
    by_cases hlt : k < k'
    · by_cases hv : v = d
      · simp [tset, hlt, hv]
      · by_cases hjk : j < k
        · have h4 : ¬j = k' := by omega
          have h5 : j < k' := by omega
          simp [tset, hlt, hv, tget, hj, hjk, h4, h5]
        · simp [tset, hlt, hv, tget, hj, hjk]
    · by_cases he : k = k'
      · subst he
        by_cases hv : v = d
        · simp only [tset, Nat.lt_irrefl, ↓reduceIte, hv, tget, hj]
          by_cases hjk : j < k
          · simp [hjk, tget_dropWhile_below d r k j hjk]
          · simp [hjk, tget_dropWhile_above d r k j (by omega)]
        · simp [tset, hv, tget, hj]
      · simp only [tset, hlt, he, tget, ↓reduceIte]
        rw [ih]

/-- A table read at any key after a write. -/
theorem tget_tset (d : α) [DecidableEq α] (t : Tbl α) (k j : Nat) (v : α) :
    tget d (tset d t k v) j = if j = k then v else tget d t j := by
  by_cases h : j = k
  · subst h; simp
  · simp [h, tget_tset_other d t k j v h]

/-- A run leaves every key outside it alone. -/
theorem tget_tsetRun_outside (d : α) [DecidableEq α] (t : Tbl α) (k j : Nat) (vs : List α)
    (hj : j < k ∨ k + vs.length ≤ j) : tget d (tsetRun d t k vs) j = tget d t j := by
  induction vs generalizing t k with
  | nil => rfl
  | cons v vs ih =>
    simp only [List.length_cons] at hj
    rw [tsetRun, ih _ _ (by omega), tget_tset_other d t k j v (by omega)]

/-- A run reads back. -/
theorem tget_tsetRun_inside (d : α) [DecidableEq α] (t : Tbl α) (k j : Nat) (vs : List α)
    (hj : j < vs.length) : tget d (tsetRun d t k vs) (k + j) = vs[j] := by
  induction vs generalizing t k j with
  | nil => simp at hj
  | cons v vs ih =>
    rw [tsetRun]
    cases j with
    | zero =>
      show tget d (tsetRun d (tset d t k v) (k + 1) vs) k = v
      rw [tget_tsetRun_outside d _ (k + 1) k vs (by omega)]
      exact tget_tset_same d t k v
    | succ j =>
      have := ih (tset d t k v) (k + 1) j (by simpa using hj)
      simpa [Nat.add_assoc, Nat.add_comm 1 j] using this

theorem length_tgetRun (d : α) (t : Tbl α) (k n : Nat) : (tgetRun d t k n).length = n := by
  induction n generalizing k with
  | zero => rfl
  | succ n ih => simp [tgetRun, ih]

/-- A run written and read again. -/
theorem tgetRun_tsetRun (d : α) [DecidableEq α] (t : Tbl α) (k : Nat) (vs : List α) :
    tgetRun d (tsetRun d t k vs) k vs.length = vs := by
  induction vs generalizing t k with
  | nil => rfl
  | cons v vs ih =>
    have h := tget_tsetRun_inside d t k 0 (v :: vs) (by simp)
    simp only [Nat.add_zero, List.getElem_cons_zero] at h
    rw [List.length_cons, tgetRun, h, tsetRun, ih]

/-- A write made of its table's own value at the key is no change of what is read anywhere. -/
theorem tget_tset_self (d : α) [DecidableEq α] (t : Tbl α) (k j : Nat) : tget d (tset d t k (tget d t k)) j = tget d t j := by
  by_cases h : j = k
  · subst h; simp
  · exact tget_tset_other d t k j _ h

/-! ### Little-endian bytes (R2) -/

@[simp] theorem length_leBytes (n x : Nat) : (leBytes n x).length = n := by
  induction n generalizing x with
  | zero => rfl
  | succ n ih => simp [leBytes, ih]

theorem leNat_leBytes (n x : Nat) : leNat (leBytes n x) = x % 256 ^ n := by
  induction n generalizing x with
  | zero => simp [leBytes, leNat, Nat.mod_one]
  | succ n ih =>
    simp only [leBytes, leNat, ih, BitVec.toNat_ofNat]
    rw [show (256 : Nat) ^ (n + 1) = 256 * 256 ^ n by rw [Nat.pow_succ, Nat.mul_comm], Nat.mod_mul]

theorem leNat_lt (bs : List Byte) : leNat bs < 256 ^ bs.length := by
  induction bs with
  | nil => simp [leNat]
  | cons b bs ih =>
    have := b.isLt
    simp only [leNat, List.length_cons, Nat.pow_succ]
    omega

theorem length_upto (k n : Nat) : (upto k n).length = n := by
  induction n generalizing k with
  | zero => rfl
  | succ n ih => simp [upto, ih]

theorem mem_upto (k n x : Nat) : x ∈ upto k n ↔ k ≤ x ∧ x < k + n := by
  induction n generalizing k with
  | zero =>
    simp only [upto, List.not_mem_nil, false_iff]
    omega
  | succ n ih =>
    simp only [upto, List.mem_cons, ih]
    omega

end Sys2Proof.Machine
end

