-- ==== Sys2Proof/Laws/State.lean ====
section
/-! SUPPORT. One lemma for each field of State under each update of an indexed table, true by rfl. -/

namespace Sys2Proof.Machine

open Sys2Proof

variable (s : State)

@[simp] theorem State.putCell_agenda (c : Nat) (x : Cell) : (s.putCell c x).agenda = s.agenda := rfl
@[simp] theorem State.putCell_cur (c : Nat) (x : Cell) : (s.putCell c x).cur = s.cur := rfl
@[simp] theorem State.putCell_curReel (c : Nat) (x : Cell) : (s.putCell c x).curReel = s.curReel := rfl
@[simp] theorem State.putCell_curChan (c : Nat) (x : Cell) : (s.putCell c x).curChan = s.curChan := rfl
@[simp] theorem State.putCell_unit (c : Nat) (x : Cell) : (s.putCell c x).unit = s.unit := rfl
@[simp] theorem State.putCell_nfree (c : Nat) (x : Cell) : (s.putCell c x).nfree = s.nfree := rfl
@[simp] theorem State.putCell_nextArea (c : Nat) (x : Cell) : (s.putCell c x).nextArea = s.nextArea := rfl
@[simp] theorem State.putCell_nextOp (c : Nat) (x : Cell) : (s.putCell c x).nextOp = s.nextOp := rfl
@[simp] theorem State.putCell_lastRead (c : Nat) (x : Cell) : (s.putCell c x).lastRead = s.lastRead := rfl
@[simp] theorem State.putCell_cyc (c : Nat) (x : Cell) : (s.putCell c x).cyc = s.cyc := rfl
@[simp] theorem State.putCell_board (c : Nat) (x : Cell) : (s.putCell c x).board = s.board := rfl
@[simp] theorem State.putCell_portA (c : Nat) (x : Cell) : (s.putCell c x).portA = s.portA := rfl
@[simp] theorem State.putCell_portB (c : Nat) (x : Cell) : (s.putCell c x).portB = s.portB := rfl
@[simp] theorem State.putCell_hub (c : Nat) (x : Cell) : (s.putCell c x).hub = s.hub := rfl
@[simp] theorem State.putCell_asgen (c : Nat) (x : Cell) : (s.putCell c x).asgen = s.asgen := rfl
@[simp] theorem State.putCell_sems (c : Nat) (x : Cell) : (s.putCell c x).sems = s.sems := rfl
@[simp] theorem State.putCell_queues (c : Nat) (x : Cell) : (s.putCell c x).queues = s.queues := rfl
@[simp] theorem State.putCell_descs (c : Nat) (x : Cell) : (s.putCell c x).descs = s.descs := rfl
@[simp] theorem State.putCell_irqs (c : Nat) (x : Cell) : (s.putCell c x).irqs = s.irqs := rfl
@[simp] theorem State.putCell_ctxs (c : Nat) (x : Cell) : (s.putCell c x).ctxs = s.ctxs := rfl
@[simp] theorem State.putCell_areas (c : Nat) (x : Cell) : (s.putCell c x).areas = s.areas := rfl
@[simp] theorem State.putCell_bays (c : Nat) (x : Cell) : (s.putCell c x).bays = s.bays := rfl
@[simp] theorem State.putCell_birth (c : Nat) (x : Cell) : (s.putCell c x).birth = s.birth := rfl
@[simp] theorem State.putCell_hubCache (c : Nat) (x : Cell) : (s.putCell c x).hubCache = s.hubCache := rfl
@[simp] theorem State.putCell_moving (c : Nat) (x : Cell) : (s.putCell c x).moving = s.moving := rfl
@[simp] theorem State.putCell_mem (c : Nat) (x : Cell) : (s.putCell c x).mem = s.mem := rfl
@[simp] theorem State.putCell_bad (c : Nat) (x : Cell) : (s.putCell c x).bad = s.bad := rfl
@[simp] theorem State.putCell_bufs (c : Nat) (x : Cell) : (s.putCell c x).bufs = s.bufs := rfl
@[simp] theorem State.putCell_reelTlb (c : Nat) (x : Cell) : (s.putCell c x).reelTlb = s.reelTlb := rfl
@[simp] theorem State.putCell_walkC (c : Nat) (x : Cell) : (s.putCell c x).walkC = s.walkC := rfl
@[simp] theorem State.putCell_walks (c : Nat) (x : Cell) : (s.putCell c x).walks = s.walks := rfl
@[simp] theorem State.putCell_watch (c : Nat) (x : Cell) : (s.putCell c x).watch = s.watch := rfl
@[simp] theorem State.putCell_faults (c : Nat) (x : Cell) : (s.putCell c x).faults = s.faults := rfl
@[simp] theorem State.putCell_fseq (c : Nat) (x : Cell) : (s.putCell c x).fseq = s.fseq := rfl
@[simp] theorem State.putCell_pagerUp (c : Nat) (x : Cell) : (s.putCell c x).pagerUp = s.pagerUp := rfl
@[simp] theorem State.putCell_mbridles (c : Nat) (x : Cell) : (s.putCell c x).mbridles = s.mbridles := rfl
@[simp] theorem State.putCell_graphs (c : Nat) (x : Cell) : (s.putCell c x).graphs = s.graphs := rfl
@[simp] theorem State.putCell_seqrs (c : Nat) (x : Cell) : (s.putCell c x).seqrs = s.seqrs := rfl
@[simp] theorem State.putCell_quanta (c : Nat) (x : Cell) : (s.putCell c x).quanta = s.quanta := rfl
@[simp] theorem State.putCell_chans (c : Nat) (x : Cell) : (s.putCell c x).chans = s.chans := rfl
@[simp] theorem State.putCell_msgs (c : Nat) (x : Cell) : (s.putCell c x).msgs = s.msgs := rfl
@[simp] theorem State.putCell_outbox (c : Nat) (x : Cell) : (s.putCell c x).outbox = s.outbox := rfl
@[simp] theorem State.putCell_refused (c : Nat) (x : Cell) : (s.putCell c x).refused = s.refused := rfl

@[simp] theorem State.putArea_agenda (i : Nat) (x : Area) : (s.putArea i x).agenda = s.agenda := rfl
@[simp] theorem State.putArea_cur (i : Nat) (x : Area) : (s.putArea i x).cur = s.cur := rfl
@[simp] theorem State.putArea_curReel (i : Nat) (x : Area) : (s.putArea i x).curReel = s.curReel := rfl
@[simp] theorem State.putArea_curChan (i : Nat) (x : Area) : (s.putArea i x).curChan = s.curChan := rfl
@[simp] theorem State.putArea_unit (i : Nat) (x : Area) : (s.putArea i x).unit = s.unit := rfl
@[simp] theorem State.putArea_nfree (i : Nat) (x : Area) : (s.putArea i x).nfree = s.nfree := rfl
@[simp] theorem State.putArea_nextArea (i : Nat) (x : Area) : (s.putArea i x).nextArea = s.nextArea := rfl
@[simp] theorem State.putArea_nextOp (i : Nat) (x : Area) : (s.putArea i x).nextOp = s.nextOp := rfl
@[simp] theorem State.putArea_lastRead (i : Nat) (x : Area) : (s.putArea i x).lastRead = s.lastRead := rfl
@[simp] theorem State.putArea_cyc (i : Nat) (x : Area) : (s.putArea i x).cyc = s.cyc := rfl
@[simp] theorem State.putArea_board (i : Nat) (x : Area) : (s.putArea i x).board = s.board := rfl
@[simp] theorem State.putArea_portA (i : Nat) (x : Area) : (s.putArea i x).portA = s.portA := rfl
@[simp] theorem State.putArea_portB (i : Nat) (x : Area) : (s.putArea i x).portB = s.portB := rfl
@[simp] theorem State.putArea_hub (i : Nat) (x : Area) : (s.putArea i x).hub = s.hub := rfl
@[simp] theorem State.putArea_asgen (i : Nat) (x : Area) : (s.putArea i x).asgen = s.asgen := rfl
@[simp] theorem State.putArea_sems (i : Nat) (x : Area) : (s.putArea i x).sems = s.sems := rfl
@[simp] theorem State.putArea_queues (i : Nat) (x : Area) : (s.putArea i x).queues = s.queues := rfl
@[simp] theorem State.putArea_descs (i : Nat) (x : Area) : (s.putArea i x).descs = s.descs := rfl
@[simp] theorem State.putArea_irqs (i : Nat) (x : Area) : (s.putArea i x).irqs = s.irqs := rfl
@[simp] theorem State.putArea_ctxs (i : Nat) (x : Area) : (s.putArea i x).ctxs = s.ctxs := rfl
@[simp] theorem State.putArea_cells (i : Nat) (x : Area) : (s.putArea i x).cells = s.cells := rfl
@[simp] theorem State.putArea_bays (i : Nat) (x : Area) : (s.putArea i x).bays = s.bays := rfl
@[simp] theorem State.putArea_birth (i : Nat) (x : Area) : (s.putArea i x).birth = s.birth := rfl
@[simp] theorem State.putArea_hubCache (i : Nat) (x : Area) : (s.putArea i x).hubCache = s.hubCache := rfl
@[simp] theorem State.putArea_moving (i : Nat) (x : Area) : (s.putArea i x).moving = s.moving := rfl
@[simp] theorem State.putArea_mem (i : Nat) (x : Area) : (s.putArea i x).mem = s.mem := rfl
@[simp] theorem State.putArea_bad (i : Nat) (x : Area) : (s.putArea i x).bad = s.bad := rfl
@[simp] theorem State.putArea_bufs (i : Nat) (x : Area) : (s.putArea i x).bufs = s.bufs := rfl
@[simp] theorem State.putArea_reelTlb (i : Nat) (x : Area) : (s.putArea i x).reelTlb = s.reelTlb := rfl
@[simp] theorem State.putArea_walkC (i : Nat) (x : Area) : (s.putArea i x).walkC = s.walkC := rfl
@[simp] theorem State.putArea_walks (i : Nat) (x : Area) : (s.putArea i x).walks = s.walks := rfl
@[simp] theorem State.putArea_watch (i : Nat) (x : Area) : (s.putArea i x).watch = s.watch := rfl
@[simp] theorem State.putArea_faults (i : Nat) (x : Area) : (s.putArea i x).faults = s.faults := rfl
@[simp] theorem State.putArea_fseq (i : Nat) (x : Area) : (s.putArea i x).fseq = s.fseq := rfl
@[simp] theorem State.putArea_pagerUp (i : Nat) (x : Area) : (s.putArea i x).pagerUp = s.pagerUp := rfl
@[simp] theorem State.putArea_mbridles (i : Nat) (x : Area) : (s.putArea i x).mbridles = s.mbridles := rfl
@[simp] theorem State.putArea_graphs (i : Nat) (x : Area) : (s.putArea i x).graphs = s.graphs := rfl
@[simp] theorem State.putArea_seqrs (i : Nat) (x : Area) : (s.putArea i x).seqrs = s.seqrs := rfl
@[simp] theorem State.putArea_quanta (i : Nat) (x : Area) : (s.putArea i x).quanta = s.quanta := rfl
@[simp] theorem State.putArea_chans (i : Nat) (x : Area) : (s.putArea i x).chans = s.chans := rfl
@[simp] theorem State.putArea_msgs (i : Nat) (x : Area) : (s.putArea i x).msgs = s.msgs := rfl
@[simp] theorem State.putArea_outbox (i : Nat) (x : Area) : (s.putArea i x).outbox = s.outbox := rfl
@[simp] theorem State.putArea_refused (i : Nat) (x : Area) : (s.putArea i x).refused = s.refused := rfl

@[simp] theorem State.putBay_agenda (b : Nat) (x : Bay) : (s.putBay b x).agenda = s.agenda := rfl
@[simp] theorem State.putBay_cur (b : Nat) (x : Bay) : (s.putBay b x).cur = s.cur := rfl
@[simp] theorem State.putBay_curReel (b : Nat) (x : Bay) : (s.putBay b x).curReel = s.curReel := rfl
@[simp] theorem State.putBay_curChan (b : Nat) (x : Bay) : (s.putBay b x).curChan = s.curChan := rfl
@[simp] theorem State.putBay_unit (b : Nat) (x : Bay) : (s.putBay b x).unit = s.unit := rfl
@[simp] theorem State.putBay_nfree (b : Nat) (x : Bay) : (s.putBay b x).nfree = s.nfree := rfl
@[simp] theorem State.putBay_nextArea (b : Nat) (x : Bay) : (s.putBay b x).nextArea = s.nextArea := rfl
@[simp] theorem State.putBay_nextOp (b : Nat) (x : Bay) : (s.putBay b x).nextOp = s.nextOp := rfl
@[simp] theorem State.putBay_lastRead (b : Nat) (x : Bay) : (s.putBay b x).lastRead = s.lastRead := rfl
@[simp] theorem State.putBay_cyc (b : Nat) (x : Bay) : (s.putBay b x).cyc = s.cyc := rfl
@[simp] theorem State.putBay_board (b : Nat) (x : Bay) : (s.putBay b x).board = s.board := rfl
@[simp] theorem State.putBay_portA (b : Nat) (x : Bay) : (s.putBay b x).portA = s.portA := rfl
@[simp] theorem State.putBay_portB (b : Nat) (x : Bay) : (s.putBay b x).portB = s.portB := rfl
@[simp] theorem State.putBay_hub (b : Nat) (x : Bay) : (s.putBay b x).hub = s.hub := rfl
@[simp] theorem State.putBay_asgen (b : Nat) (x : Bay) : (s.putBay b x).asgen = s.asgen := rfl
@[simp] theorem State.putBay_sems (b : Nat) (x : Bay) : (s.putBay b x).sems = s.sems := rfl
@[simp] theorem State.putBay_queues (b : Nat) (x : Bay) : (s.putBay b x).queues = s.queues := rfl
@[simp] theorem State.putBay_descs (b : Nat) (x : Bay) : (s.putBay b x).descs = s.descs := rfl
@[simp] theorem State.putBay_irqs (b : Nat) (x : Bay) : (s.putBay b x).irqs = s.irqs := rfl
@[simp] theorem State.putBay_ctxs (b : Nat) (x : Bay) : (s.putBay b x).ctxs = s.ctxs := rfl
@[simp] theorem State.putBay_cells (b : Nat) (x : Bay) : (s.putBay b x).cells = s.cells := rfl
@[simp] theorem State.putBay_areas (b : Nat) (x : Bay) : (s.putBay b x).areas = s.areas := rfl
@[simp] theorem State.putBay_birth (b : Nat) (x : Bay) : (s.putBay b x).birth = s.birth := rfl
@[simp] theorem State.putBay_hubCache (b : Nat) (x : Bay) : (s.putBay b x).hubCache = s.hubCache := rfl
@[simp] theorem State.putBay_moving (b : Nat) (x : Bay) : (s.putBay b x).moving = s.moving := rfl
@[simp] theorem State.putBay_mem (b : Nat) (x : Bay) : (s.putBay b x).mem = s.mem := rfl
@[simp] theorem State.putBay_bad (b : Nat) (x : Bay) : (s.putBay b x).bad = s.bad := rfl
@[simp] theorem State.putBay_bufs (b : Nat) (x : Bay) : (s.putBay b x).bufs = s.bufs := rfl
@[simp] theorem State.putBay_reelTlb (b : Nat) (x : Bay) : (s.putBay b x).reelTlb = s.reelTlb := rfl
@[simp] theorem State.putBay_walkC (b : Nat) (x : Bay) : (s.putBay b x).walkC = s.walkC := rfl
@[simp] theorem State.putBay_walks (b : Nat) (x : Bay) : (s.putBay b x).walks = s.walks := rfl
@[simp] theorem State.putBay_watch (b : Nat) (x : Bay) : (s.putBay b x).watch = s.watch := rfl
@[simp] theorem State.putBay_faults (b : Nat) (x : Bay) : (s.putBay b x).faults = s.faults := rfl
@[simp] theorem State.putBay_fseq (b : Nat) (x : Bay) : (s.putBay b x).fseq = s.fseq := rfl
@[simp] theorem State.putBay_pagerUp (b : Nat) (x : Bay) : (s.putBay b x).pagerUp = s.pagerUp := rfl
@[simp] theorem State.putBay_mbridles (b : Nat) (x : Bay) : (s.putBay b x).mbridles = s.mbridles := rfl
@[simp] theorem State.putBay_graphs (b : Nat) (x : Bay) : (s.putBay b x).graphs = s.graphs := rfl
@[simp] theorem State.putBay_seqrs (b : Nat) (x : Bay) : (s.putBay b x).seqrs = s.seqrs := rfl
@[simp] theorem State.putBay_quanta (b : Nat) (x : Bay) : (s.putBay b x).quanta = s.quanta := rfl
@[simp] theorem State.putBay_chans (b : Nat) (x : Bay) : (s.putBay b x).chans = s.chans := rfl
@[simp] theorem State.putBay_msgs (b : Nat) (x : Bay) : (s.putBay b x).msgs = s.msgs := rfl
@[simp] theorem State.putBay_outbox (b : Nat) (x : Bay) : (s.putBay b x).outbox = s.outbox := rfl
@[simp] theorem State.putBay_refused (b : Nat) (x : Bay) : (s.putBay b x).refused = s.refused := rfl

@[simp] theorem State.putCtx_agenda (d : Nat) (x : Ctx) : (s.putCtx d x).agenda = s.agenda := rfl
@[simp] theorem State.putCtx_cur (d : Nat) (x : Ctx) : (s.putCtx d x).cur = s.cur := rfl
@[simp] theorem State.putCtx_curReel (d : Nat) (x : Ctx) : (s.putCtx d x).curReel = s.curReel := rfl
@[simp] theorem State.putCtx_curChan (d : Nat) (x : Ctx) : (s.putCtx d x).curChan = s.curChan := rfl
@[simp] theorem State.putCtx_unit (d : Nat) (x : Ctx) : (s.putCtx d x).unit = s.unit := rfl
@[simp] theorem State.putCtx_nfree (d : Nat) (x : Ctx) : (s.putCtx d x).nfree = s.nfree := rfl
@[simp] theorem State.putCtx_nextArea (d : Nat) (x : Ctx) : (s.putCtx d x).nextArea = s.nextArea := rfl
@[simp] theorem State.putCtx_nextOp (d : Nat) (x : Ctx) : (s.putCtx d x).nextOp = s.nextOp := rfl
@[simp] theorem State.putCtx_lastRead (d : Nat) (x : Ctx) : (s.putCtx d x).lastRead = s.lastRead := rfl
@[simp] theorem State.putCtx_cyc (d : Nat) (x : Ctx) : (s.putCtx d x).cyc = s.cyc := rfl
@[simp] theorem State.putCtx_board (d : Nat) (x : Ctx) : (s.putCtx d x).board = s.board := rfl
@[simp] theorem State.putCtx_portA (d : Nat) (x : Ctx) : (s.putCtx d x).portA = s.portA := rfl
@[simp] theorem State.putCtx_portB (d : Nat) (x : Ctx) : (s.putCtx d x).portB = s.portB := rfl
@[simp] theorem State.putCtx_hub (d : Nat) (x : Ctx) : (s.putCtx d x).hub = s.hub := rfl
@[simp] theorem State.putCtx_asgen (d : Nat) (x : Ctx) : (s.putCtx d x).asgen = s.asgen := rfl
@[simp] theorem State.putCtx_sems (d : Nat) (x : Ctx) : (s.putCtx d x).sems = s.sems := rfl
@[simp] theorem State.putCtx_queues (d : Nat) (x : Ctx) : (s.putCtx d x).queues = s.queues := rfl
@[simp] theorem State.putCtx_descs (d : Nat) (x : Ctx) : (s.putCtx d x).descs = s.descs := rfl
@[simp] theorem State.putCtx_irqs (d : Nat) (x : Ctx) : (s.putCtx d x).irqs = s.irqs := rfl
@[simp] theorem State.putCtx_cells (d : Nat) (x : Ctx) : (s.putCtx d x).cells = s.cells := rfl
@[simp] theorem State.putCtx_areas (d : Nat) (x : Ctx) : (s.putCtx d x).areas = s.areas := rfl
@[simp] theorem State.putCtx_bays (d : Nat) (x : Ctx) : (s.putCtx d x).bays = s.bays := rfl
@[simp] theorem State.putCtx_birth (d : Nat) (x : Ctx) : (s.putCtx d x).birth = s.birth := rfl
@[simp] theorem State.putCtx_hubCache (d : Nat) (x : Ctx) : (s.putCtx d x).hubCache = s.hubCache := rfl
@[simp] theorem State.putCtx_moving (d : Nat) (x : Ctx) : (s.putCtx d x).moving = s.moving := rfl
@[simp] theorem State.putCtx_mem (d : Nat) (x : Ctx) : (s.putCtx d x).mem = s.mem := rfl
@[simp] theorem State.putCtx_bad (d : Nat) (x : Ctx) : (s.putCtx d x).bad = s.bad := rfl
@[simp] theorem State.putCtx_bufs (d : Nat) (x : Ctx) : (s.putCtx d x).bufs = s.bufs := rfl
@[simp] theorem State.putCtx_reelTlb (d : Nat) (x : Ctx) : (s.putCtx d x).reelTlb = s.reelTlb := rfl
@[simp] theorem State.putCtx_walkC (d : Nat) (x : Ctx) : (s.putCtx d x).walkC = s.walkC := rfl
@[simp] theorem State.putCtx_walks (d : Nat) (x : Ctx) : (s.putCtx d x).walks = s.walks := rfl
@[simp] theorem State.putCtx_watch (d : Nat) (x : Ctx) : (s.putCtx d x).watch = s.watch := rfl
@[simp] theorem State.putCtx_faults (d : Nat) (x : Ctx) : (s.putCtx d x).faults = s.faults := rfl
@[simp] theorem State.putCtx_fseq (d : Nat) (x : Ctx) : (s.putCtx d x).fseq = s.fseq := rfl
@[simp] theorem State.putCtx_pagerUp (d : Nat) (x : Ctx) : (s.putCtx d x).pagerUp = s.pagerUp := rfl
@[simp] theorem State.putCtx_mbridles (d : Nat) (x : Ctx) : (s.putCtx d x).mbridles = s.mbridles := rfl
@[simp] theorem State.putCtx_graphs (d : Nat) (x : Ctx) : (s.putCtx d x).graphs = s.graphs := rfl
@[simp] theorem State.putCtx_seqrs (d : Nat) (x : Ctx) : (s.putCtx d x).seqrs = s.seqrs := rfl
@[simp] theorem State.putCtx_quanta (d : Nat) (x : Ctx) : (s.putCtx d x).quanta = s.quanta := rfl
@[simp] theorem State.putCtx_chans (d : Nat) (x : Ctx) : (s.putCtx d x).chans = s.chans := rfl
@[simp] theorem State.putCtx_msgs (d : Nat) (x : Ctx) : (s.putCtx d x).msgs = s.msgs := rfl
@[simp] theorem State.putCtx_outbox (d : Nat) (x : Ctx) : (s.putCtx d x).outbox = s.outbox := rfl
@[simp] theorem State.putCtx_refused (d : Nat) (x : Ctx) : (s.putCtx d x).refused = s.refused := rfl

@[simp] theorem State.putDesc_agenda (d : Nat) (x : Desc) : (s.putDesc d x).agenda = s.agenda := rfl
@[simp] theorem State.putDesc_cur (d : Nat) (x : Desc) : (s.putDesc d x).cur = s.cur := rfl
@[simp] theorem State.putDesc_curReel (d : Nat) (x : Desc) : (s.putDesc d x).curReel = s.curReel := rfl
@[simp] theorem State.putDesc_curChan (d : Nat) (x : Desc) : (s.putDesc d x).curChan = s.curChan := rfl
@[simp] theorem State.putDesc_unit (d : Nat) (x : Desc) : (s.putDesc d x).unit = s.unit := rfl
@[simp] theorem State.putDesc_nfree (d : Nat) (x : Desc) : (s.putDesc d x).nfree = s.nfree := rfl
@[simp] theorem State.putDesc_nextArea (d : Nat) (x : Desc) : (s.putDesc d x).nextArea = s.nextArea := rfl
@[simp] theorem State.putDesc_nextOp (d : Nat) (x : Desc) : (s.putDesc d x).nextOp = s.nextOp := rfl
@[simp] theorem State.putDesc_lastRead (d : Nat) (x : Desc) : (s.putDesc d x).lastRead = s.lastRead := rfl
@[simp] theorem State.putDesc_cyc (d : Nat) (x : Desc) : (s.putDesc d x).cyc = s.cyc := rfl
@[simp] theorem State.putDesc_board (d : Nat) (x : Desc) : (s.putDesc d x).board = s.board := rfl
@[simp] theorem State.putDesc_portA (d : Nat) (x : Desc) : (s.putDesc d x).portA = s.portA := rfl
@[simp] theorem State.putDesc_portB (d : Nat) (x : Desc) : (s.putDesc d x).portB = s.portB := rfl
@[simp] theorem State.putDesc_hub (d : Nat) (x : Desc) : (s.putDesc d x).hub = s.hub := rfl
@[simp] theorem State.putDesc_asgen (d : Nat) (x : Desc) : (s.putDesc d x).asgen = s.asgen := rfl
@[simp] theorem State.putDesc_sems (d : Nat) (x : Desc) : (s.putDesc d x).sems = s.sems := rfl
@[simp] theorem State.putDesc_queues (d : Nat) (x : Desc) : (s.putDesc d x).queues = s.queues := rfl
@[simp] theorem State.putDesc_irqs (d : Nat) (x : Desc) : (s.putDesc d x).irqs = s.irqs := rfl
@[simp] theorem State.putDesc_ctxs (d : Nat) (x : Desc) : (s.putDesc d x).ctxs = s.ctxs := rfl
@[simp] theorem State.putDesc_cells (d : Nat) (x : Desc) : (s.putDesc d x).cells = s.cells := rfl
@[simp] theorem State.putDesc_areas (d : Nat) (x : Desc) : (s.putDesc d x).areas = s.areas := rfl
@[simp] theorem State.putDesc_bays (d : Nat) (x : Desc) : (s.putDesc d x).bays = s.bays := rfl
@[simp] theorem State.putDesc_birth (d : Nat) (x : Desc) : (s.putDesc d x).birth = s.birth := rfl
@[simp] theorem State.putDesc_hubCache (d : Nat) (x : Desc) : (s.putDesc d x).hubCache = s.hubCache := rfl
@[simp] theorem State.putDesc_moving (d : Nat) (x : Desc) : (s.putDesc d x).moving = s.moving := rfl
@[simp] theorem State.putDesc_mem (d : Nat) (x : Desc) : (s.putDesc d x).mem = s.mem := rfl
@[simp] theorem State.putDesc_bad (d : Nat) (x : Desc) : (s.putDesc d x).bad = s.bad := rfl
@[simp] theorem State.putDesc_bufs (d : Nat) (x : Desc) : (s.putDesc d x).bufs = s.bufs := rfl
@[simp] theorem State.putDesc_reelTlb (d : Nat) (x : Desc) : (s.putDesc d x).reelTlb = s.reelTlb := rfl
@[simp] theorem State.putDesc_walkC (d : Nat) (x : Desc) : (s.putDesc d x).walkC = s.walkC := rfl
@[simp] theorem State.putDesc_walks (d : Nat) (x : Desc) : (s.putDesc d x).walks = s.walks := rfl
@[simp] theorem State.putDesc_watch (d : Nat) (x : Desc) : (s.putDesc d x).watch = s.watch := rfl
@[simp] theorem State.putDesc_faults (d : Nat) (x : Desc) : (s.putDesc d x).faults = s.faults := rfl
@[simp] theorem State.putDesc_fseq (d : Nat) (x : Desc) : (s.putDesc d x).fseq = s.fseq := rfl
@[simp] theorem State.putDesc_pagerUp (d : Nat) (x : Desc) : (s.putDesc d x).pagerUp = s.pagerUp := rfl
@[simp] theorem State.putDesc_mbridles (d : Nat) (x : Desc) : (s.putDesc d x).mbridles = s.mbridles := rfl
@[simp] theorem State.putDesc_graphs (d : Nat) (x : Desc) : (s.putDesc d x).graphs = s.graphs := rfl
@[simp] theorem State.putDesc_seqrs (d : Nat) (x : Desc) : (s.putDesc d x).seqrs = s.seqrs := rfl
@[simp] theorem State.putDesc_quanta (d : Nat) (x : Desc) : (s.putDesc d x).quanta = s.quanta := rfl
@[simp] theorem State.putDesc_chans (d : Nat) (x : Desc) : (s.putDesc d x).chans = s.chans := rfl
@[simp] theorem State.putDesc_msgs (d : Nat) (x : Desc) : (s.putDesc d x).msgs = s.msgs := rfl
@[simp] theorem State.putDesc_outbox (d : Nat) (x : Desc) : (s.putDesc d x).outbox = s.outbox := rfl
@[simp] theorem State.putDesc_refused (d : Nat) (x : Desc) : (s.putDesc d x).refused = s.refused := rfl

@[simp] theorem State.putQueue_agenda (q : Nat) (x : Queue) : (s.putQueue q x).agenda = s.agenda := rfl
@[simp] theorem State.putQueue_cur (q : Nat) (x : Queue) : (s.putQueue q x).cur = s.cur := rfl
@[simp] theorem State.putQueue_curReel (q : Nat) (x : Queue) : (s.putQueue q x).curReel = s.curReel := rfl
@[simp] theorem State.putQueue_curChan (q : Nat) (x : Queue) : (s.putQueue q x).curChan = s.curChan := rfl
@[simp] theorem State.putQueue_unit (q : Nat) (x : Queue) : (s.putQueue q x).unit = s.unit := rfl
@[simp] theorem State.putQueue_nfree (q : Nat) (x : Queue) : (s.putQueue q x).nfree = s.nfree := rfl
@[simp] theorem State.putQueue_nextArea (q : Nat) (x : Queue) : (s.putQueue q x).nextArea = s.nextArea := rfl
@[simp] theorem State.putQueue_nextOp (q : Nat) (x : Queue) : (s.putQueue q x).nextOp = s.nextOp := rfl
@[simp] theorem State.putQueue_lastRead (q : Nat) (x : Queue) : (s.putQueue q x).lastRead = s.lastRead := rfl
@[simp] theorem State.putQueue_cyc (q : Nat) (x : Queue) : (s.putQueue q x).cyc = s.cyc := rfl
@[simp] theorem State.putQueue_board (q : Nat) (x : Queue) : (s.putQueue q x).board = s.board := rfl
@[simp] theorem State.putQueue_portA (q : Nat) (x : Queue) : (s.putQueue q x).portA = s.portA := rfl
@[simp] theorem State.putQueue_portB (q : Nat) (x : Queue) : (s.putQueue q x).portB = s.portB := rfl
@[simp] theorem State.putQueue_hub (q : Nat) (x : Queue) : (s.putQueue q x).hub = s.hub := rfl
@[simp] theorem State.putQueue_asgen (q : Nat) (x : Queue) : (s.putQueue q x).asgen = s.asgen := rfl
@[simp] theorem State.putQueue_sems (q : Nat) (x : Queue) : (s.putQueue q x).sems = s.sems := rfl
@[simp] theorem State.putQueue_descs (q : Nat) (x : Queue) : (s.putQueue q x).descs = s.descs := rfl
@[simp] theorem State.putQueue_irqs (q : Nat) (x : Queue) : (s.putQueue q x).irqs = s.irqs := rfl
@[simp] theorem State.putQueue_ctxs (q : Nat) (x : Queue) : (s.putQueue q x).ctxs = s.ctxs := rfl
@[simp] theorem State.putQueue_cells (q : Nat) (x : Queue) : (s.putQueue q x).cells = s.cells := rfl
@[simp] theorem State.putQueue_areas (q : Nat) (x : Queue) : (s.putQueue q x).areas = s.areas := rfl
@[simp] theorem State.putQueue_bays (q : Nat) (x : Queue) : (s.putQueue q x).bays = s.bays := rfl
@[simp] theorem State.putQueue_birth (q : Nat) (x : Queue) : (s.putQueue q x).birth = s.birth := rfl
@[simp] theorem State.putQueue_hubCache (q : Nat) (x : Queue) : (s.putQueue q x).hubCache = s.hubCache := rfl
@[simp] theorem State.putQueue_moving (q : Nat) (x : Queue) : (s.putQueue q x).moving = s.moving := rfl
@[simp] theorem State.putQueue_mem (q : Nat) (x : Queue) : (s.putQueue q x).mem = s.mem := rfl
@[simp] theorem State.putQueue_bad (q : Nat) (x : Queue) : (s.putQueue q x).bad = s.bad := rfl
@[simp] theorem State.putQueue_bufs (q : Nat) (x : Queue) : (s.putQueue q x).bufs = s.bufs := rfl
@[simp] theorem State.putQueue_reelTlb (q : Nat) (x : Queue) : (s.putQueue q x).reelTlb = s.reelTlb := rfl
@[simp] theorem State.putQueue_walkC (q : Nat) (x : Queue) : (s.putQueue q x).walkC = s.walkC := rfl
@[simp] theorem State.putQueue_walks (q : Nat) (x : Queue) : (s.putQueue q x).walks = s.walks := rfl
@[simp] theorem State.putQueue_watch (q : Nat) (x : Queue) : (s.putQueue q x).watch = s.watch := rfl
@[simp] theorem State.putQueue_faults (q : Nat) (x : Queue) : (s.putQueue q x).faults = s.faults := rfl
@[simp] theorem State.putQueue_fseq (q : Nat) (x : Queue) : (s.putQueue q x).fseq = s.fseq := rfl
@[simp] theorem State.putQueue_pagerUp (q : Nat) (x : Queue) : (s.putQueue q x).pagerUp = s.pagerUp := rfl
@[simp] theorem State.putQueue_mbridles (q : Nat) (x : Queue) : (s.putQueue q x).mbridles = s.mbridles := rfl
@[simp] theorem State.putQueue_graphs (q : Nat) (x : Queue) : (s.putQueue q x).graphs = s.graphs := rfl
@[simp] theorem State.putQueue_seqrs (q : Nat) (x : Queue) : (s.putQueue q x).seqrs = s.seqrs := rfl
@[simp] theorem State.putQueue_quanta (q : Nat) (x : Queue) : (s.putQueue q x).quanta = s.quanta := rfl
@[simp] theorem State.putQueue_chans (q : Nat) (x : Queue) : (s.putQueue q x).chans = s.chans := rfl
@[simp] theorem State.putQueue_msgs (q : Nat) (x : Queue) : (s.putQueue q x).msgs = s.msgs := rfl
@[simp] theorem State.putQueue_outbox (q : Nat) (x : Queue) : (s.putQueue q x).outbox = s.outbox := rfl
@[simp] theorem State.putQueue_refused (q : Nat) (x : Queue) : (s.putQueue q x).refused = s.refused := rfl

@[simp] theorem State.putFault_agenda (q : Nat) (x : FaultEnt) : (s.putFault q x).agenda = s.agenda := rfl
@[simp] theorem State.putFault_cur (q : Nat) (x : FaultEnt) : (s.putFault q x).cur = s.cur := rfl
@[simp] theorem State.putFault_curReel (q : Nat) (x : FaultEnt) : (s.putFault q x).curReel = s.curReel := rfl
@[simp] theorem State.putFault_curChan (q : Nat) (x : FaultEnt) : (s.putFault q x).curChan = s.curChan := rfl
@[simp] theorem State.putFault_unit (q : Nat) (x : FaultEnt) : (s.putFault q x).unit = s.unit := rfl
@[simp] theorem State.putFault_nfree (q : Nat) (x : FaultEnt) : (s.putFault q x).nfree = s.nfree := rfl
@[simp] theorem State.putFault_nextArea (q : Nat) (x : FaultEnt) : (s.putFault q x).nextArea = s.nextArea := rfl
@[simp] theorem State.putFault_nextOp (q : Nat) (x : FaultEnt) : (s.putFault q x).nextOp = s.nextOp := rfl
@[simp] theorem State.putFault_lastRead (q : Nat) (x : FaultEnt) : (s.putFault q x).lastRead = s.lastRead := rfl
@[simp] theorem State.putFault_cyc (q : Nat) (x : FaultEnt) : (s.putFault q x).cyc = s.cyc := rfl
@[simp] theorem State.putFault_board (q : Nat) (x : FaultEnt) : (s.putFault q x).board = s.board := rfl
@[simp] theorem State.putFault_portA (q : Nat) (x : FaultEnt) : (s.putFault q x).portA = s.portA := rfl
@[simp] theorem State.putFault_portB (q : Nat) (x : FaultEnt) : (s.putFault q x).portB = s.portB := rfl
@[simp] theorem State.putFault_hub (q : Nat) (x : FaultEnt) : (s.putFault q x).hub = s.hub := rfl
@[simp] theorem State.putFault_asgen (q : Nat) (x : FaultEnt) : (s.putFault q x).asgen = s.asgen := rfl
@[simp] theorem State.putFault_sems (q : Nat) (x : FaultEnt) : (s.putFault q x).sems = s.sems := rfl
@[simp] theorem State.putFault_queues (q : Nat) (x : FaultEnt) : (s.putFault q x).queues = s.queues := rfl
@[simp] theorem State.putFault_descs (q : Nat) (x : FaultEnt) : (s.putFault q x).descs = s.descs := rfl
@[simp] theorem State.putFault_irqs (q : Nat) (x : FaultEnt) : (s.putFault q x).irqs = s.irqs := rfl
@[simp] theorem State.putFault_ctxs (q : Nat) (x : FaultEnt) : (s.putFault q x).ctxs = s.ctxs := rfl
@[simp] theorem State.putFault_cells (q : Nat) (x : FaultEnt) : (s.putFault q x).cells = s.cells := rfl
@[simp] theorem State.putFault_areas (q : Nat) (x : FaultEnt) : (s.putFault q x).areas = s.areas := rfl
@[simp] theorem State.putFault_bays (q : Nat) (x : FaultEnt) : (s.putFault q x).bays = s.bays := rfl
@[simp] theorem State.putFault_birth (q : Nat) (x : FaultEnt) : (s.putFault q x).birth = s.birth := rfl
@[simp] theorem State.putFault_hubCache (q : Nat) (x : FaultEnt) : (s.putFault q x).hubCache = s.hubCache := rfl
@[simp] theorem State.putFault_moving (q : Nat) (x : FaultEnt) : (s.putFault q x).moving = s.moving := rfl
@[simp] theorem State.putFault_mem (q : Nat) (x : FaultEnt) : (s.putFault q x).mem = s.mem := rfl
@[simp] theorem State.putFault_bad (q : Nat) (x : FaultEnt) : (s.putFault q x).bad = s.bad := rfl
@[simp] theorem State.putFault_bufs (q : Nat) (x : FaultEnt) : (s.putFault q x).bufs = s.bufs := rfl
@[simp] theorem State.putFault_reelTlb (q : Nat) (x : FaultEnt) : (s.putFault q x).reelTlb = s.reelTlb := rfl
@[simp] theorem State.putFault_walkC (q : Nat) (x : FaultEnt) : (s.putFault q x).walkC = s.walkC := rfl
@[simp] theorem State.putFault_walks (q : Nat) (x : FaultEnt) : (s.putFault q x).walks = s.walks := rfl
@[simp] theorem State.putFault_watch (q : Nat) (x : FaultEnt) : (s.putFault q x).watch = s.watch := rfl
@[simp] theorem State.putFault_fseq (q : Nat) (x : FaultEnt) : (s.putFault q x).fseq = s.fseq := rfl
@[simp] theorem State.putFault_pagerUp (q : Nat) (x : FaultEnt) : (s.putFault q x).pagerUp = s.pagerUp := rfl
@[simp] theorem State.putFault_mbridles (q : Nat) (x : FaultEnt) : (s.putFault q x).mbridles = s.mbridles := rfl
@[simp] theorem State.putFault_graphs (q : Nat) (x : FaultEnt) : (s.putFault q x).graphs = s.graphs := rfl
@[simp] theorem State.putFault_seqrs (q : Nat) (x : FaultEnt) : (s.putFault q x).seqrs = s.seqrs := rfl
@[simp] theorem State.putFault_quanta (q : Nat) (x : FaultEnt) : (s.putFault q x).quanta = s.quanta := rfl
@[simp] theorem State.putFault_chans (q : Nat) (x : FaultEnt) : (s.putFault q x).chans = s.chans := rfl
@[simp] theorem State.putFault_msgs (q : Nat) (x : FaultEnt) : (s.putFault q x).msgs = s.msgs := rfl
@[simp] theorem State.putFault_outbox (q : Nat) (x : FaultEnt) : (s.putFault q x).outbox = s.outbox := rfl
@[simp] theorem State.putFault_refused (q : Nat) (x : FaultEnt) : (s.putFault q x).refused = s.refused := rfl

@[simp] theorem State.putGraph_agenda (d h : Nat) (x : Graph) : (s.putGraph d h x).agenda = s.agenda := rfl
@[simp] theorem State.putGraph_cur (d h : Nat) (x : Graph) : (s.putGraph d h x).cur = s.cur := rfl
@[simp] theorem State.putGraph_curReel (d h : Nat) (x : Graph) : (s.putGraph d h x).curReel = s.curReel := rfl
@[simp] theorem State.putGraph_curChan (d h : Nat) (x : Graph) : (s.putGraph d h x).curChan = s.curChan := rfl
@[simp] theorem State.putGraph_unit (d h : Nat) (x : Graph) : (s.putGraph d h x).unit = s.unit := rfl
@[simp] theorem State.putGraph_nfree (d h : Nat) (x : Graph) : (s.putGraph d h x).nfree = s.nfree := rfl
@[simp] theorem State.putGraph_nextArea (d h : Nat) (x : Graph) : (s.putGraph d h x).nextArea = s.nextArea := rfl
@[simp] theorem State.putGraph_nextOp (d h : Nat) (x : Graph) : (s.putGraph d h x).nextOp = s.nextOp := rfl
@[simp] theorem State.putGraph_lastRead (d h : Nat) (x : Graph) : (s.putGraph d h x).lastRead = s.lastRead := rfl
@[simp] theorem State.putGraph_cyc (d h : Nat) (x : Graph) : (s.putGraph d h x).cyc = s.cyc := rfl
@[simp] theorem State.putGraph_board (d h : Nat) (x : Graph) : (s.putGraph d h x).board = s.board := rfl
@[simp] theorem State.putGraph_portA (d h : Nat) (x : Graph) : (s.putGraph d h x).portA = s.portA := rfl
@[simp] theorem State.putGraph_portB (d h : Nat) (x : Graph) : (s.putGraph d h x).portB = s.portB := rfl
@[simp] theorem State.putGraph_hub (d h : Nat) (x : Graph) : (s.putGraph d h x).hub = s.hub := rfl
@[simp] theorem State.putGraph_asgen (d h : Nat) (x : Graph) : (s.putGraph d h x).asgen = s.asgen := rfl
@[simp] theorem State.putGraph_sems (d h : Nat) (x : Graph) : (s.putGraph d h x).sems = s.sems := rfl
@[simp] theorem State.putGraph_queues (d h : Nat) (x : Graph) : (s.putGraph d h x).queues = s.queues := rfl
@[simp] theorem State.putGraph_descs (d h : Nat) (x : Graph) : (s.putGraph d h x).descs = s.descs := rfl
@[simp] theorem State.putGraph_irqs (d h : Nat) (x : Graph) : (s.putGraph d h x).irqs = s.irqs := rfl
@[simp] theorem State.putGraph_ctxs (d h : Nat) (x : Graph) : (s.putGraph d h x).ctxs = s.ctxs := rfl
@[simp] theorem State.putGraph_cells (d h : Nat) (x : Graph) : (s.putGraph d h x).cells = s.cells := rfl
@[simp] theorem State.putGraph_areas (d h : Nat) (x : Graph) : (s.putGraph d h x).areas = s.areas := rfl
@[simp] theorem State.putGraph_bays (d h : Nat) (x : Graph) : (s.putGraph d h x).bays = s.bays := rfl
@[simp] theorem State.putGraph_birth (d h : Nat) (x : Graph) : (s.putGraph d h x).birth = s.birth := rfl
@[simp] theorem State.putGraph_hubCache (d h : Nat) (x : Graph) : (s.putGraph d h x).hubCache = s.hubCache := rfl
@[simp] theorem State.putGraph_moving (d h : Nat) (x : Graph) : (s.putGraph d h x).moving = s.moving := rfl
@[simp] theorem State.putGraph_mem (d h : Nat) (x : Graph) : (s.putGraph d h x).mem = s.mem := rfl
@[simp] theorem State.putGraph_bad (d h : Nat) (x : Graph) : (s.putGraph d h x).bad = s.bad := rfl
@[simp] theorem State.putGraph_bufs (d h : Nat) (x : Graph) : (s.putGraph d h x).bufs = s.bufs := rfl
@[simp] theorem State.putGraph_reelTlb (d h : Nat) (x : Graph) : (s.putGraph d h x).reelTlb = s.reelTlb := rfl
@[simp] theorem State.putGraph_walkC (d h : Nat) (x : Graph) : (s.putGraph d h x).walkC = s.walkC := rfl
@[simp] theorem State.putGraph_walks (d h : Nat) (x : Graph) : (s.putGraph d h x).walks = s.walks := rfl
@[simp] theorem State.putGraph_watch (d h : Nat) (x : Graph) : (s.putGraph d h x).watch = s.watch := rfl
@[simp] theorem State.putGraph_faults (d h : Nat) (x : Graph) : (s.putGraph d h x).faults = s.faults := rfl
@[simp] theorem State.putGraph_fseq (d h : Nat) (x : Graph) : (s.putGraph d h x).fseq = s.fseq := rfl
@[simp] theorem State.putGraph_pagerUp (d h : Nat) (x : Graph) : (s.putGraph d h x).pagerUp = s.pagerUp := rfl
@[simp] theorem State.putGraph_mbridles (d h : Nat) (x : Graph) : (s.putGraph d h x).mbridles = s.mbridles := rfl
@[simp] theorem State.putGraph_seqrs (d h : Nat) (x : Graph) : (s.putGraph d h x).seqrs = s.seqrs := rfl
@[simp] theorem State.putGraph_quanta (d h : Nat) (x : Graph) : (s.putGraph d h x).quanta = s.quanta := rfl
@[simp] theorem State.putGraph_chans (d h : Nat) (x : Graph) : (s.putGraph d h x).chans = s.chans := rfl
@[simp] theorem State.putGraph_msgs (d h : Nat) (x : Graph) : (s.putGraph d h x).msgs = s.msgs := rfl
@[simp] theorem State.putGraph_outbox (d h : Nat) (x : Graph) : (s.putGraph d h x).outbox = s.outbox := rfl
@[simp] theorem State.putGraph_refused (d h : Nat) (x : Graph) : (s.putGraph d h x).refused = s.refused := rfl

@[simp] theorem State.putChan_agenda (r ch : Nat) (x : Chan) : (s.putChan r ch x).agenda = s.agenda := rfl
@[simp] theorem State.putChan_cur (r ch : Nat) (x : Chan) : (s.putChan r ch x).cur = s.cur := rfl
@[simp] theorem State.putChan_curReel (r ch : Nat) (x : Chan) : (s.putChan r ch x).curReel = s.curReel := rfl
@[simp] theorem State.putChan_curChan (r ch : Nat) (x : Chan) : (s.putChan r ch x).curChan = s.curChan := rfl
@[simp] theorem State.putChan_unit (r ch : Nat) (x : Chan) : (s.putChan r ch x).unit = s.unit := rfl
@[simp] theorem State.putChan_nfree (r ch : Nat) (x : Chan) : (s.putChan r ch x).nfree = s.nfree := rfl
@[simp] theorem State.putChan_nextArea (r ch : Nat) (x : Chan) : (s.putChan r ch x).nextArea = s.nextArea := rfl
@[simp] theorem State.putChan_nextOp (r ch : Nat) (x : Chan) : (s.putChan r ch x).nextOp = s.nextOp := rfl
@[simp] theorem State.putChan_lastRead (r ch : Nat) (x : Chan) : (s.putChan r ch x).lastRead = s.lastRead := rfl
@[simp] theorem State.putChan_cyc (r ch : Nat) (x : Chan) : (s.putChan r ch x).cyc = s.cyc := rfl
@[simp] theorem State.putChan_board (r ch : Nat) (x : Chan) : (s.putChan r ch x).board = s.board := rfl
@[simp] theorem State.putChan_portA (r ch : Nat) (x : Chan) : (s.putChan r ch x).portA = s.portA := rfl
@[simp] theorem State.putChan_portB (r ch : Nat) (x : Chan) : (s.putChan r ch x).portB = s.portB := rfl
@[simp] theorem State.putChan_hub (r ch : Nat) (x : Chan) : (s.putChan r ch x).hub = s.hub := rfl
@[simp] theorem State.putChan_asgen (r ch : Nat) (x : Chan) : (s.putChan r ch x).asgen = s.asgen := rfl
@[simp] theorem State.putChan_sems (r ch : Nat) (x : Chan) : (s.putChan r ch x).sems = s.sems := rfl
@[simp] theorem State.putChan_queues (r ch : Nat) (x : Chan) : (s.putChan r ch x).queues = s.queues := rfl
@[simp] theorem State.putChan_descs (r ch : Nat) (x : Chan) : (s.putChan r ch x).descs = s.descs := rfl
@[simp] theorem State.putChan_irqs (r ch : Nat) (x : Chan) : (s.putChan r ch x).irqs = s.irqs := rfl
@[simp] theorem State.putChan_ctxs (r ch : Nat) (x : Chan) : (s.putChan r ch x).ctxs = s.ctxs := rfl
@[simp] theorem State.putChan_cells (r ch : Nat) (x : Chan) : (s.putChan r ch x).cells = s.cells := rfl
@[simp] theorem State.putChan_areas (r ch : Nat) (x : Chan) : (s.putChan r ch x).areas = s.areas := rfl
@[simp] theorem State.putChan_bays (r ch : Nat) (x : Chan) : (s.putChan r ch x).bays = s.bays := rfl
@[simp] theorem State.putChan_birth (r ch : Nat) (x : Chan) : (s.putChan r ch x).birth = s.birth := rfl
@[simp] theorem State.putChan_hubCache (r ch : Nat) (x : Chan) : (s.putChan r ch x).hubCache = s.hubCache := rfl
@[simp] theorem State.putChan_moving (r ch : Nat) (x : Chan) : (s.putChan r ch x).moving = s.moving := rfl
@[simp] theorem State.putChan_mem (r ch : Nat) (x : Chan) : (s.putChan r ch x).mem = s.mem := rfl
@[simp] theorem State.putChan_bad (r ch : Nat) (x : Chan) : (s.putChan r ch x).bad = s.bad := rfl
@[simp] theorem State.putChan_bufs (r ch : Nat) (x : Chan) : (s.putChan r ch x).bufs = s.bufs := rfl
@[simp] theorem State.putChan_reelTlb (r ch : Nat) (x : Chan) : (s.putChan r ch x).reelTlb = s.reelTlb := rfl
@[simp] theorem State.putChan_walkC (r ch : Nat) (x : Chan) : (s.putChan r ch x).walkC = s.walkC := rfl
@[simp] theorem State.putChan_walks (r ch : Nat) (x : Chan) : (s.putChan r ch x).walks = s.walks := rfl
@[simp] theorem State.putChan_watch (r ch : Nat) (x : Chan) : (s.putChan r ch x).watch = s.watch := rfl
@[simp] theorem State.putChan_faults (r ch : Nat) (x : Chan) : (s.putChan r ch x).faults = s.faults := rfl
@[simp] theorem State.putChan_fseq (r ch : Nat) (x : Chan) : (s.putChan r ch x).fseq = s.fseq := rfl
@[simp] theorem State.putChan_pagerUp (r ch : Nat) (x : Chan) : (s.putChan r ch x).pagerUp = s.pagerUp := rfl
@[simp] theorem State.putChan_mbridles (r ch : Nat) (x : Chan) : (s.putChan r ch x).mbridles = s.mbridles := rfl
@[simp] theorem State.putChan_graphs (r ch : Nat) (x : Chan) : (s.putChan r ch x).graphs = s.graphs := rfl
@[simp] theorem State.putChan_seqrs (r ch : Nat) (x : Chan) : (s.putChan r ch x).seqrs = s.seqrs := rfl
@[simp] theorem State.putChan_quanta (r ch : Nat) (x : Chan) : (s.putChan r ch x).quanta = s.quanta := rfl
@[simp] theorem State.putChan_msgs (r ch : Nat) (x : Chan) : (s.putChan r ch x).msgs = s.msgs := rfl
@[simp] theorem State.putChan_outbox (r ch : Nat) (x : Chan) : (s.putChan r ch x).outbox = s.outbox := rfl
@[simp] theorem State.putChan_refused (r ch : Nat) (x : Chan) : (s.putChan r ch x).refused = s.refused := rfl

end Sys2Proof.Machine
end

