-- ==== Sys2Proof/Laws/Issue.lean ====
section
/-! SUPPORT. What the shared operations do: pieces of state read after a write, registers, tokens, retiring an
instruction, raising a trap, and the answers of `issue` and `issueReg` said once. -/

namespace Sys2Proof.Machine

open Sys2Proof

variable (s : State)

/-! ### Indexed pieces read after a write -/

@[simp] theorem State.cellAt_putCell (c : Nat) (x : Cell) : (s.putCell c x).cellAt c = x := tget_tset_same ..
@[simp] theorem State.areaAt_putArea (i : Nat) (x : Area) : (s.putArea i x).areaAt i = x := tget_tset_same ..
@[simp] theorem State.bayAt_putBay (b : Nat) (x : Bay) : (s.putBay b x).bayAt b = x := tget_tset_same ..
@[simp] theorem State.ctxAt_putCtx (d : Nat) (x : Ctx) : (s.putCtx d x).ctxAt d = x := tget_tset_same ..
@[simp] theorem State.descAt_putDesc (d : Nat) (x : Desc) : (s.putDesc d x).descAt d = x := tget_tset_same ..
@[simp] theorem State.queueAt_putQueue (q : Nat) (x : Queue) : (s.putQueue q x).queueAt q = x := tget_tset_same ..
@[simp] theorem State.faultAt_putFault (q : Nat) (x : FaultEnt) : (s.putFault q x).faultAt q = x := tget_tset_same ..
@[simp] theorem State.graphAt_putGraph (d h : Nat) (x : Graph) : (s.putGraph d h x).graphAt d h = x := tget_tset_same ..
@[simp] theorem State.chanAt_putChan (r ch : Nat) (x : Chan) : (s.putChan r ch x).chanAt r ch = x := tget_tset_same ..

theorem State.cellAt_putCell_ne (c e : Nat) (x : Cell) (h : e ≠ c) : (s.putCell c x).cellAt e = s.cellAt e :=
  tget_tset_other _ _ _ _ _ h
theorem State.areaAt_putArea_ne (i j : Nat) (x : Area) (h : j ≠ i) : (s.putArea i x).areaAt j = s.areaAt j :=
  tget_tset_other _ _ _ _ _ h
theorem State.bayAt_putBay_ne (b e : Nat) (x : Bay) (h : e ≠ b) : (s.putBay b x).bayAt e = s.bayAt e :=
  tget_tset_other _ _ _ _ _ h
theorem State.ctxAt_putCtx_ne (d e : Nat) (x : Ctx) (h : e ≠ d) : (s.putCtx d x).ctxAt e = s.ctxAt e :=
  tget_tset_other _ _ _ _ _ h
theorem State.descAt_putDesc_ne (d e : Nat) (x : Desc) (h : e ≠ d) : (s.putDesc d x).descAt e = s.descAt e :=
  tget_tset_other _ _ _ _ _ h
theorem State.queueAt_putQueue_ne (q e : Nat) (x : Queue) (h : e ≠ q) : (s.putQueue q x).queueAt e = s.queueAt e :=
  tget_tset_other _ _ _ _ _ h
theorem State.faultAt_putFault_ne (q e : Nat) (x : FaultEnt) (h : e ≠ q) : (s.putFault q x).faultAt e = s.faultAt e :=
  tget_tset_other _ _ _ _ _ h

/-! ### The applications of an area -/

@[simp] theorem Area.appAt_putApp (a : Area) (c : Nat) (x : AppCell) : (a.putApp c x).appAt c = x := tget_tset_same ..
theorem Area.appAt_putApp_ne (a : Area) (c e : Nat) (x : AppCell) (h : e ≠ c) : (a.putApp c x).appAt e = a.appAt e :=
  tget_tset_other _ _ _ _ _ h
@[simp] theorem Area.putApp_cells (a : Area) (c : Nat) (x : AppCell) : (a.putApp c x).cells = a.cells := rfl
@[simp] theorem Area.putApp_desc (a : Area) (c : Nat) (x : AppCell) : (a.putApp c x).desc = a.desc := rfl
@[simp] theorem Area.putApp_priv (a : Area) (c : Nat) (x : AppCell) : (a.putApp c x).priv = a.priv := rfl
@[simp] theorem Area.putApp_syms (a : Area) (c : Nat) (x : AppCell) : (a.putApp c x).syms = a.syms := rfl
@[simp] theorem Area.putApp_cmt (a : Area) (c : Nat) (x : AppCell) : (a.putApp c x).cmt = a.cmt := rfl

@[simp] theorem State.app_putApp (x : AppCell) : (s.putApp x).app = x := by
  simp [State.putApp, State.putAppOf, State.app, State.area, State.here, State.cellAt, State.putArea, State.areaAt,
    Area.putApp]
@[simp] theorem State.putApp_here (x : AppCell) : (s.putApp x).here = s.here := rfl
@[simp] theorem State.putApp_mem (x : AppCell) : (s.putApp x).mem = s.mem := rfl
@[simp] theorem State.putApp_bufs (x : AppCell) : (s.putApp x).bufs = s.bufs := rfl
@[simp] theorem State.putApp_cells (x : AppCell) : (s.putApp x).cells = s.cells := rfl

/-! ### Registers (R94) -/

@[simp] theorem AppCell.getS_zero (a : AppCell) : a.getS 0 = 0 := rfl
@[simp] theorem AppCell.setS_zero (a : AppCell) (w : Word) : a.setS 0 w = a := rfl
theorem AppCell.getS_setS (a : AppCell) (n m : Nat) (w : Word) :
    (a.setS n w).getS m = if m = n ∧ n ≠ 0 then w else a.getS m := by
  by_cases hn : n = 0
  · subst hn; simp
  · by_cases hm : m = 0
    · have h0 : ¬0 = n := fun e => hn e.symm
      subst hm; simp [h0]
    · simp [AppCell.getS, AppCell.setS, hn, hm, tget_tset]
theorem AppCell.getV_setV (a : AppCell) (n m : Nat) (x : VecVal) :
    (a.setV n x).getV m = if m = n then x else a.getV m := by simp [AppCell.getV, AppCell.setV, tget_tset]
@[simp] theorem AppCell.getK_zero (a : AppCell) : a.getK 0 = BitVec.allOnes 256 := rfl
theorem AppCell.getK_setK (a : AppCell) (n m : Nat) (x : BitVec 256) :
    (a.setK n x).getK m = if m = n ∧ n ≠ 0 then x else a.getK m := by
  by_cases hn : n = 0
  · subst hn; simp [AppCell.setK]
  · by_cases hm : m = 0
    · have h0 : ¬0 = n := fun e => hn e.symm
      subst hm; simp [h0]
    · simp [AppCell.getK, AppCell.setK, hn, hm, tget_tset]
theorem AppCell.getM_setM (a : AppCell) (n m : Nat) (x : Acc) :
    (a.setM n x).getM m = if m = n then x else a.getM m := by simp [AppCell.getM, AppCell.setM, tget_tset]
theorem AppCell.getB_setB (a : AppCell) (n m : Nat) (x : Bank) :
    (a.setB n x).getB m = if m = n then x else a.getB m := by simp [AppCell.getB, AppCell.setB, tget_tset]
theorem AppCell.getA_setA (a : AppCell) (n m : Nat) (x : StreamReg) :
    (a.setA n x).getA m = if m = n then x else a.getA m := by simp [AppCell.getA, AppCell.setA, tget_tset]
theorem AppCell.getT_setT (a : AppCell) (n m x : Nat) :
    (a.setT n x).getT m = if m = n then x else a.getT m := by simp [AppCell.getT, AppCell.setT, tget_tset]

/-- Writing an `s` register touches nothing but the `s` registers. -/
theorem AppCell.setS_frame (a : AppCell) (n : Nat) (w : Word) : { (a.setS n w) with s := a.s } = a := by
  by_cases h : n = 0 <;> simp [AppCell.setS, h]

/-! ### Retiring and trapping -/

@[simp] theorem State.retire_mem (a : AppCell) (pc : Nat) : (s.retire a pc).mem = s.mem := rfl
@[simp] theorem State.retire_bufs (a : AppCell) (pc : Nat) : (s.retire a pc).bufs = s.bufs := rfl
@[simp] theorem State.retire_cells (a : AppCell) (pc : Nat) : (s.retire a pc).cells = s.cells := rfl
@[simp] theorem State.retire_here (a : AppCell) (pc : Nat) : (s.retire a pc).here = s.here := rfl
@[simp] theorem State.retire_cur (a : AppCell) (pc : Nat) : (s.retire a pc).cur = s.cur := rfl

theorem State.retire_area (a : AppCell) (pc : Nat) :
    (s.retire a pc).area = { s.area.putApp s.cur (a.goto pc) with moved := s.cyc } := by
  simp [State.retire, State.area, State.here, State.cellAt]

@[simp] theorem State.retire_app (a : AppCell) (pc : Nat) : (s.retire a pc).app = a.goto pc := by
  rw [State.app, State.retire_area]
  simp [Area.putApp]

/-- Retiring changes the acting cell's application and the time its area last moved, nothing else. -/
theorem State.retire_areaAt (a : AppCell) (pc i : Nat) (h : i ≠ s.here) :
    (s.retire a pc).areaAt i = s.areaAt i := State.areaAt_putArea_ne _ _ _ _ h
theorem State.retire_rest (a : AppCell) (pc : Nat) : { (s.retire a pc) with areas := s.areas } = s := rfl

/-- Raising a trap changes nothing but the trap of the acting application. -/
theorem State.raiseTrap_eq (cls sub : Nat) (info : Word) :
    s.raiseTrap cls sub info = s ∨
      s.raiseTrap cls sub info = s.putApp 
        { s.app with trap := some ⟨cls, sub, s.app.pc, (s.wordAt s.app.pc).getD 0, info, none⟩ } := by
  unfold State.raiseTrap
  cases h : s.app.trap <;> simp [h]

theorem State.raiseTrap_new (cls sub : Nat) (info : Word) (h : s.app.trap = none) :
    s.raiseTrap cls sub info = s.putApp 
        { s.app with trap := some ⟨cls, sub, s.app.pc, (s.wordAt s.app.pc).getD 0, info, none⟩ } := by
  simp [State.raiseTrap, h]

/-! ### Issue -/

/-- Everything `issueReg` can do. -/
theorem issueReg_cases (h : Hdr) (lane : Bool) (uses : List Reg) (body : AppCell → AppRes) :
    issueReg h lane uses body s = s ∨
    (lane = false ∧ s.app.guardBit h = false ∧ issueReg h lane uses body s = s.retire s.app (s.app.pc + 1)) ∨
    issueReg h lane uses body s = s.raiseTrap clsToken 0 0 ∨
    (∃ b, body s.app = .ok b ∧ issueReg h lane uses body s = s.retire b (s.app.pc + 1)) ∨
    (∃ b pc, body s.app = .jump b pc ∧ issueReg h lane uses body s = s.retire b pc) ∨
    (∃ c b i, body s.app = .trap c b i ∧ issueReg h lane uses body s = s.raiseTrap c b i) := by
  unfold issueReg
  by_cases h1 : waitOver h.wm s.app
  · by_cases h2 : (!lane && !s.app.guardBit h) = true
    · simp only [Bool.and_eq_true, Bool.not_eq_true'] at h2
      simp [h1, h2]
    · by_cases h3 : s.app.markHit h.wm uses
      · simp [h1, h2, h3]
      · cases hb : body s.app with
        | ok b => simp [h1, h2, h3, hb]
        | jump b pc => exact .inr (.inr (.inr (.inr (.inl ⟨b, pc, rfl, by simp [h1, h2, h3, hb]⟩))))
        | wait => simp [h1, h2, h3, hb]
        | trap c b i => exact .inr (.inr (.inr (.inr (.inr ⟨c, b, i, rfl, by simp [h1, h2, h3, hb]⟩))))
  · simp [h1]

theorem issueReg_ok (h : Hdr) (lane : Bool) (uses : List Reg) (body : AppCell → AppRes) (b : AppCell)
    (hw : waitOver h.wm s.app = true) (hg : lane = true ∨ s.app.guardBit h = true)
    (hm : s.app.markHit h.wm uses = false) (hb : body s.app = .ok b) :
    issueReg h lane uses body s = s.retire b (s.app.pc + 1) := by
  rcases hg with hg | hg <;> simp [issueReg, hw, hg, hm, hb]

theorem issueReg_jump (h : Hdr) (uses : List Reg) (body : AppCell → AppRes) (b : AppCell) (pc : Nat)
    (hr : Ready s h uses) (hb : body s.app = .jump b pc) :
    issueReg h false uses body s = s.retire b pc := by
  simp [issueReg, hr.1, hr.2.1, hr.2.2, hb]

theorem issueReg_trap (h : Hdr) (lane : Bool) (uses : List Reg) (body : AppCell → AppRes) (c b : Nat) (i : Word)
    (hw : waitOver h.wm s.app = true) (hg : lane = true ∨ s.app.guardBit h = true)
    (hm : s.app.markHit h.wm uses = false) (hb : body s.app = .trap c b i) :
    issueReg h lane uses body s = s.raiseTrap c b i := by
  rcases hg with hg | hg <;> simp [issueReg, hw, hg, hm, hb]

/-- An instruction of the register files leaves every piece of state but the areas as it was. -/
theorem issueReg_rest (h : Hdr) (lane : Bool) (uses : List Reg) (body : AppCell → AppRes) :
    { (issueReg h lane uses body s) with areas := s.areas } = s := by
  rcases issueReg_cases s h lane uses body with e | ⟨_, _, e⟩ | e | ⟨b, _, e⟩ | ⟨b, pc, _, e⟩ | ⟨c, b, i, _, e⟩
  · rw [e]
  · rw [e]; rfl
  · rw [e]; rcases s.raiseTrap_eq clsToken 0 0 with e' | e' <;> rw [e'] <;> rfl
  · rw [e]; rfl
  · rw [e]; rfl
  · rw [e]; rcases s.raiseTrap_eq c b i with e' | e' <;> rw [e'] <;> rfl

/-- Everything `issue` can do. -/
theorem issue_cases (h : Hdr) (lane : Bool) (uses : List Reg) (skip : State → State) (body : State → Res) :
    issue h lane uses skip body s = s ∨
    (lane = false ∧ s.app.guardBit h = false ∧ issue h lane uses skip body s = (skip s).advance) ∨
    issue h lane uses skip body s = s.raiseTrap clsToken 0 0 ∨
    (∃ t, body s = .ok t ∧ issue h lane uses skip body s = t.advance) ∨
    (∃ t pc, body s = .jump t pc ∧ issue h lane uses skip body s = t.retire t.app pc) ∨
    (∃ t, body s = .stay t ∧ issue h lane uses skip body s = t) ∨
    (∃ c b i, body s = .trap c b i ∧ issue h lane uses skip body s = s.raiseTrap c b i) := by
  unfold issue
  by_cases h1 : waitOver h.wm s.app
  · by_cases h2 : (!lane && !s.app.guardBit h) = true
    · simp only [Bool.and_eq_true, Bool.not_eq_true'] at h2
      simp [h1, h2]
    · by_cases h3 : s.app.markHit h.wm uses
      · simp [h1, h2, h3]
      · cases hb : body s with
        | ok t => simp [h1, h2, h3]
        | jump t pc => exact .inr (.inr (.inr (.inr (.inl ⟨t, pc, rfl, by simp [h1, h2, h3]⟩))))
        | wait => simp [h1, h2, h3]
        | stay t => simp [h1, h2, h3]
        | trap c b i => exact .inr (.inr (.inr (.inr (.inr (.inr ⟨c, b, i, rfl, by simp [h1, h2, h3]⟩)))))
  · simp [h1]

theorem issue_ok (h : Hdr) (lane : Bool) (uses : List Reg) (skip : State → State) (body : State → Res) (t : State)
    (hw : waitOver h.wm s.app = true) (hg : lane = true ∨ s.app.guardBit h = true)
    (hm : s.app.markHit h.wm uses = false) (hb : body s = .ok t) : issue h lane uses skip body s = t.advance := by
  rcases hg with hg | hg <;> simp [issue, hw, hg, hm, hb]

theorem issue_stay (h : Hdr) (lane : Bool) (uses : List Reg) (skip : State → State) (body : State → Res) (t : State)
    (hw : waitOver h.wm s.app = true) (hg : lane = true ∨ s.app.guardBit h = true)
    (hm : s.app.markHit h.wm uses = false) (hb : body s = .stay t) : issue h lane uses skip body s = t := by
  rcases hg with hg | hg <;> simp [issue, hw, hg, hm, hb]

theorem issue_trap (h : Hdr) (lane : Bool) (uses : List Reg) (skip : State → State) (body : State → Res) (c b : Nat)
    (i : Word) (hw : waitOver h.wm s.app = true) (hg : lane = true ∨ s.app.guardBit h = true)
    (hm : s.app.markHit h.wm uses = false) (hb : body s = .trap c b i) :
    issue h lane uses skip body s = s.raiseTrap c b i := by
  rcases hg with hg | hg <;> simp [issue, hw, hg, hm, hb]

/-! ### What lands, and what a bank load waits for -/

/-- Landing an operation changes its context's count or its list of what is still to land, nothing else. -/
theorem State.landOp_rest (d id : Nat) : { (s.landOp d id) with ctxs := s.ctxs } = s := by
  unfold State.landOp
  split <;> rfl
@[simp] theorem State.landOp_mem (d id : Nat) : (s.landOp d id).mem = s.mem := by unfold State.landOp; split <;> rfl
@[simp] theorem State.landOp_bufs (d id : Nat) : (s.landOp d id).bufs = s.bufs := by unfold State.landOp; split <;> rfl
@[simp] theorem State.landOp_cells (d id : Nat) : (s.landOp d id).cells = s.cells := by unfold State.landOp; split <;> rfl
@[simp] theorem State.landOp_areas (d id : Nat) : (s.landOp d id).areas = s.areas := by unfold State.landOp; split <;> rfl

/-- An instruction that loads a bank either waits or does what it does without the gate. -/
theorem bankGate_cases (h : Hdr) (bk : Nat) (k : State → State) : bankGate h bk k s = s ∨ bankGate h bk k s = k s := by
  unfold bankGate
  split <;> simp

theorem issue_wait (h : Hdr) (lane : Bool) (uses : List Reg) (skip : State → State) (body : State → Res)
    (hw : waitOver h.wm s.app = false) : issue h lane uses skip body s = s := by
  simp [issue, hw]

end Sys2Proof.Machine
end

