-- ==== Sys2Proof/Laws/Memory.lean ====
section
/-! SUPPORT. Memory: a byte read after a write at the point of coherence, what a buffered write and a propagated one do,
and the canonical form that every memory operation keeps. -/

namespace Sys2Proof.Machine

open Sys2Proof

variable (s : State)

@[simp] theorem State.snoop_mem (pa n : Nat) : (s.snoop pa n).mem = s.mem := by
  unfold State.snoop
  split <;> rfl

@[simp] theorem State.snoop_bufs (pa n : Nat) : (s.snoop pa n).bufs = s.bufs := by
  unfold State.snoop
  split <;> rfl

@[simp] theorem State.poke_mem (pa : Nat) (bs : List Byte) : (s.poke pa bs).mem = tsetRun 0 s.mem pa bs := by
  simp [State.poke]

@[simp] theorem State.poke_bufs (pa : Nat) (bs : List Byte) : (s.poke pa bs).bufs = s.bufs := by
  simp [State.poke]

/-- A byte written at its point of coherence reads back there. -/
theorem State.peekByte_poke_inside (pa j : Nat) (bs : List Byte) (h : j < bs.length) :
    (s.poke pa bs).peekByte (pa + j) = bs[j] := by
  simp only [State.peekByte, State.poke_mem]
  exact tget_tsetRun_inside 0 s.mem pa j bs h

/-- A write at the point of coherence leaves every byte outside it alone. -/
theorem State.peekByte_poke_outside (pa a : Nat) (bs : List Byte) (h : a < pa ∨ pa + bs.length ≤ a) :
    (s.poke pa bs).peekByte a = s.peekByte a := by
  simp only [State.peekByte, State.poke_mem]
  exact tget_tsetRun_outside 0 s.mem pa a bs h

theorem State.peek_poke (pa : Nat) (bs : List Byte) : (s.poke pa bs).peek pa bs.length = bs := by
  simp only [State.peek, State.poke_mem]
  exact tgetRun_tsetRun 0 s.mem pa bs

/-- Number written, number read (R2). -/
theorem State.peekNat_pokeNat (pa n x : Nat) : (s.pokeNat pa n x).peekNat pa n = x % 256 ^ n := by
  have h := s.peek_poke pa (leBytes n x)
  rw [length_leBytes] at h
  rw [State.pokeNat, State.peekNat, h, leNat_leBytes]

/-! ### The canonical form -/

theorem State.poke_wf (pa : Nat) (bs : List Byte) (h : Memory.wf s.mem = true) :
    Memory.wf (s.poke pa bs).mem = true := by
  rw [State.poke_mem]
  exact tsetRun_canon 0 s.mem pa bs h

theorem State.pokeNat_wf (pa n x : Nat) (h : Memory.wf s.mem = true) : Memory.wf (s.pokeNat pa n x).mem = true :=
  s.poke_wf pa _ h

/-- A plain write either stands in its buffer, or is at the point of coherence (R238). -/
theorem State.write_mem (p : Party) (path : Path) (que cell op desc pa : Nat) (bs : List Byte) :
    (s.write p path que cell op desc pa bs).mem = s.mem ∨
      (s.write p path que cell op desc pa bs).mem = tsetRun 0 s.mem pa bs := by
  unfold State.write
  split
  · exact .inl rfl
  · exact .inr (s.poke_mem pa bs)

theorem State.write_wf (p : Party) (path : Path) (que cell op desc pa : Nat) (bs : List Byte)
    (h : Memory.wf s.mem = true) : Memory.wf (s.write p path que cell op desc pa bs).mem = true := by
  rcases s.write_mem p path que cell op desc pa bs with e | e <;> rw [e]
  · exact h
  · exact tsetRun_canon 0 s.mem pa bs h

theorem State.writeAll_wf (p : Party) (path : Path) (que cell op desc : Nat) (xs : List (Nat × Byte))
    (h : Memory.wf s.mem = true) : Memory.wf (s.writeAll p path que cell op desc xs).mem = true := by
  unfold State.writeAll
  generalize byteRuns xs = rs
  induction rs generalizing s with
  | nil => exact h
  | cons r rs ih => exact ih _ (s.write_wf p path que cell op desc r.1 r.2 h)

/-- A write in HBM below the point of coherence stands in its native buffer and no byte of memory changes. -/
theorem State.write_buffered (p : Party) (path : Path) (que cell op desc pa : Nat) (bs : List Byte)
    (h1 : pa < Config.hbmEnd) (h2 : p.native < 4) :
    (s.write p path que cell op desc pa bs).mem = s.mem ∧
      (s.write p path que cell op desc pa bs).bufs = s.bufs ++
        [⟨path, que, p.native, p.dom p.native, cell, op, desc, pa, bs⟩] := by
  simp [State.write, h1, h2]

theorem State.propagate_wf (k : Nat) (h : Memory.wf s.mem = true) : Memory.wf (s.propagate k).mem = true := by
  unfold State.propagate
  split
  · exact h
  · split
    · exact h
    · simp only
      split
      · exact h
      · exact State.poke_wf _ _ _ h

/-- A write that may not move stays where it is. -/
theorem State.propagate_held (k : Nat) (h : s.mayMove k = false) : s.propagate k = s := by
  unfold State.propagate
  cases hb : s.bufs[k]? <;> simp [h]

/-- A read that no buffered write covers is served by the point of coherence (R240). -/
theorem State.readByte_nobufs (p : Party) (acq pa : Nat) (h : s.bufs = []) : s.readByte p acq pa = s.peekByte pa := by
  simp [State.readByte, h]

end Sys2Proof.Machine
end

