-- ==== Sys2Proof/Laws/Errors.lean ====
section
/-! SUPPORT. What raising a vector leaves alone, and all that the loss of a byte of memory does (R372, R380). -/

namespace Sys2Proof.Machine

open Sys2Proof

variable (s : State)

@[simp] theorem State.raiseVec_mem (p : Port) (v : Nat) : (s.raiseVec p v).mem = s.mem := by
  unfold State.raiseVec State.putPort
  cases p <;> dsimp only <;> repeat' split
  all_goals rfl

@[simp] theorem State.raiseVec_bad (p : Port) (v : Nat) : (s.raiseVec p v).bad = s.bad := by
  unfold State.raiseVec State.putPort
  cases p <;> dsimp only <;> repeat' split
  all_goals rfl

@[simp] theorem State.raiseVec_walks (p : Port) (v : Nat) : (s.raiseVec p v).walks = s.walks := by
  unfold State.raiseVec State.putPort
  cases p <;> dsimp only <;> repeat' split
  all_goals rfl

@[simp] theorem State.machineCheck_mem : s.machineCheck.mem = s.mem := by
  simp [State.machineCheck, State.raiseBoth]

@[simp] theorem State.machineCheck_bad : s.machineCheck.bad = s.bad := by
  simp [State.machineCheck, State.raiseBoth]

@[simp] theorem State.machineCheck_walks : s.machineCheck.walks = s.walks := by
  simp [State.machineCheck, State.raiseBoth]

@[simp] theorem State.loseByte_mem (pa : Nat) (b : Bool) : (s.loseByte pa b).mem = tset 0 s.mem pa (s.free 8).1 := by
  unfold State.loseByte
  dsimp only [State.free]
  split <;> simp

theorem State.mem_loseByte_bad (pa : Nat) (b : Bool) : pa ∈ (s.loseByte pa b).bad := by
  unfold State.loseByte
  dsimp only [State.free]
  by_cases h : pa ∈ s.bad <;> split <;> simp [h]

/-- A lost byte leaves every other byte alone. -/
theorem State.peekByte_loseByte (pa a : Nat) (b : Bool) (h : a ≠ pa) : (s.loseByte pa b).peekByte a = s.peekByte a := by
  simp only [State.peekByte, State.loseByte_mem]
  exact tget_tset_other 0 s.mem pa a _ h

theorem State.loseByte_wf (pa : Nat) (b : Bool) (h : Memory.wf s.mem = true) : Memory.wf (s.loseByte pa b).mem = true := by
  rw [State.loseByte_mem]
  exact tset_canon 0 s.mem pa _ h

end Sys2Proof.Machine
end

