-- ==== Sys2Proof/Tests/Slice0.lean ====
section
/-! SUPPORT. Tests of this model: words of the spec decoded, an ill-formed term for each check of R113, worked results of the
spec on small states, and for every statement a state and operands that meet its hypotheses. Expected results come from the
spec's printed words, examples and rules. -/

namespace Sys2Proof.Tests

open Sys2Proof Sys2Proof.Machine

set_option Elab.async false

/-- The word decodes to the instruction. -/
def reads (priv : Bool) (w : Word) (i : Instr) : Bool :=
  match decodeCell priv w with
  | .ok j => decide (j = i)
  | .error _ => false

/-- The word is refused with the sub-cause. -/
def refuses (priv : Bool) (w : Word) (e : Illegal) : Bool :=
  match decodeCell priv w with
  | .ok _ => false
  | .error d => decide (d = e)

/-! ### Decoding (the words the spec prints) -/

def h0 : Hdr := ⟨0, 0, 0⟩
def wait (m : BitVec 8) : Hdr := ⟨0, 0, m⟩

theorem test_decode_scalar :
    reads false 0x1000_0146_1C02_1000 (.add h0 ⟨5, 6, 7, 0, 2, 0, 1, 0⟩) = true ∧
    reads false 0x1200_C20C_4002_1000 (.mul (wait 0x0C) ⟨8, 12, 16, 0, 2, 0, 1, 0⟩) = true := by decide
theorem test_decode_control :
    reads false 0x0300_0210_5000_0002 (.br h0 ⟨2, 4, 5, 2⟩) = true ∧
    reads false 0x0100_0000_0000_0000 (.endApp h0 ⟨0, 0, 0, 0⟩) = true := by decide
theorem test_decode_immediate :
    reads false 0x2400_0080_0000_000C (.li h0 ⟨2, 0, 12⟩) = true := by decide
theorem test_decode_vector :
    reads false 0x5340_2101_0836_0000 (.vfma ⟨2, 0, 2⟩ ⟨4, 1, 2, 3, 6, 0, 0, 0⟩) = true ∧
    reads false 0x4C00_0083_1001_0002 (.vcmp h0 ⟨2, 3, 4, 0, 1, 0, 0, 2⟩) = true ∧
    reads false 0x6100_0141_000B_0028 (.vqbx h0 ⟨5, 1, 0, 0, 11, 0, 0, 0x28⟩) = true ∧
    reads false 0x6200_0185_0008_002B (.vdqbx h0 ⟨6, 5, 0, 0, 8, 0, 0, 0x2B⟩) = true ∧
    reads false 0x6600_019B_680E_0000 (.vins h0 ⟨6, 27, 26, 0, 14, 0, 0, 0⟩) = true := by decide
theorem test_decode_mask :
    reads false 0x7700_0047_0001_0000 (.kset h0 ⟨1, 7, 0, 0, 1, 0, 0, 0⟩) = true := by decide
theorem test_decode_memory :
    reads false 0x8400_0058_0CA0_0010 (.ldg h0 ⟨1, 3, 0, 6, 2, 1, 0, 0, 16⟩) = true ∧
    reads false 0x8000_0058_0C00_0010 (.ld h0 ⟨1, 3, 0, 6, 0, 0, 0, 0, 16⟩) = true ∧
    reads false 0x8120_4090_0200_0000 (.st ⟨1, 0, 4⟩ ⟨2, 2, 0, 1, 0, 0, 0, 0, 0⟩) = true ∧
    reads false 0x8300_0210_0200_0000 (.sts h0 ⟨8, 2, 0, 1, 0, 0, 0, 0, 0⟩) = true ∧
    reads false 0x8800_01D0_0000_0000 (.shpSym h0 ⟨7, 2, 0, 0, 0, 0, 0, 0, 0⟩) = true ∧
    reads false 0x8800_0009_6002_0000 (.shpExt h0 ⟨0, 1, 11, 0, 0, 0, 0, 2, 0⟩) = true ∧
    reads false 0x9000_0180_00A0_0000 (.cpy h0 ⟨6, 0, 0, 0, 2, 1, 0, 0, 0⟩) = true ∧
    reads false 0x9200_0281_6200_0000 (.talloc h0 ⟨10, 0, 11, 1, 0, 0, 0, 0, 0⟩) = true := by decide
theorem test_decode_matrix :
    reads false 0xA300_0415_DBBC_0000 (.mmt h0 ⟨1, 0, 2, 11, 11, 3, 1, 15, 0⟩) = true ∧
    reads false 0xA100_0623_02BC_0000 (.bldm h0 ⟨1, 1, 4, 6, 0, 2, 1, 15, 0⟩) = true ∧
    reads false 0xA200_000B_3002_0000 (.mma h0 ⟨0, 0, 1, 6, 6, 0, 0, 0, 1⟩) = true ∧
    reads false 0xA600_0014_0000_0000 (.mrd h0 ⟨0, 0, 2, 8, 0, 0, 0, 0, 0⟩) = true := by decide
theorem test_decode_fabric :
    reads false 0xB000_0030_424C_0000 (.gld h0 ⟨3, 0, 4, 9, 1, 1, 0, 0⟩) = true ∧
    reads false 0xB400_2030_1094_0001 (.gcol (wait 2) ⟨3, 0, 1, 2, 2, 1, 0, 1⟩) = true ∧
    reads false 0xB500_0000_0000_0003 (.gctx h0 ⟨0, 0, 0, 0, 0, 0, 0, 3⟩) = true := by decide
theorem test_decode_order :
    reads false 0xC000_0020_8800_0000 (.fence h0 ⟨1, 2, 1, 0, 0⟩) = true ∧
    reads false 0xC100_0000_0048_0000 (.sbar h0 ⟨0, 0, 0, 9, 0⟩) = true ∧
    reads false 0xC200_0146_1C00_34A0 (.atom h0 ⟨5, 6, 7, 0, 0, 3, 2, 2, 1⟩) = true ∧
    reads false 0xC400_0109_0000_0260 (.brarr h0 ⟨4, 9, 0, 0, 0, 0, 1, 1, 1⟩) = true ∧
    reads false 0xC700_2345_3000_02A0 (.brwait (wait 2) ⟨13, 5, 12, 0, 0, 0, 1, 2, 1⟩) = true ∧
    reads false 0xC900_040E_3C00_06E0 (.flwait h0 ⟨16, 14, 15, 0, 0, 0, 3, 3, 1⟩) = true := by decide
theorem test_decode_area :
    reads false 0xD400_00C4_0020_2801 (.ard h0 ⟨3, 4, 0, 0, 8, 0, 2, 1, 0, 1⟩) = true ∧
    reads false 0xD300_0314_1400_2801 (.abc h0 ⟨12, 20, 5, 0, 0, 0, 2, 1, 0, 1⟩) = true ∧
    reads false 0xDA00_0081_0000_0800 (.opnd h0 ⟨2, 1, 0, 0, 0, 0, 0, 1, 0, 0⟩) = true := by decide
theorem test_decode_reel :
    reads false 0xE000_0040_0040_0000 (.rlload h0 ⟨1, 0, 0, 1, 0, 0, 0, 0⟩) = true ∧
    reads false 0xE100_0000_0040_C000 (.rlgo h0 ⟨0, 0, 0, 1, 0, 1, 1, 0⟩) = true := by decide
theorem test_decode_privileged :
    reads true 0xF000_0003_0000_0100 (.xwrp h0 ⟨0, 3, 0x100⟩) = true ∧
    reads true 0xF100_0004_0000_0660 (.tlbiPage h0 ⟨0, 4, 0, 0, 0, 0, 3, 1, 1⟩) = true ∧
    reads true 0xF300_4007_0000_0000 (.fltdoneOk (wait 4) ⟨0, 7, 0, 0, 0, 0, 0, 0, 0⟩) = true ∧
    reads true 0xF400_0000_0000_00E0 (.asret h0 ⟨0, 0, 0, 0, 0, 0, 0, 3, 1⟩) = true ∧
    reads true 0xF500_0000_0000_0020 (.ctxsvSave h0 ⟨0, 0, 0, 0, 0, 0, 0, 0, 1⟩) = true ∧
    reads true 0xF500_0000_0003_0060 (.ctxsvKill h0 ⟨0, 0, 0, 0, 3, 0, 0, 1, 1⟩) = true := by decide
theorem test_decode_chunk :
    decodeChunk 0x2800_0000_0100_0000 = some (.red ⟨0, 0, 0, 1, 0, 0⟩) ∧
    decodeChunk 0x0800_0000_0000_0000 = some (.reelEnd ⟨0, 0, 0, 0, 0, 0⟩) ∧
    decodeChunk 0x1000_0000_0000_0000 = some (.send ⟨0, 0, 0, 0, 0, 0⟩) ∧
    decodeChunk 0x3000_0000_0000_0002 = some (.redany ⟨0, 0, 0, 0, 0, 2⟩) := by decide

/-! ### Refused words and ill-formed terms (R113), one for each check -/

theorem test_refused_unassigned : refuses false 0x0C00_0000_0000_0000 .unassigned = true := by decide
theorem test_refused_privileged : refuses false 0xF100_0000_0000_0000 .privop = true := by decide
theorem test_refused_guard : refuses false 0x0010_0000_0000_0000 .rsvval = true := by decide
theorem test_refused_token_class : refuses false 0xA300_0415_DB3C_0000 .rsvval = true := by decide
theorem test_refused_reserved_bit : refuses false 0xA300_0415_DBBC_0001 .rsvbits = true := by decide
theorem test_refused_tile_token : refuses false 0x8000_0058_0CA0_0010 .rsvval = true := by decide
theorem test_refused_special : refuses false 0x0A00_0040_0000_0100 .privreg = true := by decide

theorem test_ill_formed_unused :
    (Instr.endApp h0 ⟨1, 0, 0, 0⟩).wf = false ∧ (Instr.nop h0 ⟨0, 0, 0, 1⟩).wf = false ∧
    (Instr.xrd h0 ⟨1, 0, 0x1000⟩).wf = false ∧ (Instr.add h0 ⟨1, 2, 3, 4, 2, 0, 0, 0⟩).wf = false ∧
    (Instr.li h0 ⟨1, 1, 0⟩).wf = false ∧ (Instr.mov h0 ⟨1, 2, 0, 0, 2, 0, 0, 0⟩).wf = false ∧
    (Instr.vcvt h0 ⟨1, 2, 0, 0, 2, 1, 0, 1⟩).wf = false ∧ (Instr.ld h0 ⟨1, 0, 0, 6, 0, 0, 1, 0, 0⟩).wf = false ∧
    (Instr.bldm h0 ⟨0, 1, 1, 6, 0, 0, 1, 0, 1⟩).wf = false ∧ (Instr.gbind h0 ⟨0, 1, 0, 0, 0, 0, 0, 0⟩).wf = false ∧
    (Instr.fence h0 ⟨1, 1, 0, 1, 0⟩).wf = false ∧ (Instr.atom h0 ⟨1, 2, 3, 4, 0, 3, 0, 0, 1⟩).wf = false ∧
    (Instr.emit h0 ⟨1, 1, 0, 0, 0, 0, 0, 0, 0, 0⟩).wf = false ∧ (Instr.send ⟨0, 0, 1, 0, 0, 0⟩).wf = false := by decide
theorem test_ill_formed_register :
    (Instr.add h0 ⟨32, 1, 1, 0, 2, 0, 0, 0⟩).wf = false ∧ (Instr.kand h0 ⟨8, 0, 0, 0, 0, 0, 0, 0⟩).wf = false ∧
    (Instr.loop h0 ⟨0, 0, 0, 0⟩).wf = false ∧ (Instr.kmov h0 ⟨1, 8, 0, 0, 0, 0, 0, 0⟩).wf = false ∧
    (Instr.vtr4 h0 ⟨2, 0, 0, 0, 6, 0, 0, 0⟩).wf = false ∧ (Instr.mma h0 ⟨0, 0, 32, 6, 6, 0, 0, 0, 0⟩).wf = false := by decide
theorem test_ill_formed_type :
    (Instr.add h0 ⟨1, 1, 1, 0, 8, 0, 0, 0⟩).wf = false ∧ (Instr.fadd h0 ⟨1, 1, 1, 0, 2, 0, 0, 0⟩).wf = false ∧
    (Instr.vadd h0 ⟨1, 1, 1, 0, 3, 0, 0, 0⟩).wf = false ∧ (Instr.vmac h0 ⟨1, 1, 1, 0, 2, 0, 0, 0⟩).wf = false ∧
    (Instr.fcvt h0 ⟨1, 1, 0, 0, 2, 0, 0, 1⟩).wf = false ∧ (Instr.vcvt h0 ⟨1, 2, 0, 0, 6, 0, 0, 6⟩).wf = false ∧
    (Instr.mma h0 ⟨0, 0, 1, 6, 4, 0, 0, 0, 0⟩).wf = false ∧ (Instr.lds h0 ⟨1, 0, 0, 9, 0, 0, 0, 0, 0⟩).wf = false ∧
    (Instr.ldx h0 ⟨1, 0, 0, 11, 0, 1, 0, 0, 0⟩).wf = false ∧ (Instr.ard h0 ⟨1, 1, 0, 0, 3, 0, 0, 1, 0, 0⟩).wf = false ∧
    (Instr.atom h0 ⟨1, 2, 3, 0, 10, 3, 0, 0, 1⟩).wf = false ∧ (Instr.mscl h0 ⟨0, 0, 1, 6, 0, 0, 0, 0, 0⟩).wf = false := by decide
theorem test_ill_formed_mode :
    (Instr.br h0 ⟨7, 1, 1, 0⟩).wf = false ∧ (Instr.shli h0 ⟨1, 1, 64⟩).wf = false ∧
    (Instr.fadd h0 ⟨1, 1, 1, 0, 6, 6, 0, 0⟩).wf = false ∧ (Instr.fcmp h0 ⟨1, 1, 1, 0, 6, 0, 0, 4⟩).wf = false ∧
    (Instr.mulh h0 ⟨1, 1, 1, 0, 2, 0, 1, 0⟩).wf = false ∧ (Instr.vcmp h0 ⟨1, 1, 1, 0, 2, 0, 0, 6⟩).wf = false ∧
    (Instr.vredsum h0 ⟨1, 1, 0, 0, 6, 5, 0, 0⟩).wf = false ∧ (Instr.vqbx ⟨1, 0, 0⟩ ⟨1, 1, 0, 0, 11, 0, 0, 8⟩).wf = false ∧
    (Instr.vqbx h0 ⟨1, 1, 0, 0, 11, 0, 0, 0x48⟩).wf = false ∧ (Instr.shpExt h0 ⟨5, 0, 1, 0, 0, 0, 0, 0, 0⟩).wf = false ∧
    (Instr.mma h0 ⟨0, 0, 1, 6, 6, 0, 0, 16, 0⟩).wf = false ∧ (Instr.gctx h0 ⟨0, 0, 0, 0, 0, 0, 0, 256⟩).wf = false ∧
    (Instr.fence h0 ⟨0, 1, 0, 0, 0⟩).wf = false ∧ (Instr.fence h0 ⟨1, 1, 5, 0, 0⟩).wf = false ∧
    (Instr.sbar h0 ⟨0, 0, 0, 1, 3⟩).wf = false ∧ (Instr.syrd h0 ⟨1, 1, 0, 0, 0, 0, 0, 0, 8, 0⟩).wf = false ∧
    (Instr.rlgo h0 ⟨0, 0, 0, 12, 0, 0, 0, 0⟩).wf = false ∧ (Instr.ptst h0 ⟨0, 1, 1, 0, 0, 0, 3, 0, 0⟩).wf = false := by decide
theorem test_ill_formed_token :
    (Instr.ld h0 ⟨1, 0, 0, 6, 1, 0, 0, 0, 0⟩).wf = false ∧ (Instr.ldg h0 ⟨1, 0, 0, 6, 0, 0, 0, 0, 0⟩).wf = false ∧
    (Instr.stg h0 ⟨1, 0, 0, 6, 1, 0, 0, 0, 0⟩).wf = false ∧ (Instr.brwait h0 ⟨1, 1, 1, 0, 0, 0, 0, 0, 0⟩).wf = false ∧
    (Instr.atom h0 ⟨1, 2, 3, 0, 0, 3, 0, 0, 0⟩).wf = false := by decide
theorem test_ill_formed_special :
    spCheck true (.xrd h0 ⟨1, 0, 0x11⟩) = some .rsvval ∧ spCheck true (.xwr h0 ⟨0, 1, 0x008⟩) ≠ none ∧
    spCheck false (.xwr h0 ⟨0, 1, 0x100⟩) = some .privreg ∧ spCheck true (.xwrp h0 ⟨0, 1, 0x101⟩) ≠ none := by decide
theorem test_ill_formed_chunk :
    (Instr.rrc ⟨0, 0, 0, 1, 1, 0⟩).wf = false ∧ (Instr.red ⟨3, 0, 0, 0, 0, 0⟩).wf = false ∧
    (Instr.redany ⟨0, 0, 0, 0, 0, 0⟩).wf = false ∧ (Instr.redany ⟨0, 0, 0, 0, 0, 257⟩).wf = false ∧
    (Instr.lflag ⟨2, 0, 0, 0⟩).wf = false ∧ (Instr.sig ⟨0, 0, 0, 0⟩).wf = false ∧ (Instr.cwait ⟨0, 0, 0, 0x80000000⟩).wf = false ∧
    (Instr.setc ⟨0, 4, 0, 0⟩).wf = false ∧ (Instr.mark ⟨0, 0, 0, 0x10000⟩).wf = false ∧
    decodeChunk 0x8000_0000_0000_0000 = none := by decide

/-! ### Small states: one unprivileged area 0 that runs in cell 0 -/

def runArea (priv : Bool) (n : Nat) (a : AppCell) : Area :=
  { Area.blank with live := true, priv := priv, cells := [0], ncode := n, phase := .running, apps := [(0, a)] }

def run (priv : Bool) (code : List Word) (a : AppCell) : State :=
  let tag : Tag := ⟨false, 0, 0, priv, code, 0⟩
  let c : Cell := { Cell.blank with serve := [0], cache := [tag] }
  { State.reset with cells := [(0, c)], areas := [(0, runArea priv code.length a)] }

/-- An application with these `s` registers. -/
def regs (l : Tbl Word) : AppCell := { AppCell.start with s := l }
/-- Its state, with a microprogram of four words. -/
def one (a : AppCell) : State := run false [0, 0, 0, 0] a
def after (o : Host.Outcome State Fault Refusal) : State :=
  match o with
  | .next s => s
  | .fault _ => State.reset
  | .refused _ => State.reset
/-- An `s` register of the acting application after an instruction. -/
def sAfter (i : Instr) (s : State) (n : Nat) : Word := (after (exec i s)).app.getS n
def trapOf (s : State) : Option (Nat × Nat) := s.app.trap.map (fun x => (x.cls, x.sub))
def trapAfter (i : Instr) (s : State) : Option (Nat × Nat) := trapOf (after (exec i s))
def nops : AppCell := AppCell.start

/-! ### Encoding and fetch -/

theorem witness_CellRoundTrip :
    let i := Instr.add ⟨7, 1, 255⟩ ⟨31, 31, 31, 0, 14, 0, 1, 0⟩
    let x := Instr.xwrp h0 ⟨0, 31, 0x102⟩
    (isChunk i = false ∧ i.wf = true ∧ i.selected = true ∧ spCheck true i = none ∧ (encode i).isSome = true) ∧
    (isChunk x = false ∧ x.wf = true ∧ x.selected = true ∧ spCheck true x = none ∧ (encode x).isSome = true) := by decide
theorem witness_ChunkRoundTrip :
    let i := Instr.redany ⟨2, 0xFFF, 0, 255, 0, 256⟩
    isChunk i = true ∧ i.wf = true ∧ (encode i).isSome = true := by decide

theorem witness_StepRunsTheDecodedInstruction_cell :
    let s : State := { run false [0x1000_0146_1C02_1000] nops with agenda := [.cell 0] }
    s.board.tripped = false ∧ s.agenda = [.cell 0] ∧ s.canIssue = true ∧ s.wordAt s.app.pc = some 0x1000_0146_1C02_1000 ∧
      reads s.area.priv 0x1000_0146_1C02_1000 (.add h0 ⟨5, 6, 7, 0, 2, 0, 1, 0⟩) = true := by decide
def reelRuns (w : Word) : State :=
  { State.reset with chans := [(0, { Chan.blank with st := .running, prog := [w], bound := some 9, ranks := [] })] }
theorem witness_StepRunsTheDecodedInstruction_reel :
    let s := reelRuns 0x0800_0000_0000_0000
    (s.chanAt 0 0).st = .running ∧ (s.chanAt 0 0).prog[(s.chanAt 0 0).pc]? = some 0x0800_0000_0000_0000 ∧
      decodeChunk 0x0800_0000_0000_0000 = some (.reelEnd ⟨0, 0, 0, 0, 0, 0⟩) := by decide
theorem witness_StepRunsTheDecodedInstruction_event :
    let s : State := { State.reset with agenda := [.event .strandGrant 0] }
    s.board.tripped = false ∧ s.agenda = [.event .strandGrant 0] ∧ encode .strandGrant = none := by decide
theorem witness_StepRunsTheDecodedInstruction_tie :
    let x : HostAcc := ⟨.A, false, 0, false⟩
    let y : HostAcc := ⟨.B, false, 0, false⟩
    let rest : List Action := [.cell 0, .event (.errlogClear y) 0]
    encode (.errlogClear x) = none ∧ (Action.event (.errlogClear x) 0).acc = some x ∧ rival x 0 rest = some (1, y) ∧
      rest[1]? = some (.event (.errlogClear y) 0) ∧ State.reset.hub.tie = x.port ∧ State.reset.board.tripped = false := by decide

theorem witness_FetchTraps :
    let s : State := { run false [0x0C00_0000_0000_0000] nops with agenda := [.cell 0] }
    let t : State := { run false [0] { nops with pc := 1 } with agenda := [.cell 0] }
    (s.canIssue = true ∧ s.wordAt 0 = some 0x0C00_0000_0000_0000 ∧ refuses s.area.priv 0x0C00_0000_0000_0000 .unassigned = true ∧
      waitOver 0 s.app = true) ∧ (t.canIssue = true ∧ t.wordAt t.app.pc = none) := by decide
theorem test_past_the_end :
    trapOf (after (step { run false [0] { nops with pc := 1 } with agenda := [.cell 0] })) = some (1, 6) := by decide
theorem test_privileged_word_traps :
    trapOf (after (step { run false [0xF400_0000_0000_00E0] nops with agenda := [.cell 0] })) = some (1, 2) := by decide
theorem witness_PrivilegedDecode : reads false 0x2400_0080_0000_000C (.li h0 ⟨2, 0, 12⟩) = true := by decide

/-! ### Registers, scalar integers, immediates -/

theorem witness_RegisterFiles : (31 : Nat) ≠ 0 ∧ (30 : Nat) ≠ 31 ∧ (nops.setS 31 5).getS 31 = 5 ∧ (nops.setS 0 5).getS 0 = 0 := by decide
theorem witness_IntegerTypes : (11 : Nat) ∉ intCodes ∧ 3 ∈ intCodes ∧ 12 ∈ intCodes ∧ (3 : Nat) < 12 ∧ (12 : Nat) ≤ 12 := by decide
theorem witness_ScalarIntegerResults :
    let s := one (regs [(6, 0x7FFFFFF0), (7, 0x20)])
    Ready s h0 [.s 5, .s 6, .s 7] ∧ Ready s h0 [.s 5, .s 6, .s 7, .s 8] ∧ Ready s h0 [.s 5, .s 6] ∧
      Ready s h0 [.s 0, .s 6, .s 7] ∧ (2 : Nat) ∈ intCodes := by decide
theorem test_add_sat : sAfter (.add h0 ⟨5, 6, 7, 0, 2, 0, 1, 0⟩) (one (regs [(6, 0x7FFFFFF0), (7, 0x20)])) 5 = 0x7FFFFFFF := by decide
theorem test_add_wraps :
    sAfter (.add h0 ⟨5, 6, 7, 0, 2, 0, 0, 0⟩) (one (regs [(6, 0x7FFFFFF0), (7, 0x20)])) 5 = 0xFFFFFFFF80000010 := by decide
theorem test_discarded : (after (exec (.add h0 ⟨0, 6, 7, 0, 2, 0, 0, 0⟩) (one (regs [(6, 1), (7, 2)])))).app.s = [(6, 1), (7, 2)] := by
  decide
theorem test_sub_unsigned_clamps : sAfter (.sub h0 ⟨5, 6, 7, 0, 12, 0, 1, 0⟩) (one (regs [(6, 3), (7, 5)])) 5 = 0 := by decide
theorem test_mulh : sAfter (.mulh h0 ⟨5, 6, 7, 0, 0, 0, 0, 0⟩) (one (regs [(6, 0x80), (7, 0x80)])) 5 = 0x40 := by decide
theorem test_sra_by_width : sAfter (.sra h0 ⟨5, 6, 7, 0, 0, 0, 0, 0⟩) (one (regs [(6, 0x80), (7, 8)])) 5 = BitVec.allOnes 64 := by decide
theorem test_shl_by_width : sAfter (.shl h0 ⟨5, 6, 7, 0, 3, 0, 0, 0⟩) (one (regs [(6, 1), (7, 64)])) 5 = 0 := by decide
theorem test_cmp_signed : sAfter (.cmp h0 ⟨5, 6, 7, 0, 0, 0, 0, 0⟩) (one (regs [(6, 0xFF), (7, 1)])) 5 = BitVec.allOnes 64 := by decide
theorem test_cmp_unsigned : sAfter (.cmp h0 ⟨5, 6, 7, 0, 12, 0, 0, 0⟩) (one (regs [(6, 0xFF), (7, 1)])) 5 = 1 := by decide
theorem test_clz_zero : sAfter (.clz h0 ⟨5, 6, 0, 0, 1, 0, 0, 0⟩) (one (regs [(6, 0x10000)])) 5 = 16 := by decide
theorem witness_ScalarDivision :
    let by5 := one (regs [(6, 23), (7, 5)])
    let by0 := one (regs [(6, 23)])
    let en := one { regs [(6, 23)] with trapen := 8 }
    (Ready by5 h0 [.s 5, .s 6, .s 7] ∧ (2 : Nat) ∈ intCodes ∧ extTy 2 (by5.app.getS 7).toNat ≠ 0) ∧
    (Ready by0 h0 [.s 5, .s 6, .s 7] ∧ extTy 2 (by0.app.getS 7).toNat = 0 ∧ by0.app.trapen.getLsbD 3 = false) ∧
    (Ready en h0 [.s 5, .s 6, .s 7] ∧ en.app.trapen.getLsbD 3 = true) := by decide
theorem test_div_min_by_minus_one :
    sAfter (.div h0 ⟨5, 6, 7, 0, 0, 0, 0, 0⟩) (one (regs [(6, 0x80), (7, 0xFF)])) 5 = 0xFFFFFFFFFFFFFF80 ∧
    sAfter (.div h0 ⟨5, 6, 7, 0, 0, 0, 1, 0⟩) (one (regs [(6, 0x80), (7, 0xFF)])) 5 = 0x7F := by decide
theorem test_rem_sign_of_dividend :
    sAfter (.rem h0 ⟨5, 6, 7, 0, 2, 0, 0, 0⟩) (one (regs [(6, 0xFFFFFFF9), (7, 2)])) 5 = BitVec.allOnes 64 := by decide
theorem test_div_by_zero_traps :
    trapAfter (.div h0 ⟨5, 6, 7, 0, 2, 0, 0, 0⟩) (one { regs [(6, 23)] with trapen := 8 }) = some (2, 3) := by decide
theorem witness_DivisionOverflow :
    (0 : Nat) ∈ intCodes ∧ minTy 0 ≤ -128 ∧ (-128 : Int) ≤ maxTy 0 ∧ minTy 0 < 0 ∧ tyWidth 0 ≤ 8 ∧ maxTy 0 < 64 * 2 ^ 1 ∧
      (-65 : Int) * 2 ^ 1 < minTy 0 := by decide
theorem witness_ImmediateResults : let s := one (regs [(3, 5)])
    Ready s h0 [.s 3, .s 3] ∧ (63 : BitVec 32).toNat < 64 := by decide
theorem test_li_lih :
    sAfter (.li h0 ⟨3, 0, 0x89AB_CDEF⟩) (one nops) 3 = 0xFFFF_FFFF_89AB_CDEF ∧
    sAfter (.lih h0 ⟨3, 3, 0x0123_4567⟩) (one (regs [(3, 0xFFFF_FFFF_89AB_CDEF)])) 3 = 0x0123_4567_89AB_CDEF := by decide

/-! ### Floating point, masks, vectors, movement -/

def vec (w : Nat) (l : List Nat) : VecVal := VecVal.ofLanes w l
def vregs (l : Tbl VecVal) : AppCell := { AppCell.start with v := l }
def vAfter (i : Instr) (s : State) (n : Nat) : VecVal := (after (exec i s)).app.getV n

theorem witness_RoundingExact :
    (6 : Nat) ∈ [4, 5, 6, 7, 8] ∧ 0x3F80 < 2 ^ (ffmt 6).w ∧ fdec 6 0x3F80 = .fin ⟨false, 128, 128⟩ ∧
      0x7E < 2 ^ (ffmt 4).w ∧ fdec 4 0x7E = .fin ⟨false, 448, 1⟩ ∧ 1 < 2 ^ (ffmt 8).w ∧ fdec 8 1 = .fin ⟨false, 1, 2 ^ 149⟩ := by decide
theorem witness_RoundingDirections :
    let x : Ex := ⟨false, 5, 2⟩
    let y : Ex := ⟨true, 9, 4⟩
    0 < x.den ∧ x.num % x.den ≠ 0 ∧ 2 * (x.num % x.den) = x.den ∧ 2 * (y.num % y.den) < y.den ∧ y.neg = true ∧
      y.den < 2 * ((⟨true, 11, 4⟩ : Ex).num % 4) := by decide
theorem test_stochastic_example :
    (evAdd 5 (fdec 6 0x3F80) (fdec 6 0x3B00)).round 6 5 false 0xC000 = ⟨0x3F81, 1⟩ ∧
    (evAdd 5 (fdec 6 0x3F80) (fdec 6 0x3B00)).round 6 5 false 0x9000 = ⟨0x3F80, 1⟩ := by decide
theorem witness_StochasticDraw : (1 : BitVec 32) ≠ 0 ∧ lfsrStep 1 = 0x80200003 := by decide
theorem witness_ScalarFloatResults :
    let s := one (regs [(1, 0x3F80), (2, 0x3B00)])
    let e := one { regs [(1, 0x3F80), (2, 0x3B00)] with trapen := 1 }
    Ready s h0 [.s 3, .s 1, .s 2] ∧ Ready s h0 [.s 3, .s 1, .s 2, .s 4] ∧ Ready s h0 [.s 3, .s 1] ∧
      ((evAdd 0 (fdec 6 0x3F80) (fdec 6 0x3B00)).round 6 0 false 0).fl &&& s.app.trapen.setWidth 6 = 0 ∧
      ((evAdd 0 (fdec 6 0x3F80) (fdec 6 0x3B00)).round 6 0 false 0).fl.getLsbD 0 = true ∧ e.app.trapen.getLsbD 0 = true := by decide
theorem test_fadd_inexact :
    let t := after (exec (.fadd h0 ⟨3, 1, 2, 0, 6, 3, 0, 0⟩) (one (regs [(1, 0x3F80), (2, 0x3B00)])))
    t.app.getS 3 = 0x3F81 ∧ t.app.fflags = 1 := by decide
theorem test_fadd_enabled_traps :
    trapAfter (.fadd h0 ⟨3, 1, 2, 0, 6, 0, 0, 0⟩) (one { regs [(1, 0x3F80), (2, 0x3B00)] with trapen := 1 }) = some (2, 0) := by decide
theorem test_fma_rounds_once :
    sAfter (.fma h0 ⟨4, 1, 2, 3, 8, 0, 0, 0⟩) (one (regs [(1, 0x3F800001), (2, 0x3F800001), (3, 0xBF800002)])) 4 = 0x28800000 := by decide
theorem test_fmin_number : sAfter (.fmin h0 ⟨4, 1, 2, 0, 8, 0, 0, 0⟩) (one (regs [(1, 0x80000000), (2, 0)])) 4 = 0x80000000 := by decide
theorem test_fcvt_nan : sAfter (.fcvt h0 ⟨4, 1, 0, 0, 2, 1, 0, 6⟩) (one (regs [(1, 0x7FC0)])) 4 = 0 := by decide
theorem test_fcvt_clamps : sAfter (.fcvt h0 ⟨4, 1, 0, 0, 0, 1, 0, 6⟩) (one (regs [(1, 0xC3FA)])) 4 = 0xFFFFFFFFFFFFFF80 := by decide
theorem witness_FloatSpecialCases :
    (EV.nan true).isNaN = true ∧ (0 : Nat) < 1 ∧ (fdec 6 0x7FC0).isNaN = true := by decide
theorem test_zero_times_infinity : evMul (.inf false) (fdec 6 0) = ⟨.nan false, 16⟩ := by decide

theorem witness_MaskResults :
    let s := one (regs [(7, 3)])
    Ready s h0 [] ∧ Ready s h0 [.s 7] ∧ (1 ≤ (4 : BitVec 12).toNat ∧ (4 : BitVec 12).toNat ≤ 4) ∧
      (5 ≤ (8 : BitVec 12).toNat ∧ (8 : BitVec 12).toNat ≤ 8) := by decide
theorem test_kset : (after (exec (.kset h0 ⟨1, 7, 0, 0, 1, 0, 0, 0⟩) (one (regs [(7, 3)])))).app.getK 1 = 7 := by decide
theorem test_kset_saturates :
    (after (exec (.kset h0 ⟨1, 7, 0, 0, 2, 0, 0, 0⟩) (one (regs [(7, 1000)])))).app.getK 1 = 0xFFFFFFFF := by decide
theorem test_kfirst_none : sAfter (.kfirst h0 ⟨3, 1, 0, 0, 2, 0, 0, 0⟩) (one nops) 3 = 32 := by decide
theorem test_kpop_all : sAfter (.kpop h0 ⟨3, 0, 0, 0, 6, 0, 0, 0⟩) (one nops) 3 = 64 := by decide

def vs : State := one (vregs [(1, vec 16 [1, 0x8000, 5]), (2, vec 16 [2, 0x8000, 7]), (3, vec 16 [9, 9, 9])])
theorem witness_VectorIntegerResults :
    (1 : Nat) ∈ intCodes ∧ ReadyLane vs h0 [.v 3, .v 1, .v 2] ∧ ReadyLane vs ⟨2, 1, 0⟩ [.v 3, .v 1, .v 2] ∧
      ReadyLane vs h0 [.v 3, .v 1] ∧ ReadyLane vs h0 [.v 1, .v 2] ∧ (13 : Nat) ∈ [0, 1, 12, 13] := by decide +kernel
theorem test_vadd_sat :
    (vAfter (.vadd h0 ⟨3, 1, 2, 0, 1, 0, 1, 0⟩) vs 3).lanes 16 = [3, 0x8000, 12] ++ List.replicate 61 0 := by decide +kernel
theorem test_vadd_guarded :
    laneAt 16 (vAfter (.vadd ⟨1, 0, 0⟩ ⟨3, 1, 2, 0, 1, 0, 0, 0⟩)
      (one { vs.app with k := [(1, 4)] }) 3) 0 = 9 := by decide +kernel
theorem test_vcmp_lt :
    (after (exec (.vcmp h0 ⟨2, 1, 2, 0, 1, 0, 0, 2⟩) vs)).app.getK 2 = 5 := by decide +kernel
theorem test_vmac :
    laneAt 32 (vAfter (.vmac h0 ⟨3, 1, 2, 0, 1, 0, 0, 0⟩) vs 3) 0 = 0x00090009 + 2 + 0x40000000 := by decide +kernel
theorem witness_VectorFloatResults :
    (6 : Nat) ∈ [6, 7, 8] ∧ ReadyLane vs h0 [.v 3, .v 1, .v 2] ∧ ReadyLane vs h0 [.v 3, .v 1, .v 2, .v 4] ∧
      ReadyLane vs h0 [.v 3, .v 1, .s 2] ∧ ReadyLane vs h0 [.v 3, .v 1] ∧ ReadyLane vs h0 [.v 1, .v 2] ∧
      vs.app.trapen.getLsbD 4 = false := by decide +kernel
/-- A NaN, and two values whose sum is inexact, in an application that lets every flag trap. -/
def flagsOn : State := one { vregs [(1, vec 32 [0x7FC00000, 0x3F800000]), (2, vec 32 [0x4B800001, 0x33800000])] with trapen := 0x3F }
theorem witness_enabled_flags :
    ReadyLane flagsOn h0 [.v 1, .v 2] ∧ ReadyLane flagsOn h0 [.v 3, .v 1] ∧ ReadyLane flagsOn h0 [.s 3, .v 2] ∧
      (fcmpRel 8 1 0x7FC00000 0x4B800001).2 = 16 ∧ flagsOn.app.trapen.getLsbD 4 = true := by decide +kernel
theorem test_enabled_flags_trap :
    trapAfter (.vfcmp h0 ⟨3, 1, 2, 0, 8, 0, 0, 1⟩) flagsOn = some (2, 4) ∧
      trapAfter (.vredsum h0 ⟨3, 2, 0, 0, 8, 0, 0, 0⟩) flagsOn = some (2, 0) ∧
      trapAfter (.vcvt h0 ⟨3, 2, 0, 0, 6, 0, 0, 8⟩) flagsOn = some (2, 0) := by decide +kernel
theorem test_vfneg : laneAt 16 (vAfter (.vfneg h0 ⟨3, 1, 0, 0, 6, 0, 0, 0⟩) vs 3) 1 = 0 := by decide +kernel
theorem test_vexp2_one :
    laneAt 16 (vAfter (.vexp2 h0 ⟨3, 1, 0, 0, 6, 0, 0, 0⟩) (one (vregs [(1, vec 16 [0x3F80])])) 3) 0 = 0x4000 := by decide +kernel
theorem witness_VectorReductions :
    (8 : Nat) ∈ [6, 7, 8] ∧ ReadyLane vs h0 [.s 3, .v 1] ∧ (vs.app.guard ⟨1, 0, 0⟩) = 0 := by decide +kernel
theorem test_vredsum :
    sAfter (.vredsum h0 ⟨3, 1, 0, 0, 8, 0, 0, 0⟩) (one (vregs [(1, vec 32 [0x3F800000, 0x40000000])])) 3 = 0x40400000 := by decide +kernel
theorem test_vredmax_none :
    sAfter (.vredmax ⟨1, 0, 0⟩ ⟨3, 1, 0, 0, 6, 0, 0, 0⟩) vs 3 = 0xFF80 := by decide +kernel

def blockIn : State := one (vregs [(1, vec 32 [0x41200000, 0x3DCCCCCD, 0x3E99999A, 0xC0400000])])
def blockQ : State := after (exec (.vqbx h0 ⟨5, 1, 0, 0, 11, 0, 0, 0x28⟩) blockIn)
theorem witness_VectorConversions :
    (vcvtOk 8 6 1 0 = true ∧ ReadyLane blockIn h0 [.v 5, .v 1]) ∧
    ((11 : BitVec 4) = 9 ∨ (11 : BitVec 4) = 11) ∧ (0x28 : BitVec 12).toNat % 16 ∈ [6, 7, 8] ∧
      ((0x38 : BitVec 12).toNat / 16 % 8 + 1) * lanes 8 ≤ lanes 11 ∧ (8 : Nat) ∈ [6, 7, 8] ∧ (0x2B : BitVec 12).toNat % 16 = 11 := by decide +kernel
theorem test_vqbx_example :
    ((blockQ.app.getV 5).lanes 8).drop 64 = [0x28, 0x9A, 0x01, 0x4C] ++ List.replicate 28 0x80 ++ List.replicate 32 0 ∧
    hdrAt (blockQ.app.getV 5) 2 = 0x1FB03 ∧ blockQ.app.fflags = 1 := by decide +kernel
theorem test_vdqbx_example :
    (vAfter (.vdqbx h0 ⟨6, 5, 0, 0, 8, 0, 0, 0x2B⟩) blockQ 6).lanes 32 =
      [0x41200000, 0x3DD00000, 0x3E800000, 0xC0400000] ++ List.replicate 28 0 := by decide +kernel
theorem test_vcvt_part :
    laneAt 32 (vAfter (.vcvt h0 ⟨3, 1, 0, 0, 8, 0, 0, 0x16⟩) (one (vregs [(1, vec 16 (List.replicate 32 0 ++ [0x3F80]))])) 3) 0 =
      0x3F800000 := by decide +kernel
theorem witness_VectorMovement :
    let s := one { vregs [(1, vec 16 [1, 2])] with s := [(2, 63), (3, 64)] }
    (1 : Nat) ∈ [0, 1, 2, 4, 5, 6, 7, 8, 12, 13, 14] ∧ ReadyLane s h0 [.v 3, .v 1, .v 2] ∧ ReadyLane s h0 [.v 3, .s 1] ∧
      ReadyLane s h0 [.s 3, .v 1, .s 2] ∧ (s.app.getS 2).toNat < lanes 1 ∧ lanes 1 ≤ (s.app.getS 3).toNat ∧
      (s.app.guard h0).getLsbD 63 = true ∧ (s.app.guard ⟨0, 1, 0⟩).getLsbD 63 = false ∧ ReadyLane s h0 [.v 3, .s 1, .s 2] ∧
      ReadyLane s h0 [.v 3, .v 1, .s 2, .s 3] ∧ (13 : Nat) ∈ [0, 1, 12, 13] ∧
      ReadyLane s h0 ((upto 4 4).map Reg.v ++ (upto 0 4).map Reg.v) := by decide +kernel
theorem test_vzip : (vAfter (.vzip h0 ⟨3, 1, 2, 0, 1, 0, 0, 0⟩) vs 3).lanes 16 = [1, 2, 0x8000, 0x8000, 5, 7] ++ List.replicate 58 0 := by decide +kernel
theorem test_vunzip : laneAt 16 (vAfter (.vunzip h0 ⟨3, 1, 2, 0, 1, 0, 0, 1⟩) vs 3) 0 = 0x8000 := by decide +kernel
theorem test_vshf : laneAt 16 (vAfter (.vshf h0 ⟨3, 1, 4, 5, 1, 0, 0, 0⟩)
    (one { vs.app with s := [(4, 1), (5, 77)] }) 3) 0 = 77 := by decide +kernel
theorem test_vext_out_of_range : sAfter (.vext h0 ⟨3, 1, 2, 0, 1, 0, 0, 0⟩)
    (one { vs.app with s := [(2, 64), (3, 5)] }) 3 = 0 := by decide +kernel
theorem test_vtr4 :
    laneAt 16 (vAfter (.vtr4 h0 ⟨4, 0, 0, 0, 1, 0, 0, 0⟩) (one (vregs [(1, vec 16 [10, 11, 12, 13])])) 5) 1 = 11 := by decide +kernel

/-! ### Control, special registers, traps, frame -/

theorem witness_BranchesCallsLoops :
    let s := one (regs [(4, 1), (5, 2)])
    let full := one { nops with rstk := List.replicate 8 1 }
    let room := one { nops with rstk := List.replicate 7 1 }
    (Ready s h0 [.s 4, .s 5] ∧ (6 : BitVec 4).toNat ≤ 6 ∧ CondIs 2 (s.app.getS 4) (s.app.getS 5) ∧ ¬CondIs 1 (s.app.getS 4) (s.app.getS 5)) ∧
    (s.ncode = 4 ∧ (s.app.pc : Int) + (3 : BitVec 28).toInt < 4 ∧ ¬((s.app.pc : Int) + (4 : BitVec 28).toInt < 4) ∧
      ¬(0 ≤ (s.app.pc : Int) + (-1 : BitVec 28).toInt)) ∧
    (Ready room h0 [] ∧ room.app.rstk.length < 8 ∧ 8 ≤ full.app.rstk.length ∧ full.app.rstk = 1 :: List.replicate 7 1 ∧ s.app.rstk = []) ∧
    (Ready s h0 [.s 4] ∧ s.app.getS 5 - 1 ≠ 0 ∧ s.app.getS 4 = 1) := by
  unfold CondIs
  decide
theorem test_br_past_end : trapAfter (.br h0 ⟨0, 0, 0, 4⟩) (one nops) = some (1, 6) := by decide
theorem test_br_last : (after (exec (.br h0 ⟨0, 0, 0, 3⟩) (one nops))).app.pc = 3 := by decide
theorem test_br_unsigned : (after (exec (.br h0 ⟨5, 4, 5, 2⟩) (one (regs [(4, 1), (5, 0xFFFFFFFFFFFFFFFF)])))).app.pc = 2 := by decide
theorem test_call_depth : trapAfter (.call h0 ⟨0, 0, 0, 1⟩) (one { nops with rstk := List.replicate 8 1 }) = some (6, 1) := by decide
theorem test_ret_empty : trapAfter (.ret h0 ⟨0, 0, 0, 0⟩) (one nops) = some (6, 2) := by decide
theorem test_loop_last : (after (exec (.loop h0 ⟨0, 4, 0, 2⟩) (one (regs [(4, 1)])))).app.pc = 1 := by decide
theorem witness_ControlResults :
    let s := one (regs [(4, 1)])
    Ready s h0 [.s 4] ∧ Ready s h0 [] ∧ min ((s.app.getS 0).toNat + (0 : BitVec 28).toNat) (2 ^ 32 - 1) = 0 ∧
      0 < min ((s.app.getS 4).toNat + (0 : BitVec 28).toNat) (2 ^ 32 - 1) ∧ s.app.cmt = false ∧
      (one { nops with cmt := true }).app.cmt = true ∧ (s.app.cmtReq = false ∧ (one { nops with cmtReq := true }).app.cmtReq = true ∧
        (one { nops with cmtReq := true }).app.cmt = false) ∧ s.app.trapen.getLsbD 8 = false ∧
      (one { nops with trapen := 0x100 }).app.trapen.getLsbD 8 = true ∧ ∀ k, k < 8 → s.app.getT k = 0 := by decide
theorem witness_ControlResults_preempted :
    let s := (one (regs [(4, 1)])).modCtx 0 (fun c => { c with pre := .requested 0 false false none })
    Ready s h0 [.s 4] ∧ (s.ctxAt s.desc).pre ≠ .none := by decide
theorem test_end_ends : (after (exec (.endApp h0 ⟨0, 0, 0, 0⟩) (one nops))).cellAt 0 =
    { (one nops).cellAt 0 with serve := [] } := by decide
theorem test_end_waits_for_tokens :
    (after (exec (.endApp h0 ⟨0, 0, 0, 0⟩) (one { nops with t := [(7, 1)] }))).app.ended = false := by decide
theorem witness_GuardedAndWaiting :
    let busy := one { nops with t := [(7, 1)] }
    let skip := one nops
    let marked := one { nops with t := [(2, 1)], marks := [⟨.s 6, 2, none⟩] }
    waitOver 0x80 busy.app = false ∧ (waitOver 0 skip.app = true ∧ skip.app.guardBit ⟨1, 0, 0⟩ = false) ∧
      (waitOver 0 marked.app = true ∧ marked.app.guardBit h0 = true ∧ marked.app.markHit 0 [.s 5, .s 6, .s 7] = true) := by decide
theorem test_marked_operand_traps :
    trapAfter (.add h0 ⟨5, 6, 7, 0, 2, 0, 0, 0⟩) (one { nops with t := [(2, 1)], marks := [⟨.s 6, 2, none⟩] }) = some (3, 0) := by decide
theorem witness_SpecialRegisters :
    let s := one (regs [(3, 5)])
    let done := one { regs [(3, 5)] with cmt := true }
    Ready s h0 [.s 3] ∧ s.app.cmt = false ∧ Ready done h0 [.s 3] ∧ done.app.cmt = true ∧ s.area.operandIn s.cur = [] ∧
      s.area.desc < 128 ∧ (s.ctxAt s.area.desc).prio < 8 ∧ s.app.out.length < 32 := by decide
theorem witness_SpecialRegisters_privileged :
    let p := (one nops).modArea 0 (fun a => { a with priv := true })
    p.area.priv = true ∧ p.genOf (p.asidOf p.area.desc) < 16 := by decide
theorem test_xwr_seed_zero : (after (exec (.xwr h0 ⟨0, 3, 0x00B⟩) (one nops))).app.srseed = 1 := by decide
theorem test_xrd_seed_reset : sAfter (.xrd h0 ⟨5, 0, 0x00B⟩) (one nops) 5 = 0x5EED0001 := by decide
theorem test_xwr_trap_reserved :
    (after (exec (.xwr h0 ⟨0, 3, 0x00C⟩) (one (regs [(3, 0xFFFF)])))).app.trapen = 0x17F := by decide
theorem test_xrd_oplen_empty : sAfter (.xrd h0 ⟨5, 0, 0x003⟩) (one nops) 5 = 0x1FFFF := by decide
theorem witness_SpecialRegisterViews : (0xFFF : BitVec 32).toNat < 4096 := by decide
theorem witness_TrapFrame :
    (one nops).wordAt (one nops).app.pc = some 0 ∧ (one nops).app.trap = none ∧
      ((one nops).raiseTrap 6 3 0).app.trap ≠ none := by decide
theorem test_trap_soft :
    (after (exec (.trap h0 ⟨0, 0, 0, 77⟩) (one nops))).app.trap.map TrapInfo.info = some 77 := by decide
theorem witness_FrameOfRegisterInstructions :
    exec (.li h0 ⟨5, 0, 7⟩) (one nops) = .next (after (exec (.li h0 ⟨5, 0, 7⟩) (one nops))) ∧
      exec (.vtr4 h0 ⟨4, 8, 0, 0, 0, 0, 0, 0⟩) (one nops) = .next (after (exec (.vtr4 h0 ⟨4, 8, 0, 0, 0, 0, 0, 0⟩) (one nops))) ∧
      exec (.xwr h0 ⟨0, 5, 9⟩) (one nops) = .next (after (exec (.xwr h0 ⟨0, 5, 9⟩) (one nops))) := ⟨rfl, rfl, rfl⟩

/-! ### Tile stores, streams, global accesses, tiles, copies -/

/-- The 2×2 INT16 tile at 0x400 (R20). -/
def tw : Word := 0x8008_0440_0100_0400
/-- Cell 0 with that tile, owned by area 0 or by none, its first elements 1 and 2, and stream `a2` over it. -/
def tiled (mine : Option Nat) (a : AppCell) : State :=
  let s := one { a with a := [(2, ⟨true, tileRecord tw, [], none⟩)] }
  s.modCell 0 (fun c => { c with tiles := [⟨0x400, tileLen tw, mine, false, 0⟩], ts := [(0x400, 1), (0x402, 2)] })
/-- `k1` selects the first two lanes. -/
def k2l : AppCell := { nops with k := [(1, 3)], v := [(5, vec 16 [7, 8, 9])] }
def g1 : Hdr := ⟨1, 0, 0⟩

theorem witness_TileStoreLoads :
    let s := tiled (some 0) k2l
    let x := s.app.getA 2
    (s.cellAt s.cur).bad = [] ∧ s.tileHeld 2 true = false ∧ StreamFits x true 1 (x.cursor 0 + 0) ∧ ReadyLane s g1 [.v 1, .s 0] ∧
      (∀ j ∈ activeLanes 64 (s.app.guard g1), x.rc.inRange (x.tuple (0 + j)) = true ∧ (x.rc.addr (x.tuple (0 + j))).1 % 2 = 0) ∧
      ((activeLanes 64 (s.app.guard h0)).filter (fun (j : Nat) => !x.rc.inRange (x.tuple (0 + j)))).head? = some 2 ∧
      Ready s h0 [.s 1, .s 0] ∧ isBX 1 = false ∧ x.rc.inRange (x.tuple 1) = true ∧ x.rc.inRange (x.tuple 2) = false := by
  unfold StreamFits
  decide +kernel
theorem test_ld :
    laneAt 16 (vAfter (.ld g1 ⟨1, 2, 0, 1, 0, 0, 0, 0, 0⟩) (tiled none k2l) 1) 1 = 2 := by decide +kernel
theorem test_ld_out_of_range :
    trapAfter (.ld h0 ⟨1, 2, 0, 1, 0, 0, 0, 0, 0⟩) (tiled none k2l) = some (8, 1) := by decide +kernel
theorem test_lds_moves_cursor :
    let t := after (exec (.lds h0 ⟨1, 2, 0, 1, 0, 0, 0, 0, 1⟩) (tiled none k2l))
    t.app.getS 1 = 2 ∧ (t.app.getA 2).cursor 0 = 1 := by decide +kernel
theorem witness_TileStoreStores :
    let s := tiled (some 0) k2l
    let o := tiled none k2l
    let x := s.app.getA 2
    StreamFits x true 1 (x.cursor 0 + 0) ∧ ReadyLane s g1 [.v 5, .s 0] ∧ (s.recWrite x.rc = .ok ∧ s.tileHeld 2 false = false) ∧ o.recWrite x.rc = .trap ∧
      (∀ j ∈ activeLanes 64 (s.app.guard g1), x.rc.inRange (x.tuple (0 + j)) = true ∧ (x.rc.addr (x.tuple (0 + j))).1 % 2 = 0) ∧
      ((activeLanes 64 (s.app.guard h0)).filter (fun (j : Nat) => !x.rc.inRange (x.tuple (0 + j)))).head? = some 2 ∧
      Ready s h0 [.s 1, .s 0] ∧ isBX 1 = false ∧ x.rc.inRange (x.tuple 0) = true ∧ x.rc.inRange (x.tuple 2) = false ∧ (8 : Nat) ≤ 8 := by
  unfold StreamFits
  decide +kernel
theorem test_st :
    let t := after (exec (.st g1 ⟨5, 2, 0, 1, 0, 0, 0, 0, 0⟩) (tiled (some 0) k2l))
    (t.cellAt 0).tread 0x400 6 = [7, 0, 8, 0, 0, 0] ∧ (t.app.getA 2).cursor 0 = 0 := by decide +kernel
theorem test_sts_false_guard_advances :
    let s := tiled (some 0) k2l
    let x := ((after (exec (.sts ⟨2, 0, 0⟩ ⟨5, 2, 0, 1, 0, 0, 0, 0, 0⟩) s)).app.getA 2)
    x.cursor 0 = (s.app.getA 2).cursor 0 + 1 := by decide +kernel
theorem test_st_foreign_tile :
    trapAfter (.st g1 ⟨5, 2, 0, 1, 0, 0, 0, 0, 0⟩) (tiled none k2l) = some (5, 0) := by decide +kernel

/-- A 128 × 64 BF16 record in memory (R163's example page). -/
def memRec : ShapeRec := ⟨0x20_0400_C000, 6, 2, 0xFF, 0, false, [(0, 128), (1, 64)], [(0, 2), (1, 256)], 0⟩
def far0 (a : AppCell) : State := one { a with a := [(2, ⟨true, memRec, [], none⟩)] }

theorem aligned_of (n : Int) (r : ShapeRec) (ls : List LaneAt)
    (h : ls.all (fun l => match r.loc l.tup with | .at a _ => decide (a % n = 0) | .zero => true | .poison => true) = true) :
    ∀ l ∈ ls, ∀ a sh, r.loc l.tup = .at a sh → a % n = 0 := by
  intro l hl a sh e
  have := List.all_eq_true.mp h l hl
  rw [e] at this
  exact of_decide_eq_true this

theorem witness_GlobalAccesses_stream :
    let s := far0 { nops with cmt := true }
    let x := s.app.getA 2
    s.app.tokRoom 1 2 = true ∧ ReadyLane s h0 [.v 1, .s 0] ∧
      GlobalFits s x false 6 0 (laneTuples x 0 64 (s.app.guard h0)) ∧ Ready s h0 [.s 0] ∧
      GlobalFits s x false 6 0 (laneTuples x 0 64 (BitVec.allOnes 256)) := by
  unfold GlobalFits StreamFits
  refine ⟨by decide +kernel, by decide +kernel, ⟨by decide +kernel, by decide +kernel, ?_⟩, by decide +kernel,
    ⟨by decide +kernel, by decide +kernel, ?_⟩⟩
  all_goals exact aligned_of _ _ _ (by decide +kernel)
theorem witness_GlobalAccesses_gather :
    let s := far0 { nops with cmt := true }
    let x := s.app.getA 2
    ReadyLane s h0 [.v 1, .v 3] ∧ GlobalFits s x false 6 0 (gatherTuples x 0 ((s.app.getV 3).lanes 32) (s.app.guard h0)) := by
  unfold GlobalFits StreamFits
  refine ⟨by decide +kernel, by decide +kernel, by decide +kernel, ?_⟩
  exact aligned_of _ _ _ (by decide +kernel)
theorem witness_GlobalAccesses_tile :
    let s := tiled (some 0) k2l
    let x := s.app.getA 2
    (s.cellAt s.cur).bad = [] ∧ isBX 1 = false ∧
    ReadyLane s h0 [.v 1, .v 3] ∧ GlobalFits s x true 1 0 (gatherTuples x 0 ((s.app.getV 3).lanes 32) (s.app.guard h0)) ∧
      s.recWrite x.rc = .ok ∧ s.tileHeld 2 true = false ∧ s.tileHeld 2 false = false ∧
      (let h := s.modCell 0 (fun c => { c with pend := [⟨1, 0, 0, false, .stream, 2, none, none, false, false, 0, 0, false, [], .grel 0⟩] })
       h.tileHeld 2 true = true ∧ h.tileHeld 2 false = true) := by
  unfold GlobalFits StreamFits
  refine ⟨by decide +kernel, rfl, by decide +kernel, ⟨by decide +kernel, by decide +kernel, ?_⟩, by decide +kernel⟩
  exact aligned_of _ _ _ (by decide +kernel)
theorem witness_SendsEffect :
    (far0 { nops with cmt := true }).app.cmt = true ∧ (far0 nops).app.cmt = false ∧ (far0 nops).ballastUsed 0 + 136 ≤ 65536 ∧
      65536 < (far0 { nops with ballast := [⟨⟨0, 0, 0, false, .stream, 0, none, none, false, false, 0, 0, false, [], .grel 0⟩, 65530⟩] }).ballastUsed 0 + 136 := by
  decide
theorem test_ldg_leaves :
    let t := after (exec (.ldg h0 ⟨2, 2, 0, 6, 1, 1, 0, 0, 0⟩) (far0 nops))
    (t.cellAt 0).pend.length = 1 ∧ t.app.getT 1 = 1 ∧ (t.app.getA 2).cursor 0 = 64 ∧ t.app.pc = 1 := by decide +kernel
theorem test_stg_is_held :
    let t := after (exec (.stg h0 ⟨2, 2, 0, 6, 0, 0, 0, 0, 0⟩) (far0 nops))
    (t.cellAt 0).pend = [] ∧ t.ballastUsed 0 = 136 ∧ t.app.pc = 1 := by decide +kernel

/-- An application that the cell has left, not committed, still fills its buffer. -/
theorem test_ballast_of_the_cell :
    let h : Held := ⟨⟨0, 1, 0, false, .stream, 0, none, none, false, false, 0, 0, false, [], .grel 0⟩, 65530⟩
    let s := (far0 nops).putArea 1 { (far0 nops).area with apps := [(0, { nops with ended := true, ballast := [h] })] }
    (after (exec (.stg h0 ⟨2, 2, 0, 6, 0, 0, 0, 0, 0⟩) s)).app.force = true := by decide +kernel

theorem witness_OperationsIssued : (some 7 : Option Nat) = some 7 ∧ Reg.v 1 ≠ .s 0 := by decide

theorem witness_ShapesAndTiles_records :
    let s := tiled (some 0) { regs [(7, tw), (9, 5)] with v := [(3, ⟨BitVec.ofNat 1024 0x20_0400_C000 ||| (0xFF0206#1024 <<< 64) |||
      (0x40_0000_0080#1024 <<< 128) ||| (2#1024 <<< 288) ||| (256#1024 <<< 320), 0⟩)] }
    let x := s.app.getA 2
    let vr := ShapeRec.ofBytes (leBytes 64 (s.app.getV 3).bits.toNat)
    Ready s h0 [.s 7] ∧ isTile (s.app.getS 7) = true ∧ s.recordCheck (tileRecord tw) true = none ∧
      Ready s h0 [.v 3] ∧ s.recordCheck vr.1 vr.2 = none ∧ vr.1 = memRec ∧
      Ready s h0 [.s 9] ∧ x.valid = true ∧ (1 : BitVec 6).toNat < x.rc.ndim ∧
      s.recordCheck ⟨x.rc.base, x.rc.ety, x.rc.ndim, x.rc.baxis, x.rc.bnd, x.rc.ts,
        tset 0 x.rc.ext 1 ((s.app.getS 0).setWidth 32 + 1), x.rc.str, x.rc.hdr⟩ true = none := by decide +kernel

/-- A context of descriptor 9 whose image has one shape record of 64 bytes at 0x20_0000, translated. -/
def arrayed : State :=
  let im : Image := ⟨0x100000, 0, [⟨4, 0, 64, 0x200000, 0⟩], 0, [], 0, [], [], []⟩
  let e : TlbEnt := ⟨0xFFFF, 0, 0x200000, 65536, 0, true, false, false, 0⟩
  let s := one (regs [(7, 0x9000_0000_8010_0300), (8, 0x9002_0000_0000_0300)])
  let s := s.modCtx 0 (fun c => { c with image := some im })
  let s := s.modBay 0 (fun b => { b with tlb := ⟨[(0, e)], []⟩ })
  s.poke 0 (leBytes 64 (0xFF0206 * 2 ^ 64 + 0x40_0000_0080 * 2 ^ 128 + 2 * 2 ^ 288 + 256 * 2 ^ 320))
theorem witness_ShapesAndTiles_array :
    let w := arrayed.app.getS 7
    Ready arrayed h0 [.s 7] ∧ symTag w = tagARRAY ∧ (w.extractLsb' 49 11).toNat < arrayed.shapeTable.2 ∧
      arrayed.shapeTable.2 ≤ ((arrayed.app.getS 8).extractLsb' 49 11).toNat ∧ symTag (arrayed.app.getS 8) = tagARRAY := by
  decide +kernel
theorem test_shp_array_beyond_table : trapAfter (.shpSym h0 ⟨8, 2, 0, 0, 0, 0, 0, 0, 0⟩) arrayed = some (9, 2) := by decide +kernel
theorem test_shp_array :
    ((after (exec (.shpSym h0 ⟨7, 2, 0, 0, 0, 0, 0, 0, 0⟩) arrayed)).app.getA 2).rc = memRec := by decide +kernel

/-- Room for the page of the spec's example beside operand tiles at 0 to 0x7FFF; the tile two more runs are equal. -/
def allocs : State :=
  let s := one (regs [(9, 0xFE3F), (7, tw), (8, tw + 0x20), (6, 5)])
  let s := s.modArea 0 (fun a => { a with tileb := 65536 })
  s.modCell 0 (fun c => { c with tiles := [⟨0, 0x400, none, false, 0⟩, ⟨0x400, 32, some 0, false, 0⟩, ⟨0x420, 0x7BE0, none, false, 0⟩] })
theorem witness_ShapesAndTiles_talloc :
    Ready allocs h0 [.s 4, .s 9] ∧ footprint 6 64 128 = 16384 ∧ (isBX 6 = true → 128 % 32 = 0) ∧
      allocs.app.held + 16384 ≤ allocs.area.tileb ∧
      (∀ r ∈ (allocs.cellAt 0).tiles, 0x8000 + 16384 ≤ r.off ∨ r.off + r.len ≤ 0x8000) := by decide +kernel
theorem test_talloc_example :
    sAfter (.talloc h0 ⟨4, 0, 9, 6, 0, 0, 0, 0, 0⟩) allocs 4 = 0x83F8_FD82_0000_8000 := by decide +kernel
theorem witness_ShapesAndTiles_tfree :
    Ready allocs h0 [.s 7] ∧ allocs.runNamed (allocs.app.getS 6) = none ∧
      allocs.runNamed tw = some ⟨0x400, 32, some 0, false, 0⟩ ∧
      (tiled none nops).runNamed tw = some ⟨0x400, 32, none, false, 0⟩ := by decide +kernel
theorem test_tfree_foreign : trapAfter (.tfree h0 ⟨7, 0, 0, 0, 0, 0, 0, 0, 0⟩) (tiled none (regs [(7, tw)])) = some (8, 5) := by
  decide +kernel
def twoTiles : State :=
  let s := one (regs [(7, tw), (8, tw + 0x20)])
  s.modCell 0 (fun c => { c with tiles := [⟨0x400, 32, some 0, false, 0⟩, ⟨0x420, 32, none, false, 0⟩], ts := [(0x400, 1), (0x420, 1)] })
theorem witness_ShapesAndTiles_tshr :
    let s := twoTiles
    Ready s h0 [.s 7, .s 8] ∧ s.runNamed (s.app.getS 8) = some ⟨0x420, 32, none, false, 0⟩ ∧ withOff tw 0 = withOff (tw + 0x20) 0 ∧
      (s.cellAt s.cur).tread 0x400 32 = (s.cellAt s.cur).tread 0x420 32 ∧
      ((s.modCell 0 (fun c => { c with ts := [] })).cellAt 0).tread 0x400 32 =
        ((s.modCell 0 (fun c => { c with ts := [] })).cellAt 0).tread 0x420 32 := by decide +kernel
theorem test_tshr :
    let t := after (exec (.tshr h0 ⟨7, 0, 8, 0, 0, 0, 0, 0, 0⟩) twoTiles)
    t.app.getS 7 = tw + 0x20 ∧ (t.cellAt 0).tiles.length = 1 := by decide +kernel

/-- The copy of the spec's example: 16,384 bytes from memory to tile-store offset 0x8000. -/
def pkt (ctl badr : Nat) : VecVal :=
  ⟨BitVec.ofNat 1024 (0x20_0400_C000 + 0x8000 * 2 ^ 64 + 0x1_0000_4000 * 2 ^ 192 + 0x1_0000_0001 * 2 ^ 256 + badr * 2 ^ 704 + ctl * 2 ^ 768), 0⟩
def copier (p : VecVal) (a : AppCell) : State :=
  (one { a with v := [(6, p)] }).modCell 0 (fun c => { c with tiles := [⟨0x8000, 0x4000, some 0, false, 0⟩] })
theorem witness_CopyIssue :
    let s := copier (pkt 2 0) nops
    let p := copyPkt (s.app.getV 6).bits.toNat
    let q := copyPkt (pkt 4 0).bits.toNat
    Ready s h0 [.v 6] ∧ s.app.tokRoom 1 2 = true ∧ p.brv = false ∧ p.dts = true ∧ s.copyStatus p true = 0 ∧ s.copyStatus (copyPkt 0) true = 1 ∧
      q.dts = false ∧ s.app.cmt = false ∧ Ready s h0 [.s 3] ∧ (2 : BitVec 6).toNat < 8 := by decide +kernel
theorem test_cpy_issues :
    let t := after (exec (.cpy h0 ⟨6, 0, 0, 0, 2, 1, 0, 0, 0⟩) (copier (pkt 2 0) nops))
    (t.cellAt 0).pend.length = 1 ∧ t.app.getT 2 = 1 ∧ t.app.pc = 1 := by decide +kernel
theorem test_cpq_reads_and_clears :
    let s := one { nops with cstat := [(2, ⟨3, 0x4000⟩)] }
    let t := after (exec (.cpq h0 ⟨3, 0, 2, 0, 0, 0, 0, 0, 0⟩) s)
    t.app.getS 3 = 0x400003 ∧ t.app.cstat = [] := by decide
theorem witness_CopyPacket :
    let p := copyPkt (pkt 2 0).bits.toNat
    (0 < p.n1 ∧ 0 < p.n2 ∧ 0 < p.n3) ∧ ((copyPkt (2 ^ 1023)).rsvd = false ∧ (copyPkt 0).run = 0) := by decide +kernel
/-- A packet with one reserved bit or value, or one exclusive pair, at a time. -/
theorem witness_CopyPacket_reserved :
    let p := copyPkt (pkt 2 0).bits.toNat
    let cv (c : BitVec 32) : Nat := (c.extractLsb' 3 3).toNat
    p.rsvd = true ∧ (0x100 : BitVec 32).extractLsb' 8 24 ≠ 0 ∧ 5 ≤ cv 0x28 ∧ (cv 0 = 0 ∧ ({ p with hadr := 4 } : CopyPkt).hadr ≠ 0) ∧
      ((0 : BitVec 32).getLsbD 7 = false ∧ ({ p with badr := 16 } : CopyPkt).badr ≠ 0) ∧
      (cv 0x48 ≠ 0 ∧ (0x48 : BitVec 32).getLsbD 6 = true) ∧ ({ p with n2 := 2 } : CopyPkt).n2 ≠ 1 := by decide +kernel
theorem test_copy_reserved_ctl :
    let p := copyPkt (pkt 2 0).bits.toNat
    (tiled (some 0) nops).copyStatus { p with ctl := p.ctl ||| 0x100 } true = 1 := by decide +kernel

/-! ### Matrix unit -/

/-- Row and columns of the spec's FP32 split example (R231). -/
def splitRow : VecVal := vec 16 [0x3EAB, 0x3EAB, 0xBA2B, 0x3EAB, 0x35AC, 0xBA2B]
def splitCol : VecVal := vec 16 [0x3EAB, 0xBA2B, 0x3EAB, 0x35AC, 0x3EAB, 0xBA2B]
def mats : State :=
  one { tiled (some 0) nops |>.app with v := [(1, splitRow)], b := [(0, Bank.ofRows 6 [splitCol])], m := [(1, ⟨true, []⟩)] }
theorem witness_MatrixOnRegisters :
    let s := mats
    let e := one { mats.app with trapen := 0x40 }
    Ready s h0 [.m 0, .b 0, .v 1] ∧ ((s.app.getB 0).ty = 6 ∧ (s.app.getM 1).fp = pairFp 6 ∧ (s.app.getM 0).fp ≠ pairFp 6) ∧
      (s.app.getB 0).ty ≠ 7 ∧ s.app.trapen.getLsbD 6 = false ∧ e.app.trapen.getLsbD 6 = true ∧ Ready s h0 [.m 0] ∧
      Ready s h0 [.m 0, .v 1] ∧ (s.app.getM 0).fp = false ∧ (s.app.getM 1).fp = true ∧ (accConv true 8 false 0).isSome = true ∧
      (accConv true 8 true 0).isSome = true ∧ (accConv true 2 false 0).isSome = false ∧ (accConv true 2 true 0).isSome = false := by decide +kernel
theorem test_mma_split :
    let t := after (exec (.mma h0 ⟨0, 0, 1, 6, 6, 0, 0, 0, 1⟩) mats)
    let u := after (exec (.mrd h0 ⟨0, 0, 2, 8, 0, 0, 0, 0, 0⟩) t)
    laneAt 32 (u.app.getV 2) 0 = 0x3DE3_8E3A ∧ (u.app.getV 2).side = 0 := by decide +kernel
theorem test_mma_other_kind : trapAfter (.mma h0 ⟨0, 0, 1, 6, 6, 0, 0, 0, 0⟩) mats = some (10, 3) := by decide +kernel
theorem test_mma_other_type : trapAfter (.mma h0 ⟨1, 0, 1, 7, 7, 0, 0, 0, 0⟩) mats = some (10, 2) := by decide +kernel
/-- An accumulator of two rows over the 2×… INT32 record of 16 columns at 0x400. -/
def mstRec : ShapeRec := ⟨0x400, 8, 2, 0xFF, 0, true, [(0, 16), (1, 16)], [(0, 4), (1, 64)], 0⟩
def msts : State :=
  let s := one { nops with a := [(2, ⟨true, mstRec, [], none⟩)], m := [(1, ⟨true, [(0, 0x3F800000)]⟩)] }
  s.modCell 0 (fun c => { c with tiles := [⟨0x400, 1024, some 0, false, 0⟩] })
theorem witness_MatrixOnRegisters_mst :
    let s := msts
    let x := s.app.getA 2
    StreamFits x true 8 (x.cursor 0) ∧ s.recWrite x.rc = .ok ∧
      ∀ q, q < 16 → ∀ j, j < 16 → x.rc.inRange (x.rowTuple j q) = true ∧ (x.rc.addr (x.rowTuple j q)).1 % 4 = 0 := by
  unfold StreamFits
  decide +kernel
theorem test_mst : ((after (exec (.mst h0 ⟨1, 0, 2, 8, 0, 0, 0, 0, 0⟩) msts)).cellAt 0).tread 0x400 4 = [0, 0, 0x80, 0x3F] := by
  decide +kernel
/-- A bank's rows in a tile and in memory. -/
def bankRec (ts : Bool) : ShapeRec := ⟨if ts then 0x400 else 0x20_0400_C000, 6, 2, 0xFF, 0, ts, [(0, 64), (1, 4)], [(0, 2), (1, 128)], 0⟩
def banks (ts : Bool) : State :=
  let s := one { nops with a := [(2, ⟨true, bankRec ts, [], none⟩)], b := [(0, Bank.ofRows 6 [])], m := [(1, ⟨true, []⟩)] }
  s.modCell 0 (fun c => { c with tiles := [⟨0x400, 512, some 0, false, 0⟩] })
theorem witness_MatrixStreams :
    let s := banks true
    let u := banks false
    (s.app.tokRoom 1 3 = true ∧ rowsCheck s (s.app.getA 2) .either 6 4 = none ∧ rowsRange (s.app.getA 2) 6 4 = none ∧
      (s.app.getA 2).rc.ts = true ∧ Ready s h0 [.b 0] ∧ Ready s h0 [.m 1, .b 0] ∧ (s.app.getB 0).ty = 6 ∧
      (s.app.getM 1).fp = pairFp 6) ∧
    (rowsCheck u (u.app.getA 2) .either 6 4 = none ∧ rowsRange (u.app.getA 2) 6 4 = none ∧ (u.app.getA 2).rc.ts = false) ∧
    (rowsCheck s (s.app.getA 2) .tile 6 4 = none ∧ s.recWrite (s.app.getA 2).rc = .ok ∧ rtCheck (s.app.getA 2) 6 4 = none ∧
      Ready s h0 [] ∧ s.area.joins = [] ∧ s.tileHeld 2 true = false) := by decide +kernel
theorem witness_MatrixStreams_bank_read :
    let s := after (exec (.mmt h0 ⟨1, 0, 2, 6, 6, 3, 1, 3, 0⟩) (banks false))
    s.bankRead 0 = true ∧ s.app.guardBit h0 = true ∧ (banks true).bankRead 0 = false ∧ s.app.tokRoom 1 3 = true := by decide +kernel
/-- A join of cell `c` in multicast group 0's send 0 with this role and type, as `banks` stands. -/
def joinOf (c role : Nat) (ty : BitVec 4) (sent : Nat) : McJoin := ⟨c, 0, 0, role, ty, 3, 7, 0, (banks true).app.getA 2, [VecVal.zero], sent, false⟩
def joined (l : List McJoin) : State := (banks true).modArea 0 (fun a => { a with joins := l })
def Agrees (x : State) (role : Nat) (j : McJoin) : Prop := j.grp = 0 → j.k = tget 0 x.app.nmc 0 → j.ty = 6 ∧ j.nrow = 3 ∧ ¬(j.role = 0 ∧ role = 0)
def Sends (x : State) : Prop :=
  Ready x h0 [] ∧ (∀ j ∈ x.area.joins, j.cell = x.cur → j.role = 0 → j.nrow < j.sent) ∧
    rowsCheck x (x.app.getA 2) .either 6 4 = none ∧ rowsRange (x.app.getA 2) 6 4 = none ∧ x.tileHeld 2 true = false
/-- A sender with a receiver before it, one whose own earlier send is out, a receiver of another type and a second sender. -/
theorem witness_MatrixStreams_agreeing :
    Sends (joined [joinOf 1 2 6 0]) ∧ ∀ j ∈ (joined [joinOf 1 2 6 0]).area.joins, Agrees (joined [joinOf 1 2 6 0]) 0 j := by
  unfold Sends Agrees
  decide +kernel
theorem witness_MatrixStreams_own_send :
    let s := joined [{ joinOf 0 0 6 4 with k := 5 }]
    Sends s ∧ ∀ j ∈ s.area.joins, Agrees s 0 j := by
  unfold Sends Agrees
  decide +kernel
theorem witness_MatrixStreams_other_type :
    Sends (joined [joinOf 1 2 7 0]) ∧ ∃ j ∈ (joined [joinOf 1 2 7 0]).area.joins, ¬Agrees (joined [joinOf 1 2 7 0]) 0 j := by
  unfold Sends Agrees
  decide +kernel
theorem witness_MatrixStreams_second_sender :
    Sends (joined [joinOf 1 0 6 0]) ∧ ∃ j ∈ (joined [joinOf 1 0 6 0]).area.joins, ¬Agrees (joined [joinOf 1 0 6 0]) 0 j := by
  unfold Sends Agrees
  decide +kernel
theorem test_bldm_mismatch :
    let t := after (exec (.bldm h0 ⟨0, 0, 2, 6, 0, 3, 1, 3, 0⟩) (joined [joinOf 1 2 7 0]))
    t.area.joins.length = 1 ∧ (t.cellAt 0).pend = [] ∧ t.app.nmc = [] ∧ t.app.trap.isSome = true := by decide +kernel
theorem test_bld_memory :
    let t := after (exec (.bld h0 ⟨0, 0, 2, 6, 0, 3, 1, 3, 0⟩) (banks false))
    (t.cellAt 0).pend.length = 1 ∧ (t.app.getA 2).cursor 1 = 0 := by decide +kernel
theorem test_bldm_joins :
    (after (exec (.bldm h0 ⟨0, 1, 2, 6, 0, 3, 1, 3, 0⟩) (banks true))).area.joins.map McJoin.role = [1] := by decide +kernel

/-! ### Order, atomics, flags, bridles -/

/-- The first page of HBM mapped at 0x1_0000 for the unbound ASID of descriptor 0. -/
def mapped (a : AppCell) : State :=
  (one a).modBay 0 (fun b => { b with tlb := ⟨[(0, ⟨0xFFFF, 0, 0x10000, 65536, 0, true, false, false, 0⟩)], []⟩ })
theorem witness_Synchronisation_fence : Ready (one nops) h0 [] ∧ (one { nops with cmt := true }).app.cmt = true := by decide
/-- A fence issued before commit while effect 3 was held; the cell's earlier application has left a write of operation 2 in its buffer. -/
theorem witness_Synchronisation_acts_on :
    let g : PendOp := ⟨9, 0, 0, false, .portal, 0, none, none, false, false, 0, 0, false, [], .fence 1 1 4 0 none (some (false, [3]))⟩
    let w : BufWrite := ⟨.stream, 2, 0, 0, 0, 2, 9, 0x5000, [1]⟩
    let s : State := { one nops with bufs := [w] }
    g.kind = .fence 1 1 4 0 none (some (false, [3])) ∧ ¬((some 0 : Option Nat) = some g.area ↔ (false : Bool) = true) ∧
      (w ∈ s.bufs ∧ (0 : Nat) < 2 ∧ w.cell = 0 ∧ (1 : BitVec 7).getLsbD (pathBit w.path) = true ∧ w.op < g.id ∧ [3].contains w.op = false ∧ w.level < 4) := by
  decide +kernel
theorem test_fence_before_commit :
    let t := after (exec (.fence h0 ⟨1, 1, 4, 0, 0⟩) (one nops))
    (t.cellAt 0).pend.map PendOp.held = [false] ∧ t.app.ballast.map (fun q => q.op.held) = [true] := by decide +kernel
theorem witness_Synchronisation_tile_atomic :
    let s := tiled (some 0) (regs [(6, 0x8000_0000_0000_0400), (7, 5)])
    let w := s.app.getS 6
    s.app.tokRoom 1 2 = true ∧ Ready s h0 [.s 5, .s 7, .s 6] ∧ w.getLsbD 63 = true ∧ w.extractLsb' 19 44 = 0 ∧
      (w.extractLsb' 0 19).toNat % 4 = 0 ∧ (s.cellAt s.cur).runOver 0x400 4 = some ⟨0x400, 32, some 0, false, 0⟩ ∧
      s.mayRead ⟨0x400, 32, some 0, false, 0⟩ = true ∧ s.mayWrite ⟨0x400, 32, some 0, false, 0⟩ = .ok ∧
      atomAccepts none 0 0 = none ∧ s.tileHeld 8 false = false := by decide +kernel
theorem test_atom_tile :
    let t := after (exec (.atom h0 ⟨5, 6, 7, 0, 0, 2, 0, 2, 1⟩) (tiled (some 0) (regs [(6, 0x8000_0000_0000_0400), (7, 5)])))
    (t.cellAt 0).tread 0x400 4 = [6, 0, 2, 0] ∧ t.app.getT 2 = 1 := by decide +kernel
theorem witness_Synchronisation_memory_atomic :
    let s := mapped { regs [(6, 0x10008), (7, 5)] with cmt := true }
    let w := s.app.getS 6
    w.getLsbD 63 = false ∧ vaOk s.area.priv w.toNat = true ∧ w.toNat % 8 = 0 ∧
      s.lookup s.home s.me w.toNat (0 != 11) = some ⟨0xFFFF, 0, 0x10000, 65536, 0, true, false, false, 0⟩ ∧
      spaceOf 8 = some .hbm ∧ atomAccepts (some .hbm) 0 3 = none ∧ Ready s h0 [.s 0, .s 7, .s 6] := by decide +kernel
theorem witness_Synchronisation_flags :
    let s := one { regs [(6, 7), (7, 5)] with cmt := true }
    Ready s h0 [.s 5, .s 6, .s 7] ∧ Ready s h0 [.s 6, .s 7] ∧ s.app.cmt = true ∧ s.watchRoom 7 5 = true ∧ s.app.tokRoom 0 0 = true := by
  decide +kernel
theorem test_flwait_enters :
    (after (exec (.flwait h0 ⟨16, 6, 7, 0, 0, 0, 3, 3, 1⟩) (one { regs [(6, 7), (7, 5)] with cmt := true }))).watch.map Watch.idx = [7] := by
  decide +kernel

/-- A slot bridle of cell 0 that area 0 named, and a memory bridle at 0x1_0000. -/
def bridled (a : AppCell) : State :=
  (mapped a).modCell 0 (fun c => { c with bridles := [(3, { Bridle.blank with area := some 0, apend := 2, areset := 2 })] })
theorem witness_Bridles :
    let s := bridled { regs [(5, 0x8000_0000_0000_0003), (6, 0x10000), (7, 4), (8, 32768)] with cmt := true }
    s.app.tokRoom 1 1 = true ∧ s.handle (s.app.getS 5) 1 true = .ok (.slot 0 3) ∧ s.handle (s.app.getS 5) 1 false = .ok (.slot 0 3) ∧
      s.handle (s.app.getS 6) 3 true = .ok (.mem 0x10000) ∧ s.handle (s.app.getS 6) 3 false = .ok (.mem 0x10000) ∧
      Ready s h0 [.s 4, .s 5] ∧ Ready s h0 [.s 5, .s 7] ∧ Ready s h0 [.s 4, .s 5, .s 7] ∧
      (0 < (s.app.getS 7).toNat ∧ (s.app.getS 7).toNat ≤ 32767) ∧ 32767 < (s.app.getS 8).toNat ∧ (s.app.getS 9).toNat = 0 ∧
      (s.app.getS 8).toNat < 2 ^ 40 ∧ s.app.cmt = true := by
  refine ⟨by decide, rfl, rfl, rfl, rfl, by decide, by decide, by decide, by decide, by decide, by decide, by decide, by decide⟩
theorem test_brinit_count : trapAfter (.brinit h0 ⟨0, 5, 9, 0, 0, 0, 1, 0, 0⟩)
    (bridled (regs [(5, 0x8000_0000_0000_0003)])) = some (11, 3) := by decide +kernel
theorem witness_Bridles_evaluation :
    let us := [BrUpd.arr, BrUpd.drop, BrUpd.exp 16, BrUpd.land 16]
    (us.all (fun u => match u with
      | .init _ => false | .arr => true | .drop => true | .exp _ => true | .issue _ => true | .land _ => true | .fail => true)) = true ∧
      us ≠ [] ∧ (bridled nops).bridleAt (.slot 0 3) = { Bridle.blank with area := some 0, apend := 2, areset := 2 } := by decide +kernel
theorem witness_Bridles_once :
    let b (o : Bool) : Bridle := { Bridle.blank with area := some 0, apend := 2, areset := 2, upd := [(.arr, none)], once := o }
    let s (o : Bool) : State := (bridled nops).modCell 0 (fun c => { c with bridles := [(3, b o)] })
    ((s false).bridleAt (.slot 0 3)).upd ≠ [] ∧ ((s false).bridleAt (.slot 0 3)).once = false ∧ ((s true).bridleAt (.slot 0 3)).once = true := by
  decide +kernel
theorem test_evaluated_once_a_cycle :
    let b : Bridle := { Bridle.blank with area := some 0, apend := 2, areset := 2, upd := [(.arr, none)] }
    let t := after (exec (.bridleEvaluation (.slot 0 3)) ((bridled nops).modCell 0 (fun c => { c with bridles := [(3, b)] })))
    let u := t.bridleUpd (.slot 0 3) .arr none
    ((after (exec (.bridleEvaluation (.slot 0 3)) u)).bridleAt (.slot 0 3)).apend = 1 ∧ (u.cycle.bridleAt (.slot 0 3)).apend = 1 ∧
      (u.cycle.cycle.bridleAt (.slot 0 3)).phase = true := by decide +kernel
theorem test_phase_advances :
    let ev := evalBridle { Bridle.blank with apend := 2, areset := 2 } [.arr, .drop] 0
    ev.rc.phase = true ∧ ev.rc.apend = 1 ∧ ev.rc.areset = 1 ∧ ev.ok = true := by decide +kernel
theorem witness_CopyIssue_bridle :
    let s := (bridled nops).modCell 0 (fun c => { c with tiles := [⟨0x8000, 0x4000, some 0, false, 0⟩] })
    let p := copyPkt (pkt 0x82 0x8000_0000_0000_0003).bits.toNat
    p.brv = true ∧ p.dts = true ∧ s.copyBridle p 0 = some (.slot 0 3) := by decide +kernel

/-! ### Fabric -/

def g3 : Graph :=
  { Graph.blank with loaded := true, sail0 := 32, nsail := 1, inFmt := 6, outFmt := 6, nin := 128, nout := 128, lat := 3, bin := ⟨true, memRec, [], none⟩, bout := ⟨true, memRec, [], none⟩ }
def gst (g : Graph) (a : AppCell) : State := (far0 { a with cmt := true }).putGraph 0 3 g
def bare : Graph := { g3 with bin := StreamReg.invalid }
def small : Graph := { g3 with inFmt := 0, outFmt := 1, nin := 2, nout := 1 }

theorem witness_FabricInstructions :
    let s := gst g3 (regs [(4, 0x20_0400_C000), (5, 8)])
    let n := gst Graph.blank (regs [(4, 0x20_0400_C000)])
    s.app.tokRoom 1 1 = true ∧ Ready s h0 [.s 4, .s 9] ∧ s.app.cmt = true ∧ vaOk s.area.priv (s.app.getS 4).toNat = true ∧
      (s.app.getS 4).toNat % 64 = 0 ∧ vaOk s.area.priv (s.app.getS 5).toNat = false ∧ Ready s h0 [] ∧
      (n.graphAt n.desc 3).loaded = false ∧ (n.graphAt n.desc 3).loading = none ∧ (s.graphAt s.desc 3).loaded = true ∧
      bindCheck (s.graphAt s.desc 3) (s.app.getA 2) false = none ∧ bindCheck (s.graphAt s.desc 3) (s.app.getA 2) true = none := by
  decide +kernel
theorem witness_FabricInstructions_streams :
    let s := gst g3 nops
    let b := gst bare nops
    Ready s h0 [.s 9] ∧ g3.bin.valid = true ∧ g3.bout.valid = true ∧ bindRange s.area.priv g3.bin g3.nin (s.strAhead s.desc 3).1 1 = none ∧
      bindRange s.area.priv g3.bout g3.nout (s.strAhead s.desc 3).2 1 = none ∧
      (b.graphAt b.desc 3).loaded = true ∧ (b.graphAt b.desc 3).bin.valid = false ∧
      (g3.sail0 < 256 ∧ g3.nsail < 128 ∧ g3.plane < 4 ∧ g3.lat < 256 ∧ g3.hist < 256) ∧
      (1 ≤ s.quantum g3.die g3.plane ∧ s.quantum g3.die g3.plane ≤ 256 ∧ g3.inq.length < 64) := by decide +kernel
theorem witness_FabricInstructions_gcol :
    let s := gst small nops
    Ready s h0 [.v 1, .v 2] ∧ (2 * small.nin ≤ lanes small.inFmt.toNat ∧ 2 * small.nout ≤ lanes small.outFmt.toNat) ∧
      (lanes small.inFmt.toNat < 65 * small.nin) := by decide +kernel
theorem test_gcol_width : trapAfter (.gcol h0 ⟨3, 0, 1, 2, 2, 1, 0, 64⟩) (gst small nops) = some (12, 3) := by decide +kernel
theorem test_gqry_unloaded : sAfter (.gqry h0 ⟨3, 0, 0, 9, 0, 0, 0, 0⟩) (gst Graph.blank (regs [(9, 7)])) 9 = 0 := by decide +kernel
theorem test_gstr_no_stream : trapAfter (.gstr h0 ⟨3, 0, 0, 9, 1, 1, 0, 0⟩) (gst bare nops) = some (12, 2) := by decide +kernel
theorem witness_FabricInstructions_gld :
    let m := gst Graph.blank (regs [(4, 0x20_0400_C008)])
    let l := gst { Graph.blank with loading := some 5 } (regs [(4, 0x20_0400_C000)])
    vaOk m.area.priv (m.app.getS 4).toNat = true ∧ (m.app.getS 4).toNat % 64 ≠ 0 ∧ Ready m h0 [.s 4, .s 9] ∧
      (l.graphAt l.desc 3).loading ≠ none ∧ Ready l h0 [.s 4, .s 9] := by decide +kernel
theorem test_gld_misaligned_then_handle :
    let t := after (exec (.gld h0 ⟨3, 0, 4, 9, 1, 1, 0, 0⟩) (gst Graph.blank (regs [(4, 0x20_0400_C008)])))
    (t.graphAt t.desc 3).loading = some t.nextOp ∧ (t.graphAt t.desc 3).loaded = false := by decide +kernel
theorem test_gld_occupied :
    let t := after (exec (.gld h0 ⟨3, 0, 4, 9, 1, 1, 0, 0⟩) (gst g3 (regs [(4, 0x20_0400_C000)])))
    (t.cellAt 0).done.length = 1 ∧ (t.cellAt 0).pend.length = 0 := by decide +kernel

def queued : Graph := { small with inq := [⟨1, 0, false, [1, 2], 0, false⟩] }
def seqAt (q : Seqr) (g : Graph) : State := { (one nops).putGraph 0 3 g with seqrs := tset Seqr.blank [] 0 q }
theorem witness_PlaneSequencer_step :
    let s := seqAt ⟨0, false, none, 3, 7, 16⟩ queued
    let full : Graph := { queued with lat := 0, outq := List.replicate 32 ⟨1, 0, [], [], 0⟩ }
    let held := (seqAt ⟨0, false, none, 3, 7, 16⟩ full).modCell 0 (fun c => { c with pend := [⟨1, 0, 0, false, .fabric, 0, some 1, none, false, false, 0, 0, false, [], .gstr 3 9 1 0 ⟨[], []⟩ 0⟩] })
    s.unit = 0 ∧ (s.seqrAt 0).idle = false ∧ (s.seqrAt 0).switch = none ∧ (s.seqrAt 0).steps < 16 ∧ (s.seqrAt 0).still < 8 ∧
      s.planeReady 0 0 = true ∧ ((s.planeGraphs 0 0).filter (fun p => s.canStep p.2)).length = 1 ∧ held.planeReady 0 0 = true ∧ (held.planeGraphs 0 0).filter (fun p => held.canStep p.2) = [] := by
  decide +kernel
theorem witness_PlaneSequencer_leave :
    let none_ := seqAt ⟨1, false, none, 16, 0, 16⟩ small
    let other := seqAt ⟨1, false, none, 16, 8, 16⟩ queued
    (none_.planeReady 0 0 = false ∧ none_.planeReady 0 1 = false ∧ none_.planeReady 0 2 = false ∧ none_.planeReady 0 3 = false) ∧
      (other.planeReady 0 ((1 + 2 + 1) % 4) = true ∧ other.planeReady 0 ((1 + 0 + 1) % 4) = false ∧ other.planeReady 0 ((1 + 1 + 1) % 4) = false) ∧
      (16 ≤ (other.seqrAt 0).steps ∧ 8 ≤ (other.seqrAt 0).still) ∧
      (let idle := seqAt ⟨1, true, none, 0, 0, 16⟩ queued
       (idle.seqrAt 0).idle = true ∧ idle.planeReady 0 ((1 + 2 + 1) % 4) = true ∧ idle.planeReady 0 ((1 + 0 + 1) % 4) = false ∧
         idle.planeReady 0 ((1 + 1 + 1) % 4) = false ∧ (seqAt ⟨1, true, none, 0, 0, 16⟩ small).planeReady 0 0 = false) ∧ (seqAt ⟨1, false, some 0, 0, 0, 16⟩ small).seqrAt 0 = ⟨1, false, some 0, 0, 0, 16⟩ := by
  decide +kernel
/-- Only the plane that is left has a ready graph: the sequencer stays on it. -/
theorem witness_PlaneSequencer_stays :
    let s := seqAt ⟨0, false, none, 16, 8, 16⟩ queued
    (s.seqrAt 0).plane < 4 ∧ 16 ≤ (s.seqrAt 0).steps ∧ s.planeReady 0 ((0 + 3 + 1) % 4) = true ∧
      ∀ j, j < 3 → s.planeReady 0 ((0 + j + 1) % 4) = false := by decide +kernel
theorem test_quantum_expiry_switches :
    ((after (exec .quantumExpiry (seqAt ⟨1, false, none, 16, 8, 16⟩ queued))).seqrAt 0).switch = some 0 := by decide +kernel

/-! ### Reading, replacing, collectives -/

def spoken (a : AppCell) : State :=
  (one a).modArea 0 (fun x => { x with slotb := 2, opPos := 1, opLen := 1, syms := [⟨0, 0, 0x1000_0000_0000_0000⟩, ⟨0, 1, 0x6000_0000_0000_0007⟩, ⟨0, 2, 0x2000_0000_0000_0000⟩] })
theorem witness_ReadingAndReplacing :
    let s := spoken (regs [(1, 2), (4, 0x6000_0000_0000_0007), (5, 0x8008_0440_0100_0400)])
    let f := spoken { regs [(4, 0x6000_0000_0000_0007)] with out := [⟨0, 0⟩, ⟨0, 0⟩] }
    Ready s h0 [.s 2, .s 1] ∧ ((s.area.syms.filter (fun y => y.cell == s.cur))[2]? = some ⟨0, 2, 0x2000_0000_0000_0000⟩) ∧
      (s.area.syms.filter (fun y => y.cell == s.cur)).length ≤ 3 ∧ s.app.tokRoom 1 0 = true ∧
      (emitBad (s.app.getS 4) = false ∧ ¬(s.area.slotb ≤ s.app.out.length ∨ 16 ≤ s.app.out.length)) ∧
      emitBad (s.app.getS 5) = true ∧ f.area.slotb ≤ f.app.out.length ∧ s.runNamed (s.app.getS 4) = none := by decide +kernel
theorem witness_ReadingAndReplacing_emitt :
    let s := tiled (some 0) (regs [(5, tw)])
    s.runNamed (s.app.getS 5) = some ⟨0x400, 32, some 0, false, 0⟩ ∧ s.mayRead ⟨0x400, 32, some 0, false, 0⟩ = true ∧
      s.sharers s.cur 0x400 < 8 := by decide +kernel
theorem witness_ReadingAndReplacing_tok :
    let s := (spoken { nops with cmt := true }).modCtx 0 (fun c => { c with tids := [0, 1] })
    Ready s h0 [.s 3] ∧ s.app.cmt = true ∧ (2 : Nat) < 0xFFFC ∧ 2 ∉ (s.ctxAt s.desc).tids ∧ ∀ j, j < 2 → j ∈ (s.ctxAt s.desc).tids := by
  decide +kernel
/-- The same with one operation pending under token 5 and one finished. -/
def outstanding : State :=
  ((spoken { nops with cmt := true, t := [(5, 2)] }).modCtx 0 (fun c => { c with tids := [0, 1] })).modCell 0 (fun c => { c with
    pend := [⟨1, 0, 0, false, .stream, 0, some 5, none, false, false, 0, 0, false, [], .grel 0⟩],
    done := [⟨2, 0, 0, some 5, none, [], 0, 0, false, none⟩] })
theorem witness_ReadingAndReplacing_tok_outstanding :
    let s := outstanding
    let under (ar : Nat) (tk det : Option Nat) : Bool := ar == s.here && tk == some 5 && det == none
    Ready s h0 [.s 3] ∧ s.app.cmt = true ∧ 2 ∉ (s.ctxAt s.desc).tids ∧ (∀ j, j < 2 → j ∈ (s.ctxAt s.desc).tids) ∧
      0 < ((s.cellAt s.cur).pend.filter (fun o => under o.area o.tok o.det)).length + ((s.cellAt s.cur).done.filter (fun o => under o.area o.tok o.det)).length := by
  decide +kernel
theorem test_tok_lists_the_detached :
    let t := after (exec (.tok h0 ⟨3, 0, 0, 0, 0, 5, 0, 0, 0, 0⟩) outstanding)
    (t.ctxAt 0).detached = [(2, 2, false)] ∧ (t.cellAt 0).pend.map PendOp.det = [some 2] := by decide +kernel
theorem witness_ReadingAndReplacing_limits :
    let at16 (slotb : Nat) (sys : Bool) : State :=
      (spoken { regs [(4, 0x6000_0000_0000_0007)] with out := List.replicate 16 ⟨0, 0⟩ }).modArea 0 (fun x => { x with slotb := slotb, sys := sys })
    let f := at16 17 false
    f.area.sys = false ∧ f.app.out.length < f.area.slotb ∧ 16 ≤ f.app.out.length ∧ emitBad (f.app.getS 4) = false ∧
      (f.ctxAt f.desc).freeTid ≠ none ∧
      ¬((at16 2 true).area.sys = false ∧ ((at16 2 true).area.slotb ≤ (at16 2 true).app.out.length ∨ 16 ≤ (at16 2 true).app.out.length)) := by decide +kernel
theorem witness_ReadingAndReplacing_tok_uncommitted :
    let s := spoken { nops with out := [⟨0, 0⟩, ⟨0, 0⟩] }
    Ready s h0 [.s 3] ∧ s.app.cmt = false ∧ (s.ctxAt s.desc).freeTid ≠ none ∧ s.area.sys = false ∧ s.area.slotb ≤ s.app.out.length := by decide +kernel
theorem test_tok_over_its_budget : trapAfter (.tok h0 ⟨3, 0, 0, 0, 0, 0, 0, 0, 0, 0⟩) (spoken { nops with out := [⟨0, 0⟩, ⟨0, 0⟩] }) = some (4, 1) := by
  decide +kernel
theorem test_emit_seventeenth :
    trapAfter (.emit h0 ⟨0, 4, 0, 0, 0, 0, 0, 0, 0, 0⟩) ((spoken { regs [(4, 0x6000_0000_0000_0007)] with
      out := List.replicate 16 ⟨0, 0⟩ }).modArea 0 (fun x => { x with slotb := 17 })) = some (4, 3) := by decide +kernel
theorem test_syrd_range : trapAfter (.syrd h0 ⟨2, 1, 0, 0, 0, 0, 0, 0, 1, 0⟩) (spoken (regs [(1, 2)])) = some (7, 1) := by decide +kernel
theorem test_emit_budget :
    trapAfter (.emit h0 ⟨0, 4, 0, 0, 0, 0, 0, 0, 0, 0⟩)
      (spoken { regs [(4, 0x6000_0000_0000_0007)] with out := [⟨0, 0⟩, ⟨0, 0⟩] }) = some (4, 1) := by decide +kernel
theorem test_emit_tile_word :
    trapAfter (.emit h0 ⟨0, 4, 0, 0, 0, 0, 0, 0, 0, 0⟩) (spoken (regs [(4, tw)])) = some (7, 2) := by decide +kernel
theorem test_tok_lowest_free :
    sAfter (.tok h0 ⟨3, 0, 0, 0, 0, 1, 0, 0, 0, 0⟩) ((spoken { nops with cmt := true }).modCtx 0 (fun c => { c with tids := [0, 1] })) 3 =
      0xA000_0000_0000_0002 := by decide +kernel

theorem witness_CollectivesAndChannels :
    let s := one { regs [(5, 0), (6, 1)] with recvq := [] }
    let e := (one nops).modArea 0 (fun a => { a with colls := [⟨0, 1, 0xD4, 0, 8, 1, 0, .s 1, VecVal.zero, 0, some 0, false⟩] })
    Ready s h0 [.v 1, .v 2, .s 5] ∧ Ready s h0 [.v 1, .v 2] ∧ Ready s h0 [.v 1, .s 5] ∧ s.app.tokRoom 1 2 = true ∧
      s.area.alen ≤ (s.app.getS 6).toNat ∧ (s.app.getS 5).toNat < s.area.alen ∧ s.area.colls = [] ∧
      (∀ c ∈ s.area.cells, (s.area.appAt c).ended = true → 0 < (s.area.appAt c).ncoll) ∧ s.app.outq.length < 8 ∧
      (∃ q ∈ e.area.colls, q.id = e.app.ncoll ∧ q.agrees ⟨0, 1, 0xD5, 0, 8, 1, 0, .s 1, VecVal.zero, 0, some 0, false⟩ = false) := by
  decide +kernel
def pair2 : State :=
  let m : ChanMsg := ⟨0, 0, 1, 2, VecVal.zero, none⟩
  let a : Area := { Area.blank with live := true, cells := [0, 1], ncode := 4, phase := .running, apps := [(0, { nops with outq := [m] })] }
  { State.reset with areas := [(0, a)], cells := [(0, { Cell.blank with serve := [0] }), (1, { Cell.blank with serve := [0] })] }
theorem witness_CollectivesAndChannels_delivery :
    (pair2.areaAt 0).live = true ∧ (pair2.areaAt 0).deliverable [] ((pair2.appOf 0 0).outq.filter (fun m => pair2.msgFree 0 m.seq)) =
      some ⟨0, 0, 1, 2, VecVal.zero, none⟩ ∧ (pair2.areaAt 0).cells.getD 1 0 ≠ 0 ∧ (0 : Nat) < 2 := by decide +kernel
theorem test_delivery :
    let t := after (exec (.channelMessageDelivery 0 0) pair2)
    (t.appOf 0 0).outq = [] ∧ (tget [] (t.appOf 0 1).recvq 2).length = 1 := by decide +kernel
theorem test_abc_range : trapAfter (.abc h0 ⟨1, 2, 6, 0, 0, 0, 2, 1, 0, 0⟩) (one (regs [(6, 1)])) = some (7, 6) := by decide +kernel

/-! ### Reels and the pager's instructions -/

theorem witness_ReelAndPrivileged :
    let s := one { regs [(1, 0x20_0000), (2, 5)] with cmt := true, v := [(3, vec 64 [1, 2, 3, 4])] }
    let c : Chan := { Chan.blank with bound := some 0, posted := List.replicate 16 (⟨0x20_0000, 4096, 8, 255⟩, true, 0, 0) }
    let f : State := { s with chans := [(16, c)] }
    s.app.tokRoom 1 0 = true ∧ Ready s h0 [.s 1] ∧ vaOk s.area.priv (s.app.getS 1).toNat = true ∧
      vaOk s.area.priv (s.app.getS 2).toNat = false ∧ Ready s h0 [] ∧ Ready s h0 [.v 3] ∧
      ¬((s.chanAt 1 0).bound = some s.desc ∧ 16 ≤ (s.chanAt 1 0).posted.length) ∧
      ((f.chanAt 1 0).bound = some f.desc ∧ 16 ≤ (f.chanAt 1 0).posted.length) ∧ s.app.cmt = true := by decide +kernel
theorem test_rlload_address :
    trapAfter (.rlload h0 ⟨2, 0, 0, 1, 0, 0, 0, 0⟩) (one (regs [(2, 5)])) = some (8, 3) := by decide +kernel
def pager (sel : BitVec 7) (a : AppCell) : State :=
  let s := run true [0, 0] { a with cmt := true, ctxsel := sel }
  (s.putDesc 9 { Desc.blank with live := true }).putCtx 8 { Ctx.blank with pre := .out true }
theorem witness_ReelAndPrivileged_portal :
    let s := pager 9 (regs [(4, 0x30_0000), (5, 0x1_0000), (6, 0xC000000000), (7, 12)])
    Ready s h0 [.s 4] ∧ Ready s h0 [.s 4, .s 5] ∧ (s.app.getS 4).toNat % 8 = 0 ∧ (s.app.getS 4).toNat < 0xC000000000 ∧
      0xC000000000 ≤ (s.app.getS 6).toNat ∧ (s.app.getS 7).toNat % 8 ≠ 0 ∧ Ready s h0 [] ∧
      (s.descAt s.app.ctxsel.toNat).live = true ∧ s.app.ctxsel.toNat ≠ 0 ∧ (s.ctxAt s.app.ctxsel.toNat).ending = .no ∧
      (s.ctxAt 9).pre ≠ .out true ∧ ((pager 8 nops).ctxAt (pager 8 nops).app.ctxsel.toNat).pre = .out true ∧
      ((pager 8 nops).descAt (pager 8 nops).app.ctxsel.toNat).live = false ∧ (pager 0 nops).app.ctxsel.toNat = 0 := by decide +kernel
theorem test_asret_live : trapAfter (.asret h0 ⟨0, 0, 0, 0, 0, 0, 0, 0, 0⟩) (pager 9 nops) = some (14, 1) := by decide +kernel
theorem test_ctxsv_not_saved : trapAfter (.ctxsvResume h0 ⟨0, 0, 0, 0, 2, 0, 0, 0, 0⟩) (pager 9 nops) = some (14, 3) := by decide +kernel
theorem test_ptst_address :
    trapAfter (.ptst h0 ⟨0, 6, 5, 0, 0, 0, 4, 0, 0⟩) (pager 9 (regs [(6, 0xC000000000)])) = some (8, 3) := by decide +kernel
def faulted : State :=
  { pager 9 (regs [(7, 4095), (8, 4096), (9, 0x1_0005)]) with faults := [(4095, { FaultEnt.blank with live := true })] }
theorem witness_ReelAndPrivileged_fltdone :
    Ready faulted h0 [.s 7] ∧ Ready faulted h0 [.s 7, .s 9] ∧
      ((faulted.app.getS 7).extractLsb' 12 52 = 0 ∧ (faulted.faultAt 4095).live = true) ∧
      (faulted.app.getS 8).extractLsb' 12 52 ≠ 0 ∧ (faulted.faultAt 0).live = false ∧ faulted.app.cmt = true := by decide +kernel
theorem test_fltdone_record : trapAfter (.fltdoneOk h0 ⟨0, 8, 0, 0, 0, 0, 0, 0, 0⟩) faulted = some (14, 4) := by decide +kernel

/-! ### Chunk instructions -/

/-- Rank 0 is channel 2 of reel 1 of this module; the program is the word given. -/
def chan0 (w : Word) : Chan :=
  { Chan.blank with bound := some 9, st := .running, prog := [w], ranks := [0x10C00], chunks := [⟨0x20_0000, 32, 2, 255⟩, ⟨0x20_0100, 32, 2, 255⟩, ⟨0x20_0200, 16, 2, 255⟩], xfs := [⟨1, 0, 0, [2], [16], [16]⟩] }
/-- Channel 0 of reel 0 with it; its reel has the page at 0x20_0000 for descriptor 9. -/
def reel (c : Chan) : State :=
  let e : TlbEnt := ⟨0xFFFF, 0, 0x200000, 65536, 0, true, false, false, 0⟩
  { State.reset with chans := [(0, c)], reelTlb := [(0, ⟨[(0, e)], []⟩)], descs := [] }
def sgn (n : BitVec 32) : Chan := { chan0 0 with sgc := n }

theorem witness_ChunkControl :
    ChanActs (reel (chan0 0)) (.reelNop ⟨0, 0, 0, 0, 0, 0⟩) ∧ ChanActs (reel (chan0 0)) (.sig ⟨0, 0, 0, 5⟩) ∧
      ChanActs (reel (sgn 5)) (.cwait ⟨0, 0, 0, 5⟩) ∧ ((5 : BitVec 32) ≤ (sgn 5).sgc ∧ (sgn 4).sgc < 5) ∧
      ((chan0 0).window = [] ∧ ∃ q ∈ ({ chan0 0 with window := [(0, 1, [])] } : Chan).window, q.1 = 0) ∧
      (∀ b ∈ (reel (chan0 0)).bufs, b.path = .reel → b.que = 0 → 3 ≤ b.level) ∧
      ({ chan0 0 with aborts := [(0, 1, 2)] } : Chan).aborts = [(reel (chan0 0)).peerAt (chan0 0) 0] := by
  refine ⟨⟨rfl, by decide⟩, ⟨rfl, by decide⟩, ⟨rfl, by decide⟩, by decide, by decide, by decide, by decide⟩
theorem test_decb_last :
    (after (exec (.decb ⟨0, 1, 0, -1⟩) (reel { chan0 0 with pc := 3, c := [(1, 1)] }))).chan.pc = 4 ∧
    (after (exec (.decb ⟨0, 1, 0, -1⟩) (reel { chan0 0 with pc := 3, c := [(1, 2)] }))).chan.pc = 2 := by decide +kernel
theorem test_lflag_adds :
    (after (exec (.lflag ⟨1, 0, 7, 5⟩) (reel (chan0 0)))).flag 7 = 5 := by decide +kernel
theorem test_peer_abort_stops :
    (after (exec (.sig ⟨0, 0, 0, 5⟩) (reel { chan0 0 with aborts := [(0, 1, 2)] }))).chan.ecode = 5 := by decide +kernel
theorem test_end :
    (after (exec (.reelEnd ⟨0, 0, 0, 0, 0, 0⟩) (reel (chan0 0)))).chan.st = .ended := by decide +kernel

def clear0 (c : Chan) : Chan := { c with cts := [(0, 1, 2, 0)] }
/-- The header of the chunk is out, `done` granules of it too. -/
def sending (done : Nat) : Chan := { chan0 0 with prg := { Prog.blank with head := true, done := done, data := List.replicate (16 * done) 7 } }
/-- The link holds no granule of the channel, and no fault holds the receiver up. -/
theorem room_of (s : State) (rk : Nat) (h : (s.peerAt s.chan rk).1 = s.ownMod) (m : s.msgs = [])
    (f : (s.chanAt (s.peerAt s.chan rk).2.1 (s.peerAt s.chan rk).2.2).faulted = false) : s.linkRoom rk = true := by
  simp [State.linkRoom, h, m, f]
theorem witness_ChunkTransfers_send :
    let s := reel (clear0 (chan0 0))
    let far : State := reel { sending 0 with ranks := [5] }
    s.chan.operand 0 false = .chunk ⟨0x20_0000, 32, 2, 255⟩ ∧ ChanActs s (.send ⟨0, 0, 0, 0, 0, 0⟩) ∧
      ((0, 1, 2, 0) ∈ s.chan.cts ∧ s.chan.window.length < 8 ∧ s.chan.prg.head = false) ∧ (reel (chan0 0)).chan.cts = [] ∧
      (far.chan.prg.head = true ∧ far.linkRoom 0 = false) ∧
      ((reel (sending 1)).linkRoom 0 = true ∧ (sending 1).prg.done < 32 / 16 ∧ 32 / 16 ≤ (sending 2).prg.done ∧
        ChanActs (reel (sending 1)) (.send ⟨0, 0, 0, 0, 0, 0⟩)) ∧
      (match (reel (sending 1)).chanRead 0x20_0010 with | .ok bs => decide (bs = List.replicate 16 0) | .error _ => false) = true := by
  refine ⟨by decide +kernel, ⟨rfl, by decide +kernel⟩, by decide +kernel, by decide +kernel, by decide +kernel,
    ⟨room_of _ _ rfl rfl (by decide +kernel), by decide, by decide, rfl, by decide +kernel⟩, by decide +kernel⟩
/-- Its receiver is reel 1's channel 2, which has written `n` granules of the chunk. -/
def towards (c : Chan) (y : Chan) (n : Nat) : State :=
  { reel c with chans := [(0, c), (18, { y with ranks := [0x10C00, 0x400], prg := { Prog.blank with opened := [⟨1, 32, n, [], false⟩] } })] }
theorem witness_ChunkTransfers_tail :
    (towards (sending 2) (chan0 0) 2).tailRoom 0 2 = true ∧ (towards (sending 2) (chan0 0) 1).tailRoom 0 2 = false ∧
      ChanActs (towards (sending 2) (chan0 0) 2) (.send ⟨0, 0, 0, 0, 0, 0⟩) := by
  refine ⟨by decide +kernel, by decide +kernel, ⟨rfl, by decide +kernel⟩⟩
theorem test_faulted_receiver_holds :
    (towards (sending 1) { chan0 0 with st := .paused, pcs := 1 } 0).linkRoom 0 = false ∧
      (towards (sending 2) { chan0 0 with st := .paused, pcs := 1 } 2).tailRoom 0 2 = false := by decide +kernel
theorem test_send_opens :
    let t := after (exec (.send ⟨0, 0, 0, 0, 0, 0⟩) (reel (clear0 (chan0 0))))
    t.msgs.map Msg.kind = [.chunk 0 32] ∧ t.chan.cts = [] ∧ t.chan.pc = 0 := by decide +kernel
/-- `recv` or `red` of chunk 0 with its message of rank 0 begun: bytes in all, granules written, bytes come, tail. -/
def getting (bytes done come : Nat) (tail : Bool) : Chan :=
  { chan0 0 with prg := { Prog.blank with cts := true, opened := [⟨0, bytes, done, List.replicate come 7, tail⟩] } }
/-- Its clear-to-send is out, nothing has come. -/
def asked : Chan := { chan0 0 with prg := { Prog.blank with cts := true } }
theorem witness_ChunkTransfers_recv :
    let s := reel (getting 32 1 32 false)
    let e : RxMsg := ⟨0, 32, 1, List.replicate 32 7, false⟩
    s.chan.operand 0 false = .chunk ⟨0x20_0000, 32, 2, 255⟩ ∧ s.chan.operand 0 true = .chunk ⟨0x20_0000, 32, 2, 255⟩ ∧
      ChanActs s (.recv ⟨0, 0, 0, 0, 0, 0⟩) ∧ ChanActs s (.red ⟨0, 0, 0, 0, 0, 0⟩) ∧ (reel (chan0 0)).chan.prg.cts = false ∧
      (asked.prg.cts = true ∧ asked.prg.opened = []) ∧ s.chan.prg.opened = [e] ∧ e.done < 32 / 16 ∧
      s.chan.blockOf ⟨0x20_0000, 32, 2, 255⟩ = 1 ∧ 16 * (e.done + 1) ≤ e.data.length ∧ (List.replicate 31 (7 : Byte)).length < 16 * (e.done + 1) ∧
      (getting 16 0 16 false).prg.opened.map RxMsg.bytes ≠ [32] ∧
      ((getting 32 2 32 false).prg.opened.map RxMsg.tail = [false] ∧ (getting 32 2 32 true).prg.opened.map RxMsg.tail = [true]) ∧
      (match s.chanRead 0x20_0010 with | .ok _ => true | .error _ => false) = true ∧
      (match s.chanWrite 0x20_0010 (combGran 0 2 (List.replicate 16 0) (List.replicate 16 7)).1 with | .ok _ => true | .error _ => false) = true ∧
      (match s.chanWrites [(0x20_0010, List.replicate 16 7)] with | .ok _ => true | .error _ => false) = true := by
  refine ⟨by decide +kernel, by decide +kernel, ⟨rfl, by decide +kernel⟩, ⟨rfl, by decide +kernel⟩, by decide +kernel, by decide +kernel,
    by decide +kernel, by decide, by decide, by decide, by decide, by decide, by decide, by decide +kernel, by decide +kernel, by decide +kernel⟩
theorem test_recv_size : (after (exec (.recv ⟨0, 0, 0, 0, 0, 0⟩) (reel (getting 16 0 16 false)))).chan.ecode = 8 := by decide +kernel
theorem test_recv_retires :
    let t := after (exec (.recv ⟨0, 0, 0, 0, 0, 0⟩) (reel (getting 32 2 32 true)))
    t.chan.pc = 1 ∧ tget 0 t.chan.rx 0 = 1 ∧ t.msgs.length = 1 := by decide +kernel
theorem witness_ChunkTransfers_rrc_redany :
    let c (b : Bool) (g : Chan) : Chan := { g with ranks := [0x10C00, 0x10C00], prg := { g.prg with head := b } }
    let s := reel (clear0 (c false (getting 32 1 32 false)))
    let h := reel (c true (getting 32 1 32 false))
    let far := reel { c true (getting 32 1 32 false) with ranks := [0x10C00, 5] }
    let d := reel { chan0 0 with prg := { Prog.blank with cts := true, fin := [0] } }
    let e : RxMsg := ⟨0, 32, 2, List.replicate 32 7, true⟩
    ChanActs s (.rrc ⟨0, 0, 0, 0, 1, 0⟩) ∧ (s.peerAt s.chan 1 = (0, 1, 2) ∧ (0, 1, 2, 0) ∈ s.chan.cts ∧ s.chan.window.length < 8) ∧
      (s.chan.prg.head = false ∧ h.chan.prg.head = true ∧ far.linkRoom 1 = false) ∧ h.linkRoom 1 = true ∧
      ChanActs d (.redany ⟨0, 0, 0, 0, 0, 1⟩) ∧ 1 ≤ d.chan.prg.fin.length ∧
      ((getting 32 2 32 true).prg.fin.length < 1 ∧
        (getting 32 2 32 true).prg.opened.filter (fun e => e.bytes != 32 || e.ripe) = [e] ∧ 32 / 16 ≤ e.done) ∧
      (getting 16 0 0 false).prg.opened.filter (fun e => e.bytes != 32 || e.ripe) = [⟨0, 16, 0, [], false⟩] := by
  refine ⟨⟨rfl, by decide +kernel⟩, by decide +kernel, by decide +kernel, room_of _ _ rfl rfl (by decide +kernel), ⟨rfl, by decide +kernel⟩, by decide +kernel,
    by decide +kernel, by decide +kernel⟩
/-- `redany` of one rank: a granule that can be combined, and nothing come yet. -/
theorem witness_ChunkTransfers_redany :
    let e : RxMsg := ⟨0, 32, 1, List.replicate 32 7, false⟩
    ChanActs (reel (getting 32 1 32 false)) (.redany ⟨0, 0, 0, 0, 0, 1⟩) ∧ ChanActs (reel asked) (.redany ⟨0, 0, 0, 0, 0, 1⟩) ∧
      ((getting 32 1 32 false).prg.cts = true ∧ (getting 32 1 32 false).prg.fin.length < 1 ∧
        (getting 32 1 32 false).prg.opened.filter (fun e => e.bytes != 32 || e.ripe) = [e] ∧ e.bytes = 32 ∧ e.done < 32 / 16) ∧
      (asked.prg.cts = true ∧ asked.prg.fin.length < 1 ∧ asked.prg.opened.filter (fun e => e.bytes != 32 || e.ripe) = []) := by
  refine ⟨⟨rfl, by decide +kernel⟩, ⟨rfl, by decide +kernel⟩, by decide +kernel, by decide +kernel⟩
theorem witness_ChunkTransfers_rrc_tail :
    let c : Chan := { getting 32 2 32 true with ranks := [0x10C00, 0x10C00], prg := { (getting 32 2 32 true).prg with head := true, done := 2 } }
    (towards c (chan0 0) 2).tailRoom 1 2 = true ∧ (towards c (chan0 0) 1).tailRoom 1 2 = false ∧
      ChanActs (towards c (chan0 0) 2) (.rrc ⟨0, 0, 0, 0, 1, 0⟩) := by
  refine ⟨by decide +kernel, by decide +kernel, ⟨rfl, by decide +kernel⟩⟩
/-- `ccpy` or `xf` with `done` granules behind it. -/
def copied (done : Nat) : Chan := { chan0 0 with prg := { Prog.blank with done := done, data := List.replicate (16 * min done 2) 7 } }
theorem witness_ChunkTransfers_copies :
    let s := reel (chan0 0)
    let x : XfRec := ⟨1, 0, 0, [2], [16], [16]⟩
    s.chan.operand 0 false = .chunk ⟨0x20_0000, 32, 2, 255⟩ ∧ s.chan.operand 1 false = .chunk ⟨0x20_0100, 32, 2, 255⟩ ∧
      s.chan.operand 2 false = .chunk ⟨0x20_0200, 16, 2, 255⟩ ∧ ChanActs s (.ccpy ⟨0, 0, 1, 0, 0, 0⟩) ∧ ChanActs s (.xf ⟨0, 0, 1, 0, 0, 0⟩) ∧
      s.chan.xfs[(0 : BitVec 9).toNat]? = some x ∧ 32 = 16 * x.granules ∧ ((copied 1).prg.done < 32 / 16 ∧ (copied 3).prg.done = 32 / 16 + 1 ∧
        2 * (32 / 16) ≤ (copied 4).prg.done) ∧
      (copyLaps 0x20_0000 0x20_0100 none 2 = false ∧ copyLaps 0x20_0000 0x20_0100 (some x) 2 = false) ∧
      (match (reel (copied 1)).chanRead (copySrc 0x20_0000 (some x) 1) with | .ok _ => true | .error _ => false) = true ∧
      (match (reel (copied 3)).chanWrite (copyDst 0x20_0100 (some x) 1) (relay (some x) (copied 3).prg.data 1).1 with
        | .ok _ => true | .error _ => false) = true ∧
      (match (reel (copied 3)).chanWrite (copyDst 0x20_0100 none 1) (relay none (copied 3).prg.data 1).1 with
        | .ok _ => true | .error _ => false) = true := by
  refine ⟨by decide +kernel, by decide +kernel, by decide +kernel, ⟨rfl, by decide +kernel⟩, ⟨rfl, by decide +kernel⟩, by decide +kernel,
    by decide +kernel, by decide +kernel, by decide +kernel, by decide +kernel, by decide +kernel, by decide +kernel⟩
theorem test_ccpy_size : (after (exec (.ccpy ⟨0, 0, 2, 0, 0, 0⟩) (reel (chan0 0)))).chan.ecode = 8 := by decide +kernel
theorem witness_ChunkTransfers_bad :
    let c : Chan := { chan0 0 with posted := [(⟨0x20_0008, 4096, 2, 255⟩, true, 0, 0)] }
    c.operand 0xFFF false = .bad ∧ c.operand 0xFFF true = .bad ∧ ChanActs (reel c) (.recv ⟨0, 0xFFF, 0, 0, 0, 0⟩) ∧
      ChanActs (reel c) (.red ⟨0, 0xFFF, 0, 0, 0, 0⟩) := by
  refine ⟨by decide +kernel, by decide +kernel, ⟨rfl, by decide +kernel⟩, ⟨rfl, by decide +kernel⟩⟩
theorem test_int32_sum : (combGran 0 2 (leBytes 16 0xFFFFFFFF) (leBytes 16 2)).1 = leBytes 16 1 := by decide +kernel

def msgTo (k : MsgKind) : Msg := { fromMod := 0, fromReel := 1, fromChan := 2, toMod := 0, toReel := 0, toChan := 0, kind := k }
def inFlight (c : Chan) (k : MsgKind) : State := { reel c with msgs := [msgTo k] }
theorem witness_MessageArrivals :
    let s := inFlight (chan0 0) (.cts 1)
    (s.msgs[0]? = some (msgTo (.cts 1)) ∧ (msgTo (.cts 1)).toMod = s.ownMod) ∧ (s.chanAt 0 0).bound ≠ none ∧
      (s.arrival (.inflight 0) = some (msgTo (.cts 1), { s with msgs := [] })) ∧
      (s.arrival (.peer { msgTo (.cts 1) with fromMod := 3 }) = some ({ msgTo (.cts 1) with fromMod := 3 }, s)) ∧
      (0 < (s.chanAt 0 0).ranks.length ∧ s.peerAt (s.chanAt 0 0) 0 = (0, 1, 2)) := by decide +kernel
/-- `recv` of chunk 0 from rank 0, its clear-to-send sent. -/
def receiving (rx : BitVec 32) : Chan := { chan0 0x1800_0000_0000_0000 with rx := tset 0 [] 0 rx, prg := { Prog.blank with cts := true } }
theorem witness_MessageArrivals_chunk :
    let c := receiving 0
    (c.current.map ranksReceived = some [0]) ∧ (5 - tget 0 (receiving 5).rx 0 : BitVec 32) = 0 ∧
      (4 - tget 0 (receiving 5).rx 0 : BitVec 32).toInt < 0 ∧ 0 < (6 - tget 0 (receiving 5).rx 0 : BitVec 32).toInt ∧
      c.st = .running ∧ c.prg.cts = true ∧ c.prg.opened = [] ∧ c.prg.fin = [] ∧ c.busy = true := by decide +kernel
theorem test_chunk_opens :
    (after (exec (.chunkMessageArrival (.inflight 0)) (inFlight (receiving 5) (.chunk 5 32)))).chan.prg.opened = [⟨0, 32, 0, [], false⟩] := by
  decide +kernel
theorem test_chunk_ahead_stops :
    (after (exec (.chunkMessageArrival (.inflight 0)) (inFlight (receiving 5) (.chunk 6 32)))).chan.ecode = 4 := by decide +kernel
theorem test_chunk_duplicate :
    let t := after (exec (.chunkMessageArrival (.inflight 0)) (inFlight (receiving 5) (.chunk 4 32)))
    t.chan.dup = 1 ∧ t.msgs.length = 1 := by decide +kernel
/-- A bound channel whose failed load left it no rank. -/
theorem witness_MessageArrivals_no_rank :
    let c : Chan := { receiving 0 with st := .noProgram, ranks := [], prog := [] }
    let s := inFlight c (.chunk 4 32)
    (s.chanAt 0 0).bound ≠ none ∧ (s.chanAt 0 0).ranks.length = 0 ∧ (msgTo (.chunk 4 32)).kind = .chunk 4 32 ∧
      s.arrival (.inflight 0) = some (msgTo (.chunk 4 32), { s with msgs := [] }) := by decide +kernel
theorem test_chunk_for_no_rank :
    let t := after (exec (.chunkMessageArrival (.inflight 0)) (inFlight { receiving 0 with st := .noProgram, ranks := [], prog := [] } (.chunk 4 32)))
    t.chan.dup = 1 ∧ t.msgs.map Msg.kind = [.ack 4] := by decide +kernel
/-- The chunk is open and `come` bytes of it are there. -/
def opening (come : Nat) : Chan := { receiving 0 with prg := { Prog.blank with cts := true, opened := [⟨0, 32, 0, List.replicate come 7, false⟩] } }
theorem witness_MessageArrivals_granules :
    let takes (c : Chan) : Option RxMsg := c.prg.opened.find? (fun e => State.reset.peerAt c e.rank == (0, 1, 2) && !e.tail)
    (takes (receiving 0) = none ∧ takes { opening 16 with st := .paused } ≠ none ∧ ({ opening 16 with st := .paused } : Chan).st ≠ .running) ∧
      (takes (opening 16) = some ⟨0, 32, 0, List.replicate 16 7, false⟩ ∧ (opening 16).st = .running ∧ 16 + 16 ≤ 32 ∧ 16 / 16 < 0 + 8) ∧
      (takes (opening 32) = some ⟨0, 32, 0, List.replicate 32 7, false⟩ ∧ 32 ≤ (List.replicate 32 (7 : Byte)).length) := by decide +kernel
theorem test_granule_joins :
    (after (exec (.chunkMessageArrival (.inflight 0)) (inFlight (opening 16) (.gran (List.replicate 16 9))))).chan.prg.opened.map
      (fun e => e.data.length) = [32] := by decide +kernel
theorem witness_MessageArrivals_rest :
    let s := inFlight (receiving 0) .abort
    (∃ i, (s.chanAt 0 0).current = some i ∧ 0 ∈ ranksExchanged i) ∧ ((s.chanAt 0 0).busy = true ∧ 0 ∉ (s.chanAt 0 0).prg.fin) ∧
      (∀ q ∈ (s.chanAt 0 0).prg.opened, s.peerAt (s.chanAt 0 0) q.rank ≠ (0, 1, 2)) ∧
      ({ receiving 0 with st := .ended } : Chan).busy = false := by
  refine ⟨⟨_, rfl, by decide +kernel⟩, by decide +kernel, by decide +kernel, by decide⟩
theorem test_abort_stops :
    (after (exec (.abortArrival (.inflight 0)) (inFlight (receiving 0) .abort))).chan.ecode = 5 := by decide +kernel

/-! ### The host interface and launches -/

def kernelA : HostAcc := ⟨.A, false, 0x0100, false⟩
def userB : HostAcc := ⟨.B, true, 0x0200, false⟩
/-- The launch record of the decode step (R60's example). -/
def launchRec : List Byte :=
  [0x01A3_0009_0000_0412, 0, 0, 0x0000_0001_0101_1405, 0, 0x0000_0412_0000_1100, 0x0000_0001_0000_1001, 0, 0, 0, 0x0000_0000_0000_0411, 0,
    0x0000_0000_0000_0005, 0, 0, 0, 0x0F3C, 0, 0, 0, 0, 0, 0, 0, 0, 0, 0, 0, 0, 0, 0, 0x412].flatMap (leBytes 8)
/-- Queue 5 with `pc` and `cc` so, the record in its slot 17, launch 0x411 committed before. -/
def queue5 (pc cc : BitVec 16) : Queue :=
  { Queue.blank with en := true, dlo := 1, dhi := 63, pc := pc, cc := cc, bytes := tsetRun 0 [] (256 * 17) launchRec, seqs := [0x411], expect := some 0x412 }
def opened (q : Queue) : State :=
  let d : Desc := { Desc.blank with valid := true, basid := 0x1A3, pceil := 5, maxstr := 20 }
  { State.reset with board := { Board.blank with opened := true }, queues := [(5, q)], descs := [(9, d)], unit := 5 }

theorem witness_QueuesAndSemaphores_slots :
    let s := opened (queue5 0x411 0x411)
    let x := s.queueAt 5
    let f := opened (queue5 0x431 0x411)
    s.board.opened = true ∧ (17 : Nat) < 32 ∧ 0 + 256 ≤ 256 ∧ 248 < 249 ∧ 0 + 255 < 256 ∧ launchRec.length = 256 ∧
      ¬((17 + 32 - x.cc.toNat % 32) % 32 < (x.pc - x.cc).toNat) ∧
      ((17 + 32 - (f.queueAt 5).cc.toNat % 32) % 32 < ((f.queueAt 5).pc - (f.queueAt 5).cc).toNat) ∧
      (x.en = true ∧ 17 = x.pc.toNat % 32 ∧ (x.pc - x.cc).toNat ≠ 32 ∧ ((f.queueAt 5).pc - (f.queueAt 5).cc).toNat = 32 ∧ 16 ≠ x.pc.toNat % 32) ∧
      leNat (tgetRun 0 (tsetRun 0 x.bytes (256 * 17) launchRec) (256 * 17 + 248) 4) =
        leNat (tgetRun 0 (tsetRun 0 x.bytes (256 * 17) launchRec) (256 * 17) 4) ∧
      leNat (tgetRun 0 (tsetRun 0 x.bytes (256 * 17 + 4) (launchRec.drop 4)) (256 * 17 + 248) 4) ≠ 0 := by decide +kernel
theorem test_commit_moves_pc :
    ((after (exec (.launchCommit kernelA 5 17 0 launchRec) (opened (queue5 0x411 0x411)))).queueAt 5).pc = 0x412 := by decide +kernel
theorem test_commit_full :
    ((after (exec (.launchCommit kernelA 5 17 0 launchRec) (opened (queue5 0x431 0x411)))).queueAt 5).ecause = 3 := by decide +kernel
theorem witness_QueuesAndSemaphores_flush :
    let x := queue5 0x412 0x411
    userB.user = true ∧ kernelA.user = false ∧ (x.pc - x.cc).toNat ≤ 32 ∧ x.stage = .none ∧
      (Launch.ofBytes 5 (x.slot ((x.cc.toNat + 0) % 32))).crec = 0 := by decide +kernel
theorem witness_QueuesAndSemaphores_semaphores :
    let s := opened (queue5 0 0)
    let t := s.putSem 63 ⟨0x0100, .A, true⟩
    (63 : Nat) < 64 ∧ (s.semAt 63).held = false ∧ (t.semAt 63).held = true ∧ t.semAt 63 = ⟨kernelA.rid, kernelA.port, true⟩ ∧
      t.semAt 63 ≠ ⟨userB.rid, userB.port, true⟩ := by decide +kernel
theorem test_semaphore_claim :
    (after (exec (.semaphoreClaim userB 3) (opened (queue5 0 0)))).lastRead = 0x8003_0200 := by decide +kernel

/-- A module in recovery, and one whose Maryon has an address. -/
theorem witness_HubRegisters_recovery :
    let s : State := { State.reset with board := { Board.blank with recovery := true } }
    let m : State := { State.reset with board := { Board.blank with maryon := some 9 } }
    s.board.opened = false ∧ s.board.recovery = true ∧ State.reset.board.recovery = false ∧ kernelA.i3c = false ∧
      m.board.maryon ≠ none ∧ ({ kernelA with i3c := true } : HostAcc).i3c = true ∧ 1199 < 1200 := by decide +kernel
theorem test_i3c_cap_logged :
    let m : State := { State.reset with board := { Board.blank with maryon := some 9 } }
    let t := after (exec (.pcapWrite { kernelA with i3c := true } 1199) m)
    t.portA.ev = true ∧ t.portB.eoff = 0xC0100 := by decide +kernel
theorem test_kill_target_kept :
    let s : State := { opened (queue5 0 0) with hub := { HubRegs.blank with kbusy := true, kwho := 9, kdesc := 9 } }
    let t := after (exec (.ctxkill kernelA 5) s)
    t.hub.kdesc = 5 ∧ t.hub.kwho = 9 := by decide +kernel
theorem test_descriptor_key_word :
    let t := after (exec (.registerWrite kernelA (0xA0000 + 0x80 * 9 + 56) (some 7)) (opened (queue5 0 0)))
    (t.descAt 9).word 56 = 7 ∧ (t.descAt 9).word 48 = 0 := by decide +kernel
theorem witness_HubRegisters_attestation :
    let s : State := { State.reset with board := { Board.blank with attest := [(0, 1)] } }
    leNat (tgetRun 0 s.board.attest 0 4) = 1 ∧ leNat (tgetRun 0 State.reset.board.attest 0 4) ≠ 1 := by decide +kernel
theorem witness_HubRegisters :
    let s := opened (queue5 0 0)
    let live : State := s.putDesc 9 { s.descAt 9 with live := true }
    let v : Word := 0x1A3 + 9 * 2 ^ 10 + 2 ^ 17
    s.board.opened = true ∧ userB.user = true ∧ kernelA.user = false ∧
      (0xA0000 ≤ 0xA3FF8 ∧ 0xA3FF8 < 0xA4000 ∧ 0xA3FF8 % 8 = 0 ∧ 0xC1000 ≤ 0xC1FF8 ∧ 0xC1FF8 < 0xC2000 ∧ 0x100000 ≤ 0x1FFFF8 ∧ 0x1FFFF8 < 0x200000) ∧
      (v.getLsbD 17 = true ∧ s.hub.busy = false ∧ (∃ e ∈ live.boundTo 0x1A3, (live.descAt e).live = true) ∧
        ¬(∃ e ∈ s.boundTo 0x1A3, (s.descAt e).live = true) ∧ (s.descAt 9).live = false ∧
        ¬(∃ e ∈ live.boundTo 0x1A4, (live.descAt e).live = true) ∧ (live.descAt 9).live = true) ∧
      ((9 : BitVec 7).toNat ≠ 0 ∧ (live.ctxAt 9).ending = .no ∧ (s.descAt 9).live = false ∧ s.hub.kbusy = false) ∧
      (1200 ≤ (1200 : Nat) ∧ (3200 : Nat) ≤ 3200 ∧ 1199 < 1200 ∧ 3200 < 3201) ∧ s.board.attestWord ≠ 1 ∧ (127 : Nat) < 128 ∧ 2047 < 2048 := by
  decide +kernel
/-- A bind of descriptor 0, which is not live. -/
theorem witness_HubRegisters_bind_0 :
    let s := opened (queue5 0 0)
    let v : Word := 0x1A3 + 2 ^ 17
    v.getLsbD 17 = true ∧ v.extractLsb' 10 7 = 0 ∧ s.hub.busy = false ∧ (s.descAt 0).live = false ∧
      ¬(∃ e ∈ s.boundTo 0x1A3, (s.descAt e).live = true) := by decide +kernel
theorem test_errlog_example :
    let t := after (exec (.registerWrite userB 0xA0480 (some 0)) (opened (queue5 0 0)))
    (t.portAt .B).ev = true ∧ (t.portAt .B).eoff = 0x0A_0480 ∧ (t.portAt .B).ewin = true ∧ (t.portAt .B).ewr = true := by decide +kernel
theorem test_cap_refused :
    ((after (exec (.pcapWrite kernelA 1199) (opened (queue5 0 0)))).portAt .A).ev = true := by decide +kernel
theorem test_bind :
    let t := after (exec (.asidBind kernelA (0x1A4 + 10 * 2 ^ 10 + 2 ^ 17)) (opened (queue5 0 0)))
    (t.descAt 10).basid = 0x1A4 ∧ t.hub.busy = true ∧ t.genOf 0x1A4 = 1 := by decide +kernel

theorem witness_HubLaunch_checks :
    let s := opened (queue5 0x412 0x411)
    let x := s.queueAt 5
    let bs := x.slot (x.cc.toNat % 32)
    let l := Launch.ofBytes 5 bs
    (x.stage = .none ∧ x.flushTo = none ∧ x.pc ≠ x.cc ∧ launchClean bs = true ∧ x.expect = some l.seq ∧ s.ctxOk 5 l = true) ∧
      (l.prio ≤ (s.descAt 9).pceil.toNat ∧ l.nstr ≤ (s.descAt 9).maxstr.toNat ∧ l.deps = [(5, 0x411)] ∧ 0x411 ∈ (s.queueAt 5).seqs) ∧
      launchClean (List.replicate 256 0) = false ∧ (opened { queue5 0x412 0x411 with dhi := 8 }).ctxOk 5 l = false ∧ (queue5 0x411 0x411).pc = (queue5 0x411 0x411).cc := by
  decide +kernel
/-- The same record with `depfail` set and no completion record; launch 0x411 has ended with FLUSHED or is still placed. -/
def depfail5 (ret : List (BitVec 32 × Nat)) : Queue :=
  { queue5 0x412 0x411 with bytes := tsetRun 0 (queue5 0x412 0x411).bytes (256 * 17 + 28) ([4, 0, 0, 0] ++ List.replicate 8 0), retired := ret }
theorem witness_HubLaunch_failed :
    let s := opened (depfail5 [(0x411, 11)])
    let l := Launch.ofBytes 5 ((s.queueAt 5).slot 17)
    launchClean ((s.queueAt 5).slot 17) = true ∧ s.ctxOk 5 l = true ∧ l.crec = 0 ∧ l.place = false ∧ l.lflags.getLsbD 2 = true ∧
      l.deps = [(5, 0x411)] ∧ s.depStatus 5 0x411 = some 11 ∧ 0x411 ∈ (s.queueAt 5).seqs := by decide +kernel
theorem test_head_failed_dependence :
    ((after (exec .headChecks (opened (depfail5 [(0x411, 11)])))).queueAt 5).retired = [(0x411, 11), (0x412, 6)] := by decide +kernel
/-- Queue 6 holds a checked record that depends on the launch at queue 5's head, which is not clean. -/
def waiting6 : State :=
  let l := { Launch.ofBytes 6 launchRec with lflags := 4, deps := [(5, 0)] }
  let s := opened { queue5 0x412 0x411 with bytes := tsetRun 0 [] (256 * 17 + 252) [1] }
  s.putQueue 6 { queue5 0x412 0x411 with head := some l, stage := .checked }
theorem witness_HubLaunch_dependent :
    let s := waiting6
    let l := { Launch.ofBytes 6 launchRec with lflags := 4, deps := [(5, 0)] }
    (6 : Nat) ≠ 5 ∧ (s.queueAt 6).stage = .checked ∧ (s.queueAt 6).head = some l ∧ l.place = false ∧ l.lflags.getLsbD 2 = true ∧ (5, 0) ∈ l.deps ∧
      (s.queueAt 5).stage = .none ∧ (s.queueAt 5).flushTo = none ∧ launchClean ((s.queueAt 5).slot 17) = false ∧
      (Launch.ofBytes 5 ((s.queueAt 5).slot 17)).crec = 0 ∧ (Launch.ofBytes 5 ((s.queueAt 5).slot 17)).seq = 0 := by decide +kernel
theorem test_dependent_refused : ((after (exec .headChecks waiting6)).queueAt 6).stage = .refused 6 := by decide +kernel
theorem test_head_checked :
    ((after (exec .headChecks (opened (queue5 0x412 0x411)))).queueAt 5).stage = .checked := by decide +kernel
theorem test_head_unknown_dependence :
    let t := after (exec .headChecks (opened { queue5 0x412 0x411 with seqs := [] }))
    (t.queueAt 5).retired = [(0x412, 5)] := by decide +kernel
def checked5 (p : Bool) : State :=
  let l := Launch.ofBytes 5 launchRec
  opened { queue5 0x412 0x411 with head := some { l with place := p, deps := [], flags := [] }, stage := .checked }
def flagged5 : State := opened { queue5 0x412 0x411 with head := some { Launch.ofBytes 5 launchRec with deps := [] }, stage := .checked }
def failed5 : State :=
  let l := Launch.ofBytes 5 launchRec
  opened { queue5 0x412 0x411 with head := some { l with lflags := 4 }, stage := .checked, retired := [(0x411, 12)] }
theorem witness_HubLaunch_hold :
    (failed5.depStatus 5 0x411 = some 12 ∧ ((Launch.ofBytes 5 launchRec).deps = [(5, 0x411)] ∧ (4 : BitVec 32).getLsbD 2 = true)) ∧
      ((checked5 false).queueAt 5).stage = .checked ∧ ((checked5 false).queueAt 5).watching = [] ∧ ((checked5 false).descAt 9).live = false ∧
      ((flagged5.queueAt 5).entered = [] ∧ (Launch.ofBytes 5 launchRec).flags = [(0x1001, 1)] ∧ flagged5.watch.length + 1 ≤ 1024) := by
  decide +kernel
/-- A `HOLD` record whose flag has been entered and reached. -/
def reached5 : State :=
  opened { queue5 0x412 0x411 with head := some { Launch.ofBytes 5 launchRec with deps := [] }, stage := .checked, entered := [0x1001] }
theorem witness_HubLaunch_hold_reached :
    let l := { Launch.ofBytes 5 launchRec with deps := [] }
    (reached5.queueAt 5).head = some l ∧ (reached5.queueAt 5).stage = .checked ∧ l.place = false ∧ l.flags ≠ [] ∧
      (reached5.queueAt 5).entered ≠ [] ∧ (reached5.queueAt 5).watching = [] ∧ (reached5.descAt 9).live = false ∧
      none ∉ l.deps.map (fun p => reached5.depStatus p.1 p.2) := by decide +kernel
theorem test_hold_reached_released : ((after (exec .holdRelease reached5)).queueAt 5).stage = .released := by decide +kernel
theorem test_hold_enters_flag : (after (exec .holdRelease flagged5)).watch.map Watch.idx = [0x1001] := by decide +kernel
theorem test_hold_released : ((after (exec .holdRelease (checked5 false))).queueAt 5).stage = .released := by decide +kernel
/-- A released record whose image header stands unreadable or is no header. -/
def released5 : State :=
  let s := opened { queue5 0x412 0x411 with head := some { Launch.ofBytes 5 launchRec with deps := [], image := 0 }, stage := .released }
  s
theorem witness_HubLaunch_image :
    (released5.queueAt 5).stage = .released ∧ (released5.queueAt 5).ifail = false ∧ (released5.descAt 9).live = false ∧
      ((opened { (released5.queueAt 5) with ifail := true }).queueAt 5).ifail = true ∧
      ((Launch.ofBytes 5 (launchRec.take 32 ++ List.replicate 224 0)).crec = 0) := by decide +kernel
def image1 : Image := ⟨0x20_0000, 0, [], 0, [0x1000_0000_0000_0000, 0x2000_0000_0000_0000], 0, [], [], []⟩
def strands5 : State :=
  opened { queue5 0x412 0x411 with head := some { Launch.ofBytes 5 launchRec with deps := [] }, stage := .strands, image := some image1 }
theorem witness_HubLaunch_allocator :
    let l := { Launch.ofBytes 5 launchRec with deps := [] }
    firstRequest (strands5.requests.filter (fun r => strands5.satisfied r.2.2)) = some (.place 5 l image1) ∧
      smallestRun l.nstr strands5.freeRuns = some 0 ∧ (strands5.queueAt 5).ifail = false ∧
      (match strands5.place 5 l image1 0 with | .ok _ => true | .error _ => false) = true := by decide +kernel
def growing : State :=
  { State.reset with ctxs := [(9, { Ctx.blank with live := true, start := 3, len := 2, grow := some (0, 4) })] }
theorem witness_HubLaunch_growth :
    firstRequest (growing.requests.filter (fun r => growing.satisfied r.2.2)) = some (.grow 9 4) ∧ growing.grown 9 4 = some (3, 6) := by
  decide +kernel
theorem test_grant_places :
    let t := after (exec .strandGrant strands5)
    (t.ctxAt 9).live = true ∧ (t.ctxAt 9).len = 20 ∧ (t.queueAt 5).cc = 0x412 ∧ (t.descAt 9).live = true := by decide +kernel

/-! ### Sweeps -/

/-- Page tables for descriptor 9: the page at 0x20_0000 stands at 0x40_0000, writable. -/
def paged : State :=
  let s : State := { State.reset with descs := [(9, { Desc.blank with ptroot := 0x10000, live := true, envbase := 0x20_0000, envsize := 0x10000 })] }
  let s := s.poke 0x10000 (leBytes 8 0x20003)
  let s := s.poke 0x20000 (leBytes 8 0x30003)
  s.poke 0x30100 (leBytes 8 0x400005)
def bays (l : Tbl Bay) : State := { State.reset with bays := l }
def ready0 (m : List Nat) : State := bays [(0, { Bay.blank with due := true, mark := m })]
/-- Bays 0 and 1 of one sweep, in a phase. -/
def sweeping (p : BayPhase) (areas : Tbl Area) : State :=
  { bays [(0, { Bay.blank with phase := p, join := [0, 1] }), (1, { Bay.blank with phase := p, join := [0, 1] })] with areas := areas }
def area1 (p : AreaPhase) (op : Nat) (sys : Bool) : Area :=
  { Area.blank with live := true, desc := 9, opid := op, sys := sys, bays := [0], cells := [0], ncode := 2, phase := p }

theorem witness_Sweeps_P :
    (0 : Nat) < 16 ∧ ((ready0 []).atBoundary 0 = true ∧ (ready0 []).bayDue 0 = true ∧ ((ready0 []).bayAt 0).mark = []) ∧
      (State.reset.bayDue 0 = false ∧ (sweeping .load []).atBoundary 0 = false ∧ ((ready0 [0, 1]).bayAt 0).mark ≠ []) ∧
      ((∀ k ∈ ((ready0 [0, 1]).bayAt 0).mark, (ready0 [0, 1]).atBoundary k = true) ∧
        (∃ k ∈ ((ready0 [0, 1]).bayAt 0).mark, (ready0 [0, 1]).bayDue k = true)) ∧
      (let s := bays [(0, { Bay.blank with mark := [0, 1] }), (1, { Bay.blank with phase := .exec })]
       ∃ k ∈ (s.bayAt 0).mark, s.atBoundary k = false) := by decide +kernel
theorem test_sweep_opens_load :
    ((after (exec .joinedSweepStart (ready0 [0, 1]))).bayAt 1).phase = .load := by decide +kernel
/-- Context 9 in strand 0 with `INT 7` in its cell, whose application is over. -/
def done9 : State :=
  let s := sweeping .exec [(3, { area1 .over 0x1000 false with fate := .one (symError 10 0), syms := [⟨0, 0, symOpen⟩, ⟨0, 1, symClose⟩] })]
  { s with ctxs := [(9, { Ctx.blank with live := true, len := 1 })], cells := [(0, { Cell.blank with slots := [symOpen, symClose], serve := [3] })] }
theorem witness_Sweeps_S :
    let s := done9
    let bs := s.group 0
    let is := s.areasIn bs
    (s.bayAt s.unit).phase = .exec ∧ s.readyForS is = true ∧ is = [3] ∧
      (match (s.dropServed bs is).storeCtxs bs is ((s.dropServed bs is).ctxsIn bs) with | .ok _ => true | .error _ => false) = true := by
  decide +kernel
theorem test_storage_writes_the_result :
    ((after (exec .storagePhase done9)).cellAt 0).slots = [symError 10 0] := by decide +kernel
theorem witness_Sweeps_L :
    let s := sweeping .load [(3, area1 .formed 0x1000 false), (4, area1 .loaded 0x1001 false)]
    let late : State := { s with cyc := 1024 }
    (s.areasIn (s.group 0)).Nodup ∧ (s.bayAt s.unit).phase = .load ∧
      (s.cyc < (s.bayAt 0).lopen + 1024 ∧ ∃ i ∈ s.areasIn (s.group 0), (s.areaAt i).phase = .formed) ∧ ¬(late.cyc < (late.bayAt 0).lopen + 1024) := by
  decide +kernel
theorem test_l_closes_and_defers :
    let t := after (exec .lClose { sweeping .load [(3, area1 .formed 0x1000 false)] with cyc := 1024 })
    (t.areaAt 3).dfr = 1 ∧ (t.bayAt 0).phase = .exec := by decide +kernel
theorem witness_Sweeps_shift :
    let s := bays [(0, { Bay.blank with fences := [(9, 0, 600)] })]
    (s.bayAt (s.unit % 16)).fences[s.unit / 16]? = some (9, 0, 600) ∧ (State.reset.bayAt 0).fences[0]? = none := by decide +kernel
/-- Context 9 whose image has operator 0x1000, two words at 0x20_0000. -/
def coded (ok : Bool) (p : AreaPhase) : State :=
  let im : Image := ⟨0x20_0000, 0, [], 0, [], 0, [⟨0x1000, false, false, false, 2, 1, 0, 0, [], 0x20_0000, ok, 80⟩], [], []⟩
  { paged with ctxs := [(9, { Ctx.blank with live := true, len := 1, image := some im })], areas := [(0, area1 p 0x1000 false)],
               cells := [(0, { Cell.blank with serve := [0] })] }
theorem witness_Sweeps_fetch :
    let s := coded true .formed
    let a := s.areaAt s.unit
    a.live = true ∧ a.phase = .formed ∧ s.source a = none ∧
      ((coded false .formed).opRec a.desc a.opid).map OpRec.ok = some false ∧
      (s.opRec a.desc a.opid).map (fun r => (r.ok, r.code, r.ncode)) = some (true, 0x20_0000, 2) ∧
      s.hubRead a.desc 0x20_0000 16 = some (List.replicate 16 0) := by decide +kernel
theorem test_badop : ((after (exec .hubCacheFetch (coded false .formed))).areaAt 0).fate = .one (symError 3 0) := by decide +kernel
def starting (op : Nat) (sys : Bool) : State :=
  { sweeping .exec [(0, area1 .loaded op sys)] with cells := [(0, { Cell.blank with serve := [0] })] }
theorem witness_Sweeps_start :
    let s := starting 0x1000 false
    let a := s.areaAt s.unit
    a.live = true ∧ a.phase = .loaded ∧ a.desc ≠ 0 ∧ s.pagerUp = true ∧ (s.bayAt (a.bays.headD 0)).phase = .exec ∧ (∀ c ∈ a.cells, (s.cellAt c).serve.head? = some 0) ∧
      a.sys = false ∧ ((starting 0x011 true).areaAt 0).opid = 0x011 ∧ ((starting 0x011 true).areaAt 0).parm = 0 ∧
      ((starting 0x011 true).modArea 0 (fun a => { a with parm := 2 })).areaAt 0 ≠ (starting 0x011 true).areaAt 0 ∧ ((starting 0x00D true).areaAt 0).sys = true := by decide +kernel
theorem witness_Sweeps_page :
    let q := (starting 0x011 true).modArea 0 (fun a => { a with syms := [⟨0, 0, symInt 5⟩], opPos := 0, opLen := 1 })
    (∀ y, ((starting 0x011 true).areaAt 0).operand = [y] → symTag y.word ≠ 6) ∧ ∃ y, (q.areaAt 0).operand = [y] ∧ symTag y.word = 6 := by
  refine ⟨fun y h => ?_, ⟨0, 0, symInt 5⟩, by decide +kernel, by decide +kernel⟩
  have e : ((starting 0x011 true).areaAt 0).operand = [] := by decide +kernel
  rw [e] at h; cases h
theorem test_page_operand :
    ((after (exec .areaStart (starting 0x011 true))).areaAt 0).fate = .sysRepl [(0, ⟨symError 1 0, 0⟩)] := by decide +kernel
theorem witness_Sweeps_broadcast :
    let t : Tag := ⟨false, 9, 0x1000, false, [0, 0], 0⟩
    let s : State := { sweeping .load [(0, area1 .formed 0x1000 false)] with cells := [(0, { Cell.blank with serve := [0] })], hubCache := [t] }
    let a := s.areaAt 0
    a.live = true ∧ a.phase = .formed ∧ (s.bayAt 0).phase = .load ∧ s.cyc < (s.bayAt 0).lopen + 1024 ∧ s.source a = some t ∧
      s.sameCode (s.group 0) a = [0] ∧ s.preferred [0] = false ∧ a.hits t = true ∧ t.lines ≤ 64 ∧ a.ncode ≤ 4096 ∧
      a.cells.Nodup ∧ a.scopesOk = true ∧ (∀ c ∈ a.cells, (s.cellAt c).serve = [0] ∧ (s.cellAt c).cache = []) := by decide +kernel
theorem witness_Sweeps_relay :
    let l := List.replicate 9 (PSym.held symNil 0 0 none)
    (0 : Nat) ≤ 2 ∧ (State.reset.relay [] 0 2 l).isSome = true ∧ (l.map PSym.home).Pairwise (· ≤ ·) := by decide +kernel
/-- Ten sharers of one tile emitted in one cell: the ninth and tenth share a copy of their own. -/
theorem test_sharers_split :
    (splitSharers [] (List.replicate 10 { PSym.held symNil 0 0 none with tile := some (0, 0x400) })).map PSym.copy =
      List.replicate 8 none ++ List.replicate 2 (some (0, 1)) := by decide +kernel
theorem test_relay_spreads :
    (State.reset.relay [] 0 2 (List.replicate 9 (PSym.held symNil 0 0 none))).map (fun l => (l.filter (fun y => y.home == 1)).length) = some 5 := by
  decide +kernel

/-! ### Compaction, pre-emption, termination -/

/-- Queue 5's record waits for 20 strands; context 9's or 8's span stands at `st` with `n` strands. -/
def crowded (d st n cyc : Nat) : State :=
  { strands5 with ctxs := [(d, { Ctx.blank with live := true, start := st, len := n, prio := 1 })], unit := d, cyc := cyc }
theorem witness_PreemptionAndRetirement_compaction :
    let s := crowded 8 10 100 0
    let c := s.ctxAt s.unit
    (s.moving = none ∧ s.unit ≠ 0 ∧ c.inRow = true ∧ c.pre = .none ∧ c.ending = .no ∧ s.shifting 8 = false ∧ s.compacts = true) ∧
      s.slideTo 8 = some 0 ∧ (∀ b ∈ c.moveBays 0, (s.bayAt b).phase = .boundary) ∧ State.reset.unit = 0 ∧
      ({ s with moving := some (8, 0) } : State).moving = some (8, 0) ∧ State.reset.moving = none := by decide +kernel
theorem test_compaction_moves :
    let t := after (exec .compactionMoveDone { crowded 8 10 2 0 with moving := some (8, 0) })
    (t.ctxAt 8).start = 0 ∧ t.moving = none := by decide +kernel
theorem witness_PreemptionAndRetirement_timeout :
    let s : State := { crowded 8 0 120 190000 with unit := 5 }
    let x := s.queueAt s.unit
    let l := { Launch.ofBytes 5 launchRec with deps := [] }
    x.stage = .strands ∧ x.head = some l ∧ x.image = some image1 ∧ (0 : Nat) < x.since + 190000 ∧ x.since + 190000 ≤ s.cyc ∧
      s.satisfied (.place 5 l image1) = false ∧ (s.descAt l.ctxd).live = false ∧ s.yielding l.prio ≠ [] ∧
      l.nstr ≤ s.freeTotal + ((s.yielding l.prio).map (fun p => p.2.len)).sum ∧
      (s.ctxs.all (fun p => p.2.pre == .none)) = true := by decide +kernel
/-- The same with one page of 512 MiB at 0x2000_0000. -/
def large : State := (State.reset.poke 0x10000 [3, 0, 2]).poke 0x20000 [5, 0, 0, 0x20]
def pre9 (p : Pre) (envsize : Word) : State :=
  { large with ctxs := [(9, { Ctx.blank with live := true, start := 0, len := 1, pre := p })], unit := 9, cyc := 38000,
               descs := [(9, { Desc.blank with ptroot := 0x10000, live := true, envbase := 0x20_0000, envsize := envsize })] }
def shifting9 : State := { pre9 (.requested 0 false false none) 0 with bays := [(0, { Bay.blank with fences := [(9, 0, 63)] })] }
def busy9 (p : Pre) (ph : AreaPhase) : State := { pre9 p 0 with areas := [(4, area1 ph 0x1000 false)] }
theorem witness_PreemptionAndRetirement_cut :
    let s := pre9 (.requested 0 false false none) 0
    (s.ctxAt s.unit).pre = .requested 0 false false none ∧ shifting9.shifting 9 = true ∧ s.shifting 9 = false ∧ s.settledCtx 9 = true ∧
      (busy9 (.requested 0 false false none) .running).settledCtx 9 = false ∧ 0 + 38000 ≤ s.cyc ∧ s.areas = [] ∧
      (let b := busy9 (.requested 0 false false none) .running
       (b.areas.map Prod.fst = [4]) ∧ (b.areaAt 4).taken = none) ∧ ({ s with cyc := 37999 } : State).cyc < 0 + 38000 := by
  decide +kernel
theorem test_cut_voids :
    let t := after (exec .gracePeriodExpiry (busy9 (.requested 0 false false none) .running))
    (t.ctxAt 9).pre = .cut false none ∧ (t.areaAt 4).phase = .over := by decide +kernel
theorem witness_PreemptionAndRetirement_save :
    (busy9 (.cut false none) .over).readyToSave 9 = false ∧
    (let s := (pre9 (.cut false none) 0x10000).modCtx 9 (fun c => { c with len := 0 })
     let f := s.flushed 9
     let x := f.descAt 9
     let e := envelope 1 (f.ctxAt 9).len (f.ctxAt 9).etnext (f.saveImage 9).1
     s.readyToSave 9 = true ∧ 0x4100 + e.2 ≤ x.envsize.toNat ∧
       (match (f.saveImage 9).2.hubWrites 9 x.envbase.toNat e.1 with | .ok _ => true | .error _ => false) = true) ∧
    (let s := pre9 (.cut false none) 0
     let f := s.flushed 9
     let secs := (f.saveImage 9).1
     let e := envelope 1 1 0 secs
     s.readyToSave 9 = true ∧ (f.descAt 9).envsize.toNat < 0x4100 + e.2 ∧
       (match (f.saveImage 9).2.hubWrites 9 0x20_0000 [(0, envHeader 3 1 0 e.2 (sectOffsets 0x4100 secs).1 (secs.map Prod.snd))] with
        | .ok _ => true | .error _ => false) = true) := by decide +kernel
/-- Context 9, whose `abort` has stopped it; its application is still in the row or has left it. -/
def aborting (l : Tbl Area) : State :=
  { State.reset with ctxs := [(9, { Ctx.blank with live := true, len := 1, stop := some (.aborted 7) })], unit := 9, areas := l }
theorem witness_PreemptionAndRetirement_abort :
    let s := aborting []
    let c := s.ctxAt s.unit
    (c.live = true ∧ c.stopped = false ∧ c.ending = .no ∧ c.rfault = false ∧ c.rowf = none ∧ c.stop = some (.aborted 7)) ∧
      (∃ p ∈ (aborting [(0, area1 .over 0x012 true)]).areas, p.2.live = true ∧ p.2.desc = 9 ∧ p.2.sys = true ∧ p.2.opid = 0x012 ∧ p.2.phase = .over) ∧
      s.areas = [] := by decide +kernel
theorem test_abort_stops_context : ((after (exec .abortContextStop (aborting []))).ctxAt 9).stopped = true := by decide +kernel
/-- Context 9 in strand 0, its only bay in normal form. -/
def resting (x : Option Sample) (cyc : Nat) (stop : Bool) : State :=
  { paged with ctxs := [(9, { Ctx.blank with live := true, launch := some { Launch.ofBytes 5 launchRec with crec := 0, lflags := 0 }, len := 1, sample := x, stopped := stop, stop := if stop then some (.aborted 7) else none })],
               unit := 9, cyc := cyc, queues := [(5, queue5 0x412 0x411)], descs := [(9, { Desc.blank with live := true })] }
def sample0 : Sample := ⟨0, 0, [(0, true)]⟩
theorem witness_PreemptionAndRetirement_samples :
    let s := resting none 0 false
    let c := s.ctxAt s.unit
    c.ending = .no ∧ (c.bays ≠ [] ∧ ∃ b ∈ c.bays, (s.bayAt b).phase = .boundary) ∧
      (let t : State := { s with bays := [(0, { Bay.blank with phase := .exec })] }
       ∀ b ∈ (t.ctxAt 9).bays, (t.bayAt b).phase ≠ .boundary) ∧ s.sampleOk 9 = true ∧
      (resting (some { sample0 with esent := 1 }) 0 false).sampleHolds 9 { sample0 with esent := 1 } = false ∧
      ((resting (some sample0) 0 false).sampleHolds 9 sample0 = true ∧ (resting (some sample0) 0 false).sampleRipe 9 sample0 = false) := by
  decide +kernel
theorem witness_PreemptionAndRetirement_retires :
    let s := resting (some sample0) 1000000 false
    let c := s.ctxAt s.unit
    (s.sampleHolds 9 sample0 = true ∧ s.sampleRipe 9 sample0 = true ∧ c.launch.map Launch.crec = some 0) ∧
      (let u := s.putCtx 9 { c with sample := none, rfault := false, ending := .result }
       (match u.hubPut 9 ((s.descAt 9).envbase.toNat + 0x4100) (u.resultImage 9 ((s.descAt 9).envsize.toNat - 0x4100)).1 with
        | .error (.absent _) => false | _ => true) = true) ∧
      ((resting (some sample0) 1000000 true).ctxAt 9).stopped = true := by decide +kernel
theorem test_retires_aborted :
    let t := after (exec .terminationSecondSample (resting (some sample0) 1000000 true))
    (t.ctxAt 9).live = false ∧ (t.queueAt 5).retired = [(0x412, 0x0C)] := by decide +kernel

/-! ### Roots, walks, queues -/

/-- An area of cells 0 and 1 that may commit, cell 0 with a held store of a flag. -/
def committing (due : Bool) : State :=
  let h : Held := ⟨⟨7, 0, 9, false, .portal, 1, some 2, none, false, false, 0, 0, true, [], .flset 3 false 5 4⟩, 8⟩
  let a : Area := { area1 .running 0x1000 false with cells := [0, 1], apps := [(0, { nops with cmtReq := due, ballast := [h] }), (1, { nops with ended := true })] }
  { State.reset with areas := [(0, a)], cells := [(0, { Cell.blank with serve := [0] })] }
theorem witness_RootEvents_commit :
    let s := committing true
    let a := s.areaAt s.unit
    (a.live = true ∧ a.phase = .running ∧ a.cmt = false ∧ a.trapped = false ∧ a.commitDue = true) ∧ a.cells.Nodup ∧
      ((committing false).areaAt 0).commitDue = false := by decide +kernel
theorem test_commit_releases : (((after (exec .commit (committing true))).cellAt 0).pend.map PendOp.path) = [.portal] := by decide +kernel
/-- An area of context 9 whose cell 0 has trapped, or stands before a page fault. -/
def rooted (a : AppCell) : State :=
  { paged with areas := [(0, { area1 .running 0x1000 false with apps := [(0, a)] })], cells := [(0, { Cell.blank with serve := [0] })] }
def trapping (cls : Nat) : State := rooted { nops with trap := some ⟨cls, 2, 5, 0, 0, none⟩ }
theorem witness_RootEvents_root :
    let s := trapping 7
    let a := s.areaAt s.unit
    let x : TrapInfo := ⟨7, 2, 5, 0, 0, none⟩
    a.live = true ∧ a.phase = .running ∧ ((rooted nops).areaAt 0).taken = none ∧ a.taken = some (.trap 0 x) ∧ x.cls ≠ clsTileWr ∧
      (match s.writeTrap a.desc (fun n => ⟨n, x.cls, x.sub, a.cmt, 0, a.aidx 0, x.pc, a.opid, a.parm, x.word, x.info, x.fseq⟩) with
       | .ok _ => true | .error _ => false) = true ∧
      (trapping 7).faults = [] ∧ ((trapping 100).areaAt 0).taken = some (.trap 0 { x with cls := clsTileWr }) ∧
      (let t := rooted { nops with fault := some 4 }
       (t.areaAt 0).taken = some (.page 0 4) ∧ ((t.ctxAt 9).freeTid).isSome = true) := by decide +kernel
theorem test_root_tile_write : ((after (exec .trapAtRoot (trapping 100))).areaAt 0).fate = .one (symError 10 0) := by decide +kernel
def stalling (cyc : Nat) : State :=
  { State.reset with
    areas := [(0, area1 .running 0x1000 false)]
    cells := [(0, { Cell.blank with serve := [0], pend := [⟨1, 0, 9, false, .tree, 3, none, none, false, false, 0, 0, false, [], .arcv 1 2 0⟩] })]
    cyc := cyc }
theorem witness_RootEvents_stall : (stalling 0).stalled 0 = false ∧ (stalling 1000000000).stalled (stalling 0).unit = true := by decide +kernel
def asleep (cyc : Nat) : State := { rooted { nops with sleep := some 10 } with cyc := cyc }
def counted (n cyc : Nat) : State := { bays [(0, { Bay.blank with counts := [(7, n)] })] with cyc := cyc }
def watched (hit : Option Word) (who : List WatchWho) : State := { State.reset with watch := [⟨3, 5, hit, who⟩] }
theorem witness_RootEvents_rest :
    (((asleep 9).cellAt (asleep 9).unit).serve = [0] ∧ ((asleep 9).appOf 0 0).sleep = some 10 ∧ (asleep 9).cyc < 10 ∧ 10 ≤ (asleep 10).cyc) ∧
      (let s := counted 256 2097152
       State.reset.cyc < (State.reset.bayAt 0).sampled + 2097152 ∧ (s.bayAt s.unit).sampled + 2097152 ≤ s.cyc ∧ ∀ p ∈ (s.bayAt 0).counts, p.2 ≤ 256) ∧
      (let s := counted 257 2097152
       (∃ p ∈ (s.bayAt 0).counts, 256 < p.2) ∧ s.pagerUp = true ∧ s.freeFault = some 0) ∧
      (watched none []).watch[State.reset.unit]? = some ⟨3, 5, none, []⟩ ∧
      (watched (some 6) [.guard 9]).watch[0]? = some ⟨3, 5, some 6, [.guard 9]⟩ ∧
      (let w : PendOp := ⟨1, 0, 9, false, .stream, 8, some 2, none, false, false, 0, 0, false, [], .flwait 4 3 5 4 true none⟩
       let s : State := { watched (some 6) [.cell 0 1] with cells := [(0, { Cell.blank with pend := [w] })] }
       s.opAnywhere 1 = some w ∧ s.opAt 0 1 = some w) := by decide +kernel
theorem test_flwait_gets_met_word :
    let w : PendOp := ⟨1, 0, 9, false, .stream, 8, some 2, none, false, false, 0, 0, false, [], .flwait 4 3 5 4 true none⟩
    let s : State := { watched (some 6) [.cell 0 1] with cells := [(0, { Cell.blank with pend := [w] })] }
    ((after (exec .watchFire s)).cellAt 0).done.map DoneOp.writes = [[.s 4 6]] := by decide +kernel
theorem test_sample_not_reported : ((after (exec .sampleReport (counted 256 2097152))).bayAt 0).sampled = 2097152 := by decide +kernel

def buffered (level : Nat) : State :=
  let w : BufWrite := ⟨.stream, 2, level, if level = 0 then 700 else 0, 700, 1, 9, 0x5000, [1, 2]⟩
  { State.reset with bufs := [w, w] }
theorem witness_WritesAndWalks_bufs :
    ((buffered 0).bufs[(buffered 0).unit]?).isSome = true ∧ (buffered 0).mayMove 0 = true ∧ (buffered 3).mayMove 0 = true ∧
      ({ buffered 0 with unit := 1 } : State).mayMove 1 = false := by decide +kernel
theorem test_write_reaches_bay : ((after (exec .propagateWrite (buffered 0))).bufs.map (fun w => (w.level, w.dom))) = [(0, 700), (1, 1)] := by decide +kernel
theorem test_write_lands : (after (exec .propagateWrite (buffered 3))).peekByte 0x5001 = 2 := by decide +kernel
def walking (va : Nat) (confirm : Bool) : State :=
  { paged with walks := [⟨0, 0xFFFF, 0, va / 65536, confirm, [⟨.bay 0, 9, va, true, false, .stream, 0, 0, [.cellOp 0 1]⟩]⟩] }
theorem witness_WritesAndWalks_walks :
    let w : Who := ⟨9, false⟩
    ((walking 0x20_0008 false).walks[(walking 0 false).unit]?).isSome = true ∧
      (([] : List WalkReq).filter (fun x => x.die == 0)).length < 16 ∧
      (let r : WalkReq := ⟨0, 0xFFFF, 0, 0x20, false, []⟩
       16 ≤ ((List.replicate 16 r).filter (fun x => x.die == r.die)).length) ∧
      (match (walking 0x30_0008 false).walk [] w 0x30_0008 true with | .bad k _ _ _ => decide (k = 1) | _ => false) = true ∧
      (match (walking 0x20_0008 true).walk [] w 0x20_0008 true with | .ok _ => true | _ => false) = true ∧
      (match (walking 0x20_0008 false).walk [] w 0x20_0008 true with | .ok _ => true | _ => false) = true ∧
      (match (walking 0x30_0008 true).walk [] w 0x30_0008 true with | .bad k _ _ _ => decide (k = 1) | _ => false) = true ∧
      ({ walking 0x20_0008 true with bad := [0x30107] } : State).walk [] w 0x20_0008 true = .torn ∧
      (walking 0 true).pagerUp = true ∧ (walking 0 true).sameFault 0xFFFF 0 0x30_0008 1 = none ∧ (walking 0 true).freeFault = some 0 := by
  decide +kernel
theorem test_fault_walked_again :
    (after (exec .tableWalk (walking 0x30_0008 false))).walks.map WalkReq.confirm = [true] := by decide +kernel
theorem witness_WritesAndWalks_tables :
    let s := (paged.poke 0x30108 (leBytes 8 0x500001))
    let d := (⟨9, false⟩ : Who).root 0x20_0000
    let ent (p : Nat) : Word := BitVec.ofNat 64 (s.peekNat p 8)
    d = 9 ∧ (0x20_0000 : Nat) < 2 ^ 55 ∧ (ent 0x10000).extractLsb' 0 16 = 3 ∧ (ent 0x10000).extractLsb' 52 4 = 0 ∧
      (ent 0x20000).extractLsb' 0 16 = 3 ∧ (ent 0x20000).extractLsb' 52 4 = 0 ∧ (ent 0x10008).getLsbD 0 = false ∧ (ent 0x30110).getLsbD 0 = false ∧
      (ent 0x30100).extractLsb' 0 16 = 5 ∧ (ent 0x30108).extractLsb' 0 16 = 1 ∧ (ent 0x30108).extractLsb' 52 4 = 0 ∧
      ((ent 0x30100).extractLsb' 16 36).toNat * 65536 < 0xC000000000 ∧ s.bad = [] ∧
      ¬(∀ q ∈ [0x10000], q < 0x10000 ∨ 0x10000 + 8 ≤ q) ∧ ¬(∀ q ∈ [0x20007], q < 0x20000 ∨ 0x20000 + 8 ≤ q) ∧
      ¬(∀ q ∈ [0x30107], q < 0x30100 ∨ 0x30100 + 8 ≤ q) := by decide +kernel
theorem test_torn_entry_checks :
    let s : State := { walking 0x20_0008 true with bad := [0x30107] }
    (after (exec .confirmingWalk s)).walks = s.walks ∧ (after (exec .confirmingWalk s)).portA.pend = [0] := by decide +kernel
theorem test_walk_permission : paged.walk [] ⟨9, false⟩ 0x20_0000 true =
    .ok ⟨0xFFFF, 0, 0x20_0000, 65536, 0x40_0000, true, false, false, 0⟩ := by decide +kernel

def op (path : Path) (que : Nat) (k : OpKind) : PendOp := ⟨7, 0, 9, false, path, que, some 2, none, false, false, 0, 0, false, [], k⟩
/-- Cell 0 of a running application with these operations in its queues; its bay has the page at 0x1_0000. -/
def queue0 (l : List PendOp) : State := { mapped nops with cells := [(0, { ((mapped nops).cellAt 0) with pend := l })] }
theorem witness_Performing_order :
    let o := op .stream 2 (.opnd 3 5)
    (queue0 []).ready 0 0 = none ∧ (queue0 [{ o with paused := true }]).ready 0 0 = none ∧
      (let l := ((queue0 [o, { o with id := 8 }]).cellAt 0).pend
       l[1]? = some { o with id := 8 } ∧ ∃ e ∈ l.take 1, e.path = o.path ∧ e.que = o.que ∧ e.kind.isFence = false ∧ (queue0 [o]).opPerformed e = false) := by
  decide +kernel
def load2 : PendOp := op .stream 2 (.gload 3 1 VecVal.zero [⟨0, 16, 0x1_0000, 0⟩, ⟨16, 16, 0x1_0002, 0⟩] false false 0)
def store2 : PendOp := op .stream 2 (.gstore [⟨0x1_0000, 16, 0, 5⟩] false false 0)
theorem witness_Performing_streams :
    (queue0 [load2]).ready 0 0 = some load2 ∧ (queue0 [load2]).bad = [] ∧
      (match (queue0 [load2]).streamEnts 0 load2 ((queue0 [load2]).heldEnt 0 load2 false) false [0x1_0000, 0x1_0002] with | .ok _ => true | _ => false) = true ∧
      (queue0 [store2]).ready 0 0 = some store2 ∧
      (match (queue0 [store2]).streamEnts 0 store2 ((queue0 [store2]).heldEnt 0 store2 false) true [0x1_0000] with
       | .ok es => es.all (fun q => decide (paOf q + 8 ≤ 0xC000000000)) | _ => false) = true := by decide +kernel
/-- A load whose second page misses; a graph store of cell 0 behind one of cell 1 in the queue of the same plane. -/
theorem witness_Performing_misses :
    let o := op .stream 2 (.gload 3 1 VecVal.zero [⟨0, 16, 0x1_0000, 0⟩, ⟨16, 16, 0x2_0000, 0⟩] false false 0)
    let s := queue0 [o]
    s.ready 0 0 = some o ∧ s.opAt 0 o.id = some o ∧
      (match s.streamEnts 0 o (s.heldEnt 0 o false) false [0x1_0000, 0x2_0000] with | .error va => va == 0x2_0000 | .ok _ => false) = true := by
  decide +kernel
theorem test_page_kept :
    let o := op .stream 2 (.gload 3 1 VecVal.zero [⟨0, 16, 0x1_0000, 0⟩, ⟨16, 16, 0x2_0000, 0⟩] false false 0)
    ((after (exec (.performQueueHead 0 ⟨0, .whole⟩) (queue0 [o]))).opAt 0 7).map (fun x => x.pages.map TlbEnt.va) = some [0x1_0000] := by
  decide +kernel
theorem witness_Performing_planes :
    let o := op .fabric 1 (.gstr 3 9 1 0 ⟨[], []⟩ 0)
    let e : PendOp := { o with id := 5 }
    let s : State := { queue0 [o] with cells := [(0, { ((mapped nops).cellAt 0) with pend := [o] }), (1, { Cell.blank with pend := [e] })] }
    (s.cellAt 0).pend[0]? = some o ∧ o.path = .fabric ∧ o.que < 1024 ∧
      (∃ x ∈ s.cells, ∃ y ∈ x.2.pend, y.path = .fabric ∧ y.que = o.que ∧ y.id < o.id ∧ y.kind.isFence = false ∧ s.opPerformed y = false) := by
  decide +kernel
theorem test_store_stays_in_buffer :
    let t := after (exec (.performQueueHead 0 ⟨0, .whole⟩) (queue0 [store2]))
    t.bufs.map BufWrite.data = [[5, 0]] ∧ t.mem = [] := by decide +kernel
def kinds : List PendOp :=
  [op .stream 8 (.atom 3 0x1_0000 0 2 4 0 5 0), op .portal 1 (.flset 3 true 5 4), op .tree 0 (.opnd 3 5), op .reel 1 (.rlstat 3 0 1),
   op .portal 3 (.ptst 0x5000 7), op .portal 2 (.tlbi 0 0x10_0000 0xFFFF 0), op .stream 0 (.fence 1 2 4 0 none none)]
theorem witness_Performing_kinds :
    (∀ o ∈ kinds, (queue0 [o]).ready 0 0 = some o) ∧ (atomNew 0 2 0 5 0).1 ≠ none ∧
      (let f := op .stream 0 (.fence 1 2 4 0 none none)
       (queue0 [f]).fencePassed 0 (earlier [f] f.id) f = true) := by decide +kernel
/-- A record that has been posted and waits for its instruction is not performed again. -/
theorem witness_Performing_performed :
    let o := op .reel 0 (.rlpost 0 0 [])
    let s : State := { queue0 [o] with chans := [(0, { Chan.blank with posted := [(⟨0, 0, 0, 0⟩, true, 0, 7)] })] }
    (s.cellAt 0).pend[0]? = some o ∧ s.opPerformed o = true ∧ s.ready 0 0 = none := by decide +kernel
theorem test_atomic_adds :
    (after (exec (.performQueueHead 0 ⟨0, .whole⟩) { queue0 kinds with mem := [(0x1_0000, 3)] })).peekNat 0x1_0000 4 = 8 := by decide +kernel
/-- A plain copy of the tile store's bytes from 0x400 to 0x8000, how far it has come, and its status. -/
def plain : CopyPkt := { copyPkt (pkt 3 0).bits.toNat with sadr := 0x400, dadr := 0x8000 }
def copying (g : CopyProg) (st : Nat) : PendOp := op .copy 0 (.copy plain 4 0 g st 0)
theorem witness_Performing_copy :
    let s := queue0 [copying (plain.start none) 0]
    let g : CopyProg := ⟨[], [⟨5, [7], []⟩], 16383, none, []⟩
    let u := queue0 [copying g 0]
    s.copyAt 0 0 = some (copying (plain.start none) 0) ∧ s.opAt 0 7 = some (copying (plain.start none) 0) ∧ u.copyAt 0 0 = some (copying g 0) ∧
      plain.brv = false ∧ plain.ctl.extractLsb' 0 7 = 3 ∧ (s.cellAt 0).bad = [] ∧ ((plain.start none).awaits 5 = true ∧ (plain.start none).got = []) ∧
      plain.covers (plain.to 5).toNat = false ∧ (queue0 []).copyAt 0 0 = none := by decide +kernel
theorem test_copy_reads_before_it_writes :
    let t := after (exec (.copyBurstLand 0 0 ⟨5, 1⟩) (queue0 [copying (plain.start none) 0]))
    t.opAt 0 7 = some (copying ⟨[(0, 5), (6, 16378)], [⟨5, [0], []⟩], 0, none, []⟩ 0) ∧
      tget 0 ((after (exec (.copyBurstLand 0 0 ⟨5, 1⟩) (queue0 [copying ⟨[], [⟨5, [7], []⟩], 0, none, []⟩ 0]))).cellAt 0).ts 0x8005 = 7 := by
  decide +kernel
theorem witness_Performing_copy_complete :
    let done : CopyProg := ⟨[], [], 16384, none, []⟩
    (queue0 [copying (plain.start none) 0]).copyReady 0 (copying (plain.start none) 0) = false ∧ (queue0 [copying done 0]).copyReady 0 (copying done 0) = true ∧
      (queue0 [copying (plain.start none) 4]).copyReady 0 (copying (plain.start none) 4) = true ∧ (copying done 4).tok = some 2 ∧ (copying done 4).det = none ∧
      (copying done 4).paused = false ∧
      (tget (⟨0, 0⟩ : CopyStat) ((queue0 [copying done 4]).appOf 0 0).cstat 2).code = 0 := by decide +kernel
theorem test_copy_keeps_failure :
    (tget (⟨0, 0⟩ : CopyStat) ((after (exec (.copyComplete 0 0) (queue0 [copying (plain.start none) 4]))).appOf 0 0).cstat 2).code = 4 := by decide +kernel

def mcArea (bufs : List McBuf) (role : Nat) : State :=
  let j : McJoin := ⟨1, 0, 0, role, 6, 3, 7, 0, bankStream, [VecVal.zero], 3, false⟩
  let a : Area := { area1 .running 0x1000 false with cells := [0, 1], first := 0, last := 1, joins := [{ j with cell := 0, role := 0, sent := 1, op := 6 }, j], bufs := bufs }
  { State.reset with areas := [(0, a)], cells := [(1, { Cell.blank with serve := [0], pend := [op .matrix 0 (.mrecv 0 0 false)] })] }
where bankStream : StreamReg := ⟨true, bankRec true, [], none⟩
theorem witness_Performing_multicast_root :
    let s := mcArea [] 2
    let a := (s.areaAt 0).mcClean
    (a.mcCurrent 0).map (fun j => (j.strm.rc.ts, j.role, s.sendFree j.cell j.op)) = some (true, 0, true) ∧ a.mcBelow 0 0 0 a.level a.rootNode = [1] ∧
      (a.bufOf 0 (a.level - 1) 1).rows.length < 8 := by decide +kernel
theorem witness_Performing_multicast_leaf :
    let s := mcArea [⟨0, 1, 0, [⟨0, 3, VecVal.zero, []⟩], some 0, 0⟩] 2
    let a := (s.areaAt 0).mcClean
    (a.bufOf 0 0 1).rows = [⟨0, 3, VecVal.zero, []⟩] ∧ (a.bufOf 0 0 0).rows = [] ∧ s.opFree 1 7 = true ∧
      (a.joins.find? (fun x => x.grp == 0 && x.k == 0 && x.cell == 1 && x.role != 0)).map (fun j => (j.role, j.sent, j.nrow)) = some (2, 3, 3) ∧
      (s.opAt 1 7).isSome = true := by decide +kernel
/-- Four cells under one root; a row of send 0 stands at the node over cells 2 and 3, of which the last may have ended. -/
def mcNode (ended : Bool) : State :=
  let j : McJoin := ⟨0, 0, 0, 0, 6, 3, 6, 0, mcArea.bankStream, [VecVal.zero], 1, false⟩
  let a : Area := { area1 .running 0x1000 false with cells := [0, 1, 2, 3], first := 0, last := 3, joins := [j], bufs := [⟨1, 1, 0, [⟨0, 0, VecVal.zero, []⟩], some 0, 3⟩], apps := [(3, { nops with ended := ended })] }
  { State.reset with areas := [(0, a)] }
theorem witness_Performing_multicast_node :
    let a := ((mcNode false).areaAt 0).mcClean
    let b := ((mcNode true).areaAt 0).mcClean
    a.mcNext (a.bufOf 0 1 1) 2 = some ⟨0, 0, VecVal.zero, []⟩ ∧ (a.bufOf 0 0 2).rows.length < 8 ∧
      a.mcNext (a.bufOf 0 1 1) 3 = some ⟨0, 0, VecVal.zero, []⟩ ∧ b.mcNext (b.bufOf 0 1 1) 3 = none := by decide +kernel
theorem test_row_passes_down :
    ((after (exec (.multicastRowMove 0 0 (.fromBuffer 0 2)) (mcNode false))).areaAt 0 |>.bufOf 0 0 2).rows.length = 1 := by decide +kernel
def doneOne (det : Option Nat) (w : List RegWrite) : State :=
  let s : State := { queue0 [] with ctxs := [(9, { Ctx.blank with detached := [(4, 1, false)] })] }
  (s.modCell 0 (fun c => { c with done := [⟨7, 0, 9, some 2, det, w, 0x20, 0, false, none⟩] })).putApp { nops with t := [(2, 1)] }
theorem witness_Performing_completion :
    let s := doneOne none [.s 3 5]
    (s.cellAt 0).done[0]? = some ⟨7, 0, 9, some 2, none, [.s 3 5], 0x20, 0, false, none⟩ ∧ s.appLive 0 = true ∧ s.inCell 0 7 = false ∧
      (queue0 [] |> fun u : State => { u with bufs := [⟨.stream, 2, 0, 0, 0, 7, 9, 0x5000, [1]⟩] }).inCell 0 7 = true ∧ (s.appOf 0 0).stopped = false ∧ (s.appOf 0 0).getT 2 = 1 ∧
      ((doneOne (some 4) []).cellAt 0).done[0]?.map DoneOp.det = some (some 4) ∧ ((doneOne (some 4) []).ctxAt 9).detached = [(4, 1, false)] := by decide +kernel
theorem test_completion_writes :
    let t := after (exec (.asyncCompletion 0 0) (doneOne none [.s 3 5]))
    (t.appOf 0 0).getS 3 = 5 ∧ (t.appOf 0 0).getT 2 = 0 ∧ (t.appOf 0 0).fflags = 0x20 := by decide +kernel
theorem test_detached_posts :
    ((after (exec (.asyncCompletion 0 0) (doneOne (some 4) []))).ctxAt 9).compl = [⟨false, 4, 0, symNil⟩] := by decide +kernel

/-! ### Links, errors, power, cold start -/

def linked (n : Nat) : State := { State.reset with board := { Board.blank with retries := [(0, n)], portUp := [3] }, unit := 0 }
theorem witness_LinksErrorsPower_links :
    tget 0 (linked 8).board.retries 0 < 9 ∧ 9 ≤ tget 0 (linked 9).board.retries 0 ∧ (0 : Nat) < 16 ∧ 0 ∉ (linked 0).board.portUp ∧
      (let m : Msg := { msgTo (.cts 1) with toMod := 5 }
       let s : State := { reel (chan0 0) with refused := [m], chans := [(18, chan0 0)] }
       s.refused[s.unit]? = some m ∧ m.kind ≠ .abort ∧ (s.chanAt m.fromReel m.fromChan).busy = true) ∧
      (let s : State := { State.reset with refused := [msgTo .abort] }
       s.refused[s.unit]? = some (msgTo .abort)) ∧ State.reset.refused[State.reset.unit]? = none := by decide +kernel
theorem test_retrain_kept_due : after (exec .flitCrcRetry (linked 9)) = linked 9 := by decide +kernel
theorem test_retrain_not_at_eight_failures : after (exec (.linkRetrain 0 false) (linked 8)) = linked 8 := by decide +kernel
theorem witness_LinksErrorsPower_windows :
    (0 : Nat) + 2 ≤ 0xC000000000 ∧ (opened (queue5 0 0)).board.opened = true ∧ State.reset.board.opened = false ∧ (0 : Nat) + 8 ≤ 0xC000000000 := by
  decide +kernel
theorem test_peer_write :
    (after (exec (.peerInboundRequest (.write 0x5000 [1, 2])) State.reset)).mem = [(0x5000, 1), (0x5001, 2)] := by decide +kernel
theorem witness_LinksErrorsPower_errors :
    let s := resting none 0 false
    (s.ctxOfCell 3 = some 9 ∧ strandOf 3 ≠ 127 ∧ (s.ctxAt 9).stopped = false ∧ (s.ctxAt 9).ending = .no) ∧ strandOf 8128 = 127 ∧
      (paged.putDesc 0 { Desc.blank with ptroot := 0x10000, valid := true }).inTable 0x10000 = true ∧ (0x10000 : Nat) < 0xC000000000 ∧
      (let t := State.reset.putCell 0 { Cell.blank with due := true }
       (0 : Nat) < 8192 ∧ (t.cellAt t.unit).due = true ∧ t.unit ∉ t.board.retireMap ∧ t.freeStrand (strandOf 0) = true) ∧
      s.freeStrand (strandOf 3) = false ∧ (State.reset.cellAt 0).due = false ∧
      (let t := bays [(0, { Bay.blank with lines := [⟨0x5000 / 128, true⟩, ⟨0x7000 / 128, true⟩] })]
       (∀ l ∈ (t.bayAt 0).lines, l.num ≠ 0x6000 / 128) ∧ (∃ l ∈ (t.bayAt 0).lines, l.num = 0x5000 / 128) ∧ homeSlice 0x5000 ≠ 0 ∧
         (∃ l ∈ (t.bayAt 0).lines, l.num = 0x7000 / 128) ∧ homeSlice 0x4000 = 0 ∧
         (let u := bays [(0, { Bay.blank with lines := [⟨0x4000 / 128, true⟩] })]
          ∃ l ∈ (u.bayAt 0).lines, l.num = 0x4000 / 128)) := by decide +kernel
theorem test_bad_entry_of_cleared_descriptor :
    ({ paged with descs := [], ctxs := [(9, { Ctx.blank with kept := some { Desc.blank with ptroot := 0x10000 } })] } : State).inTable 0x10000 = true := by
  decide +kernel
theorem test_retirement_marks :
    ((after (exec .cellRetirement ((resting none 0 false).putCell 9 { Cell.blank with due := true }))).cellAt 9).marked = true := by decide +kernel
def sensed (w hot : Nat) (tripped : Bool) : State :=
  { State.reset with board := { Board.blank with lastW := w, lastHot := hot, tripped := tripped }, agenda := [.tick] }
theorem witness_LinksErrorsPower_power :
    (let b := (sensed 3201 101 false).board
     (b.pen = true ∧ b.cap.toNat < b.lastW ∧ b.pstep < 26) ∧ (100 < b.lastHot ∧ b.tstep < 26)) ∧
    (let b := (sensed 3039 95 false).board
     (b.pen = true ∧ b.lastW * 100 < b.cap.toNat * 95) ∧ b.lastHot ≤ 95 ∧ ¬(110 ≤ b.lastHot)) ∧
    (let b := (sensed 3040 110 true).board
     ¬(b.lastW * 100 < b.cap.toNat * 95) ∧ 110 ≤ b.lastHot ∧ b.tripped = true ∧ (sensed 0 0 true).agenda = [.tick]) := by decide +kernel
theorem test_power_rises : (after (exec .powerStepRise (sensed 3201 0 false))).board.pstep = 1 := by decide +kernel
theorem test_trip_stops : (after (step (sensed 0 0 true))).cyc = 0 := by decide +kernel
theorem witness_LinksErrorsPower_unsigned : State.reset.board.manifest = none := by decide +kernel
theorem test_recovery : (after (exec .coldStart State.reset)).board.boot = 2 := by decide +kernel
theorem witness_MemoryCanonicalStep :
    let s : State := { State.reset with agenda := [.farWrite (2 ^ 50) 1] }
    Memory.wf s.mem = true ∧ (after (step s)).mem = [(2 ^ 50, 1)] := by decide +kernel
/-- A board whose flash holds a manifest of one entry of component `cid` with no bytes and the digest 0, its key accepted. -/
def signed (cid : Nat) : Board :=
  let l := leBytes 4 0x4E414D42 ++ leBytes 4 0 ++ leBytes 4 1 ++ leBytes 52 0 ++ leBytes 4 cid
  { Board.blank with flash := tsetRun 0 [] 0 l, fkeys := [(Config.sha3 (List.replicate 1312 0), false)] }
/-- Whatever verification is, where it accepts this signature the manifest is accepted; its one component is accepted
where the digest of no bytes is 0, and otherwise refused. -/
theorem witness_LinksErrorsPower_manifest
    (h : Config.mldsaVerify (List.replicate 1312 0) (Config.sha3 (tgetRun 0 (signed 1).flash 0 1424)) (List.replicate 2420 0) = true) :
    ∃ e d, (signed 1).manifest = some ([e], d) ∧ (signed 1).componentOk e = (Config.sha3 [] == 0) := by
  have k : tgetRun 0 (signed 1).flash 112 1312 = List.replicate 1312 0 := by decide +kernel
  have g : tgetRun 0 (signed 1).flash 1424 2420 = List.replicate 2420 0 := by decide +kernel
  have n : leNat (tgetRun 0 (signed 1).flash 8 4) = 1 := by decide +kernel
  have hd : (!(fieldAt (tgetRun 0 (signed 1).flash 0 64) 0 4 == 0x4E414D42 && decide (1 ≤ 1) && decide (1 ≤ 64) &&
    decide ((signed 1).fsvn.toNat ≤ fieldAt (tgetRun 0 (signed 1).flash 0 64) 4 4))) = false := by decide +kernel
  have f : (signed 1).fkeys.any (fun q => !q.2 && q.1 == Config.sha3 (List.replicate 1312 0)) = true := by
    simp only [signed, List.any_cons, Bool.not_false, Bool.true_and, beq_self_eq_true, Bool.true_or]
  have e : (upto 0 1).map (fun j => (⟨fieldAt (tgetRun 0 (signed 1).flash (64 + 48 * j) 48) 0 4, fieldAt (tgetRun 0 (signed 1).flash (64 + 48 * j) 48) 4 4,
    fieldAt (tgetRun 0 (signed 1).flash (64 + 48 * j) 48) 8 8, BitVec.ofNat 256 (fieldAt (tgetRun 0 (signed 1).flash (64 + 48 * j) 48) 16 32)⟩ : ManEntry)) =
      [⟨1, 0, 0, 0⟩] := by decide +kernel
  refine ⟨⟨1, 0, 0, 0⟩, Config.sha3 (tgetRun 0 (signed 1).flash 0 3844), ?_, by simp [Board.componentOk, tgetRun]⟩
  unfold Board.manifest
  simp only [n, hd, manBytes, k, g, f, h, e, Nat.reduceMul, Nat.reduceAdd, Bool.not_true, Bool.or_self, Bool.false_eq_true, if_false]

end Sys2Proof.Tests
end

section
/-! Every step keeps memory in its canonical form (O59). Nearly all of the model's operations leave memory alone: for each a lemma
`…_mem` says so. The others write bytes, one at a time, by `tset` and `tsetRun`, which keep the form: for each a lemma `…_wf` says that
its memory is canonical when memory was. Lemmas `…_memSat` carry any property `Q` of memory through a rule that leaves it alone and
answers one of several outcomes. They stand in the order of the model's files. -/

namespace Sys2Proof.Machine

open Sys2Proof

/-! ### Outcomes, choices, sweeps and the table of bytes -/

/-- The memory of the state that an outcome answers, where it answers one, is as `Q` says. -/
def Out.MemSat (Q : List Host.Cell → Prop) : Out → Prop
  | .next t => Q t.mem
  | .fault _ => True
  | .refused _ => True

/-- The memory of every state that an instruction's rule answers is as `Q` says. -/
def Res.MemSat (Q : List Host.Cell → Prop) : Res → Prop
  | .ok t => Q t.mem
  | .jump t _ => Q t.mem
  | .stay t => Q t.mem
  | .wait => True
  | .trap _ _ _ => True

section
variable (Q : List Host.Cell → Prop) (t : State)

@[simp] theorem Out.memSat_next : Out.MemSat Q (.next t) ↔ Q t.mem := Iff.rfl
@[simp] theorem Res.memSat_ok : (Res.ok t).MemSat Q ↔ Q t.mem := Iff.rfl
@[simp] theorem Res.memSat_jump (pc : Nat) : (Res.jump t pc).MemSat Q ↔ Q t.mem := Iff.rfl
@[simp] theorem Res.memSat_stay : (Res.stay t).MemSat Q ↔ Q t.mem := Iff.rfl
@[simp] theorem Res.memSat_wait : Res.wait.MemSat Q := trivial
@[simp] theorem Res.memSat_trap (c b : Nat) (i : Word) : (Res.trap c b i).MemSat Q := trivial

@[simp] theorem Res.memSat_ite (c : Prop) [Decidable c] (a b : Res) :
    (if c then a else b).MemSat Q ↔ if c then a.MemSat Q else b.MemSat Q := by split <;> rfl
end

@[simp] theorem State.mem_ite (c : Prop) [Decidable c] (s t : State) :
    (if c then s else t).mem = if c then s.mem else t.mem := apply_ite State.mem c s t

@[simp] theorem snd_mem_ite {α : Type} (c : Prop) [Decidable c] (p q : α × State) :
    (if c then p else q).2.mem = if c then p.2.mem else q.2.mem := apply_ite (fun p : α × State => p.2.mem) c p q

@[simp] theorem foldl_mem {α : Type} (f : State → α → State) (l : List α) (s : State) (hf : ∀ s x, (f s x).mem = s.mem) :
    (l.foldl f s).mem = s.mem := by
  induction l generalizing s with
  | nil => rfl
  | cons x l ih => rw [List.foldl_cons, ih, hf]

@[simp] theorem foldl_snd_mem {α β : Type} (f : β × State → α → β × State) (l : List α) (p : β × State)
    (hf : ∀ p x, (f p x).2.mem = p.2.mem) : (l.foldl f p).2.mem = p.2.mem := by
  induction l generalizing p with
  | nil => rfl
  | cons x l ih => rw [List.foldl_cons, ih, hf]

@[simp] theorem Memory.wf_tset (m : List Host.Cell) (pa : Nat) (b : Byte) (h : Memory.wf m = true) :
    Memory.wf (tset 0#8 m pa b) = true := tset_canon 0 m pa b h

@[simp] theorem Memory.wf_tsetRun (m : List Host.Cell) (pa : Nat) (bs : List Byte) (h : Memory.wf m = true) :
    Memory.wf (tsetRun 0#8 m pa bs) = true := tsetRun_canon 0 m pa bs h

/-- A sweep of steps that each keep memory canonical keeps it so. -/
@[simp] theorem foldl_wf {α : Type} (f : State → α → State) (l : List α) (s : State)
    (hf : ∀ s x, Memory.wf s.mem = true → Memory.wf (f s x).mem = true) (h : Memory.wf s.mem = true) :
    Memory.wf (l.foldl f s).mem = true := by
  induction l generalizing s with
  | nil => exact h
  | cons x l ih => exact ih _ (hf s x h)

theorem tcanonFrom_filter {α : Type} [DecidableEq α] (d : α) (t : Tbl α) (lo : Nat) (p : Nat × α → Bool)
    (hc : tcanonFrom d lo t = true) : tcanonFrom d lo (t.filter p) = true := by
  induction t generalizing lo with
  | nil => rfl
  | cons e r ih =>
    obtain ⟨k, v⟩ := e
    simp only [tcanonFrom, Bool.and_eq_true, decide_eq_true_eq] at hc
    obtain ⟨⟨hk, hv⟩, hr⟩ := hc
    by_cases hp : p (k, v) = true
    · simp [hp, tcanonFrom, hk, hv, ih (k + 1) hr]
    · simp only [hp, List.filter_cons, Bool.false_eq_true, ↓reduceIte]
      exact tcanonFrom_le d _ (k + 1) lo (by omega) (ih (k + 1) hr)

@[simp] theorem Memory.wf_ite (c : Prop) [Decidable c] (m m' : List Host.Cell) :
    (Memory.wf (if c then m else m') = true) ↔ if c then Memory.wf m = true else Memory.wf m' = true := by split <;> rfl

/-- A computation that succeeds has a first part that succeeds. -/
theorem except_bind_ok {ε α β : Type} {x : Except ε α} {f : α → Except ε β} {b : β} (h : (x >>= f) = .ok b) :
    ∃ a, x = .ok a ∧ f a = .ok b := by
  cases x with
  | error e => cases h
  | ok a => exact ⟨a, rfl, h⟩

/-- A list of computations that fails has one that fails so. -/
theorem except_mapM_error {ε α β : Type} {f : α → Except ε β} {l : List α} {e : ε} (h : l.mapM f = .error e) :
    ∃ x ∈ l, f x = .error e := by
  induction l with
  | nil => cases h
  | cons x l ih =>
    rw [List.mapM_cons] at h
    cases hx : f x with
    | error e' =>
      rw [hx] at h
      cases h
      exact ⟨x, List.mem_cons_self, hx⟩
    | ok y =>
      rw [hx] at h
      cases hl : l.mapM f with
      | error e' =>
        rw [hl] at h
        cases h
        obtain ⟨z, hz, he⟩ := ih hl
        exact ⟨z, List.mem_cons_of_mem x hz, he⟩
      | ok ys =>
        rw [hl] at h
        cases h

/-! ### Sys2Proof/Machine/Ops.lean -/

@[simp] theorem State.modCell_mem (s : State) (c : Nat) (f : Cell → Cell) : (s.modCell c f).mem = s.mem := by
  simp [State.modCell]

@[simp] theorem State.modArea_mem (s : State) (i : Nat) (f : Area → Area) : (s.modArea i f).mem = s.mem := by
  simp [State.modArea]

@[simp] theorem State.modBay_mem (s : State) (b : Nat) (f : Bay → Bay) : (s.modBay b f).mem = s.mem := by simp [State.modBay]

@[simp] theorem State.modCtx_mem (s : State) (d : Nat) (f : Ctx → Ctx) : (s.modCtx d f).mem = s.mem := by simp [State.modCtx]

@[simp] theorem State.modDesc_mem (s : State) (d : Nat) (f : Desc → Desc) : (s.modDesc d f).mem = s.mem := by
  simp [State.modDesc]

@[simp] theorem State.modQueue_mem (s : State) (q : Nat) (f : Queue → Queue) : (s.modQueue q f).mem = s.mem := by
  simp [State.modQueue]

@[simp] theorem State.modGraph_mem (s : State) (d h : Nat) (f : Graph → Graph) : (s.modGraph d h f).mem = s.mem := by
  simp [State.modGraph]

@[simp] theorem State.modChan_mem (s : State) (r ch : Nat) (f : Chan → Chan) : (s.modChan r ch f).mem = s.mem := by
  simp [State.modChan]

@[simp] theorem State.putPort_mem (s : State) (p : Port) (x : PortRegs) : (s.putPort p x).mem = s.mem := by
  unfold State.putPort
  split <;> simp

@[simp] theorem State.putAppOf_mem (s : State) (i c : Nat) (x : AppCell) : (s.putAppOf i c x).mem = s.mem := by
  simp [State.putAppOf]

@[simp] theorem State.raiseTrap_mem (s : State) (cls sub : Nat) (info : Word) : (s.raiseTrap cls sub info).mem = s.mem := by
  unfold State.raiseTrap; dsimp only; repeat' split
  all_goals simp

@[simp] theorem State.advance_mem (s : State) : s.advance.mem = s.mem := by simp [State.advance]

/-- An instruction that issues keeps what its rule, its skip and a wait keep of memory. -/
theorem issue_memSat {Q : List Host.Cell → Prop} {h : Hdr} {lane : Bool} {uses : List Reg} {skip : State → State}
    {body : State → Res} {s : State} (hq : Q s.mem) (hskip : Q (skip s).mem) (hbody : (body s).MemSat Q) :
    Q (issue h lane uses skip body s).mem := by
  rcases issue_cases s h lane uses skip body with
    e | ⟨_, _, e⟩ | e | ⟨t, hb, e⟩ | ⟨t, pc, hb, e⟩ | ⟨t, hb, e⟩ | ⟨c, b, i, _, e⟩ <;> rw [e]
  · exact hq
  · simpa using hskip
  · simpa using hq
  · rw [hb] at hbody
    simpa using hbody
  · rw [hb] at hbody
    simpa using hbody
  · rw [hb] at hbody
    exact hbody
  · simpa using hq

/-- An instruction of the register files leaves memory alone. -/
@[simp] theorem issueReg_mem (h : Hdr) (lane : Bool) (uses : List Reg) (body : AppCell → AppRes) (s : State) :
    (issueReg h lane uses body s).mem = s.mem := by
  have hr := congrArg State.mem (issueReg_rest s h lane uses body)
  exact hr

@[simp] theorem needCommit_memSat (Q : List Host.Cell → Prop) (s : State) (body : State → Res) :
    (needCommit s body).MemSat Q ↔ if s.app.cmt then (body s).MemSat Q else Q s.mem := by
  simp [needCommit]

@[simp] theorem State.sent_mem (s : State) (d n : Nat) : (s.sent d n).mem = s.mem := by simp [State.sent]

@[simp] theorem State.landed_mem (s : State) (d : Nat) : (s.landed d).mem = s.mem := by simp [State.landed]

@[simp] theorem State.push_mem (s : State) (path : Path) (que : Nat) (tok : Option Nat) (dst : List Reg) (k : OpKind) :
    (s.push path que tok dst k).mem = s.mem := by
  simp [State.push]

@[simp] theorem State.pushDone_mem (s : State) (tok : Option Nat) (dst : List Reg) (w : List RegWrite) (ff : BitVec 6) (mf : BitVec 3) :
    (s.pushDone tok dst w ff mf).mem = s.mem := by
  simp [State.pushDone]

@[simp] theorem State.stir_mem (s : State) (i : Nat) : (s.stir i).mem = s.mem := by simp [State.stir]

@[simp] theorem State.opDone_mem (s : State) (c : Nat) (op : PendOp) (w : List RegWrite) (ff : BitVec 6) (mf : BitVec 3) (failed : Bool) :
    (s.opDone c op w ff mf failed).mem = s.mem := by
  simp [State.opDone]

@[simp] theorem State.opPut_mem (s : State) (c : Nat) (op : PendOp) : (s.opPut c op).mem = s.mem := by simp [State.opPut]

@[simp] theorem State.opDrop_mem (s : State) (c id : Nat) : (s.opDrop c id).mem = s.mem := by simp [State.opDrop]

@[simp] theorem State.hold_mem (s : State) (path : Path) (que : Nat) (tok : Option Nat) (bytes : Nat) (fl : BitVec 6) (k : OpKind) :
    (s.hold path que tok bytes fl k).mem = s.mem := by
  unfold State.hold
  split <;> simp

@[simp] theorem State.effect_memSat (Q : List Host.Cell → Prop) (s : State) (path : Path) (que : Nat) (tok : Option Nat)
    (bytes : Nat) (fl : BitVec 6) (k : OpKind) : (s.effect path que tok bytes fl k).MemSat Q ↔ Q s.mem := by
  simp [State.effect]

@[simp] theorem State.free_mem (s : State) (w : Nat) : (s.free w).2.mem = s.mem := by simp [State.free]

/-! ### Sys2Proof/Machine/Memory.lean -/

@[simp] theorem State.pokeNat_mem (s : State) (pa n x : Nat) : (s.pokeNat pa n x).mem = tsetRun 0 s.mem pa (leBytes n x) := by
  simp [State.pokeNat]

@[simp] theorem State.putTlb_mem (s : State) (h : TlbHome) (l : Tlb) : (s.putTlb h l).mem = s.mem := by
  unfold State.putTlb
  split <;> simp

@[simp] theorem State.install_mem (s : State) (h : TlbHome) (e : TlbEnt) : (s.install h e).mem = s.mem := by
  simp [State.install]

@[simp] theorem State.useTlb_mem (s : State) (h : TlbHome) (es : List TlbEnt) : (s.useTlb h es).mem = s.mem := by
  simp [State.useTlb]

@[simp] theorem State.dropShapes_mem (s : State) (d : Nat) : (s.dropShapes d).mem = s.mem := by simp [State.dropShapes]

@[simp] theorem State.askWalk_mem (s : State) (h : TlbHome) (w : Who) (va : Nat) (write : Bool) (src : FaultSrc) (cell area : Nat)
    (who : List Waiter) :
    (s.askWalk h w va write src cell area who).mem = s.mem := by
  simp [State.askWalk]

@[simp] theorem State.keepFound_mem (s : State) (c id : Nat) (w : Who) (own : List TlbEnt) (write : Bool) (vas : List Nat) :
    (s.keepFound c id w own write vas).mem = s.mem := by
  simp [State.keepFound]

theorem State.hubWrite_wf {s t : State} {d va : Nat} {bs : List Byte} (h : s.hubWrite d va bs = some t)
    (hs : Memory.wf s.mem = true) : Memory.wf t.mem = true := by
  induction bs generalizing s va with
  | nil => cases h; exact hs
  | cons b bs ih =>
    unfold State.hubWrite at h
    split at h
    · cases h
    · exact ih h (s.poke_wf _ _ hs)

@[simp] theorem State.hubWrite_getD_wf (s : State) (d va : Nat) (bs : List Byte) (hs : Memory.wf s.mem = true) :
    Memory.wf ((s.hubWrite d va bs).getD s).mem = true := by
  cases h : s.hubWrite d va bs with
  | none => exact hs
  | some t => exact State.hubWrite_wf h hs

/-! ### Sys2Proof/Machine/Order.lean -/

@[simp] theorem State.keepLine_mem (s : State) (b : Option Nat) (pol sc pa : Nat) (wr : Bool) :
    (s.keepLine b pol sc pa wr).mem = s.mem := by
  unfold State.keepLine; dsimp only; repeat' split
  all_goals simp

@[simp] theorem State.countPage_mem (s : State) (b asid gen va : Nat) : (s.countPage b asid gen va).mem = s.mem := by
  simp [State.countPage]

@[simp] theorem State.keepLines_mem (s : State) (b : Option Nat) (pol : Nat) (wr : Bool) (l : List (Nat × TlbEnt)) :
    (s.keepLines b pol wr l).mem = s.mem := by
  simp [State.keepLines]

@[simp] theorem State.touched_mem (s : State) (b pol : Nat) (wr : Bool) (l : List (Nat × TlbEnt)) :
    (s.touched b pol wr l).mem = s.mem := by
  simp [State.touched]

@[simp] theorem State.touchedHome_mem (s : State) (h : TlbHome) (wr : Bool) (l : List (Nat × TlbEnt)) :
    (s.touchedHome h wr l).mem = s.mem := by
  simp [State.touchedHome]

@[simp] theorem State.accessed_mem (s : State) (b : Nat) (w : Who) (pol : Nat) (wr : Bool) (l : List (Nat × TlbEnt)) :
    (s.accessed b w pol wr l).mem = s.mem := by
  simp [State.accessed]

/-! ### Sys2Proof/Machine/Tiles.lean -/

@[simp] theorem WriteFate.res_memSat (Q : List Host.Cell → Prop) (f : WriteFate) (k : Res) :
    (f.res k).MemSat Q ↔ (f = .ok → k.MemSat Q) := by
  cases f <;> simp [WriteFate.res]

/-! ### Sys2Proof/Machine/Operands.lean -/

@[simp] theorem Bad.res_memSat (Q : List Host.Cell → Prop) (b : Bad) : b.res.MemSat Q := trivial

/-! ### Sys2Proof/Machine/AreaOps.lean -/

@[simp] theorem State.raiseTrapIn_mem (s : State) (i c cls sub : Nat) (info : Word) (fseq : Option (BitVec 32)) :
    (s.raiseTrapIn i c cls sub info fseq).mem = s.mem := by
  unfold State.raiseTrapIn; dsimp only; repeat' split
  all_goals simp

@[simp] theorem State.raiseAll_mem (s : State) (i cls sub : Nat) : (s.raiseAll i cls sub).mem = s.mem := by
  simp [State.raiseAll]

@[simp] theorem State.endSends_mem (s : State) (i : Nat) : (s.endSends i).mem = s.mem := by simp [State.endSends]

@[simp] theorem State.dropMessages_mem (s : State) (i : Nat) : (s.dropMessages i).mem = s.mem := by simp [State.dropMessages]

@[simp] theorem State.settleEnd_mem (s : State) (i : Nat) : (s.settleEnd i).mem = s.mem := by simp [State.settleEnd]

@[simp] theorem State.commitCell_mem (s : State) (i c : Nat) : (s.commitCell i c).mem = s.mem := by simp [State.commitCell]

@[simp] theorem State.commitArea_mem (s : State) (i : Nat) : (s.commitArea i).mem = s.mem := by simp [State.commitArea]

/-! ### Sys2Proof/Machine/Control.lean -/

@[simp] theorem State.endCell_mem (s : State) : s.endCell.mem = s.mem := by simp [State.endCell]

/-! ### Sys2Proof/Machine/Mem.lean -/

@[simp] theorem State.bump_mem (s : State) (as : BitVec 3) (n : Int) : (s.bump as n).mem = s.mem := by simp [State.bump]

@[simp] theorem Res.then_memSat (Q : List Host.Cell → Prop) (r : Res) (f : State → State) (hf : ∀ t, (f t).mem = t.mem) :
    (r.then f).MemSat Q ↔ r.MemSat Q := by
  cases r <;> simp [Res.then, hf]

@[simp] theorem tileGate_memSat (Q : List Host.Cell → Prop) (s : State) (que : Nat) (onlyReads : Bool) (k : Res) :
    (tileGate s que onlyReads k).MemSat Q ↔ (s.tileHeld que onlyReads = false → k.MemSat Q) := by
  cases h : s.tileHeld que onlyReads <;> simp [tileGate, h]

@[simp] theorem tileAccess_memSat {Q : List Host.Cell → Prop} (s : State) (as : Nat) (x : StreamReg) (ty : Nat) (o : Int)
    (ls : List LaneAt) (write : Bool) (k : Res) (hk : k.MemSat Q) : (tileAccess s as x ty o ls write k).MemSat Q := by
  unfold tileAccess; dsimp only; repeat' split
  all_goals simp [hk]

@[simp] theorem globalAccess_memSat {Q : List Host.Cell → Prop} (s : State) (x : StreamReg) (acc : Accepts) (ty : Nat) (o : Int)
    (ls : List LaneAt) (k : Res) (hk : k.MemSat Q) : (globalAccess s x acc ty o ls k).MemSat Q := by
  unfold globalAccess; repeat' split
  all_goals simp [hk]

@[simp] theorem tokGate_memSat (Q : List Host.Cell → Prop) (a : AppCell) (tv : BitVec 1) (tok : BitVec 3) (k : Res) :
    (tokGate a tv tok k).MemSat Q ↔ (a.tokRoom tv tok = true → k.MemSat Q) := by
  cases h : a.tokRoom tv tok <;> simp [tokGate, h]

@[simp] theorem State.makeRecord_memSat {Q : List Host.Cell → Prop} (s : State) (as : Nat) (r : ShapeRec) (clean : Bool)
    (hq : Q s.mem) : (s.makeRecord as r clean).MemSat Q := by
  unfold State.makeRecord
  split <;> simp [hq]

@[simp] theorem State.shapeKeep_mem (s : State) (shx : Nat) (r : ShapeRec × Bool) : (s.shapeKeep shx r).mem = s.mem := by
  simp [State.shapeKeep]

@[simp] theorem State.dropTile_mem (s : State) (r : TileRun) : (s.dropTile r).mem = s.mem := by simp [State.dropTile]

/-! ### Sys2Proof/Machine/Bridles.lean -/

@[simp] theorem State.finishOp_mem (s : State) (id : Nat) (w : List RegWrite) (failed : Bool) : (s.finishOp id w failed).mem = s.mem := by
  unfold State.finishOp
  split <;> simp

@[simp] theorem State.opChange_mem (s : State) (id : Nat) (f : PendOp → PendOp) : (s.opChange id f).mem = s.mem := by
  unfold State.opChange
  split <;> simp

@[simp] theorem State.putBridle_mem (s : State) (h : BridleHome) (b : Bridle) : (s.putBridle h b).mem = s.mem := by
  unfold State.putBridle
  split <;> simp

@[simp] theorem State.bridleUpd_mem (s : State) (h : BridleHome) (u : BrUpd) (w : Option BrWaiter) : (s.bridleUpd h u w).mem = s.mem := by
  simp [State.bridleUpd]

@[simp] theorem State.releaseWaiters_mem (s : State) (ws : List (Bool × BrWaiter)) (st : Word) :
    (s.releaseWaiters ws st).mem = s.mem := by
  simp [State.releaseWaiters]

@[simp] theorem State.bridleEval_wf (s : State) (h : BridleHome) (hs : Memory.wf s.mem = true) :
    Memory.wf (s.bridleEval h).mem = true := by
  unfold State.bridleEval; dsimp only
  split
  · exact hs
  · refine foldl_wf _ _ _ (fun s u hu => ?_) ?_
    · split <;> simpa using hu
    · cases h <;> simp [hs]

@[simp] theorem State.cycle_wf (s : State) (hs : Memory.wf s.mem = true) : Memory.wf s.cycle.mem = true := by
  simp +contextual [State.cycle, hs]

/-! ### Sys2Proof/Machine/Sync.lean -/

@[simp] theorem State.fenceMark_mem (s : State) (k : Option (Bool × List Nat) → OpKind) : (s.fenceMark k).mem = s.mem := by
  simp [State.fenceMark]

theorem State.atomTile_memSat {Q : List Host.Cell → Prop} (s : State) (f : FmtA) (off : Nat) (hq : Q s.mem) :
    (s.atomTile f off).MemSat Q := by
  unfold State.atomTile; dsimp only; repeat' split
  all_goals simp [hq]

theorem State.atomVirt_memSat {Q : List Host.Cell → Prop} (s : State) (f : FmtA) (va : Nat) (hq : Q s.mem) :
    (s.atomVirt f va).MemSat Q := by
  unfold State.atomVirt; dsimp only; repeat' split
  all_goals simp [hq]

@[simp] theorem State.bridleSend_memSat (Q : List Host.Cell → Prop) (s : State) (hd : Handle) (tok : Option Nat) (d : Nat) (u : BrUpd)
    (scp : Nat) : (s.bridleSend hd tok d u scp).MemSat Q ↔ Q s.mem := by
  cases hd <;> simp [State.bridleSend]

theorem State.withHandle_memSat {Q : List Host.Cell → Prop} (s : State) (w : Word) (scp : Nat) (init : Bool) (k : Handle → Res)
    (hk : ∀ hd, (k hd).MemSat Q) : (s.withHandle w scp init k).MemSat Q := by
  unfold State.withHandle
  split <;> simp [hk]

@[simp] theorem brCountBad_memSat (Q : List Host.Cell → Prop) : brCountBad.MemSat Q := trivial

theorem State.bridleRead_memSat {Q : List Host.Cell → Prop} (s : State) (hd : Handle) (k : State → Res) (hq : Q s.mem)
    (hk : (k s).MemSat Q) : (s.bridleRead hd k).MemSat Q := by
  cases hd <;> simp [State.bridleRead, hq, hk]

@[simp] theorem State.watchAdd_mem (s : State) (idx : Nat) (exp : BitVec 32) (who : WatchWho) : (s.watchAdd idx exp who).mem = s.mem := by
  simp [State.watchAdd]

/-! ### Sys2Proof/Machine/Copies.lean -/

@[simp] theorem State.copyAccess_mem (s : State) (c : Nat) (ts phy : Bool) (w : Who) (pol : Nat) (wr : Bool) (l : List (Nat × TlbEnt)) :
    (s.copyAccess c ts phy w pol wr l).mem = s.mem := by
  simp [State.copyAccess]

@[simp] theorem State.copyBytes_mem (s : State) (c : Nat) (ts : Bool) (l : List (Nat × TlbEnt)) :
    (s.copyBytes c ts l).2.mem = s.mem := by
  induction l generalizing s with
  | nil => rfl
  | cons q l ih => simp [State.copyBytes, ih]

@[simp] theorem State.copyPut_wf (s : State) (c op desc : Nat) (ts : Bool) (l : List (Nat × TlbEnt)) (bs : List Byte)
    (hs : Memory.wf s.mem = true) : Memory.wf (s.copyPut c op desc ts l bs).mem = true := by
  unfold State.copyPut
  split
  · simpa using hs
  · exact s.writeAll_wf _ _ _ _ _ _ _ hs

@[simp] theorem State.overlapFree_mem (s : State) (p : CopyPkt) (a : Int) (bs : List Byte) :
    (s.overlapFree p a bs).2.mem = s.mem := by
  induction bs generalizing s a with
  | nil => rfl
  | cons b bs ih => simp [State.overlapFree, ih]

@[simp] theorem State.keepOld_mem (s : State) (c : Nat) (p : CopyPkt) (l : List (Nat × TlbEnt)) (g : CopyProg) :
    (s.keepOld c p l g).1.mem = s.mem := by
  simp [State.keepOld]

/-- A piece read in leaves memory alone. -/
theorem State.pieceIn_mem {s t : State} {c pol i : Nat} {p : CopyPkt} {w : Who} {g : CopyProg} {q : CopyPiece} {f : BitVec 6}
    (h : s.pieceIn c p w pol g i = .ok (q, f, t)) : t.mem = s.mem := by
  revert h
  unfold State.pieceIn; dsimp only; repeat' split
  all_goals simp
  rintro - - rfl
  simp

theorem State.pieceOut_wf {s t : State} {c pol : Nat} {op : PendOp} {p : CopyPkt} {w : Who} {g g' : CopyProg} {q : CopyPiece}
    (h : s.pieceOut c op p w pol g q = .ok (t, g')) (hs : Memory.wf s.mem = true) : Memory.wf t.mem = true := by
  revert h
  unfold State.pieceOut; dsimp only; split
  · simp
  · simp
  · simp only [Except.ok.injEq, Prod.mk.injEq]
    rintro ⟨rfl, -⟩
    rw [State.copyAccess_mem]
    split <;> simp [hs]

@[simp] theorem State.piecesIn_mem (s : State) (c : Nat) (p : CopyPkt) (w : Who) (pol : Nat) (is : List Nat) (g : CopyProg) (fl : Nat) :
    (s.piecesIn c p w pol is g fl).1.mem = s.mem := by
  induction is generalizing s g fl with
  | nil => rfl
  | cons i is ih =>
    unfold State.piecesIn
    split
    · rfl
    · next h => rw [ih, State.pieceIn_mem h]

@[simp] theorem State.piecesOut_wf (s : State) (c : Nat) (op : PendOp) (p : CopyPkt) (w : Who) (pol : Nat) (qs : List CopyPiece)
    (g : CopyProg) (hs : Memory.wf s.mem = true) : Memory.wf (s.piecesOut c op p w pol qs g).1.mem = true := by
  induction qs generalizing s g with
  | nil => exact hs
  | cons q qs ih =>
    unfold State.piecesOut
    split
    · exact hs
    · next h => exact ih _ _ (State.pieceOut_wf h hs)

@[simp] theorem State.copyUpd_mem (s : State) (c : Nat) (op : PendOp) (p : CopyPkt) (g : CopyProg) (u : BrUpd) :
    (s.copyUpd c op p g u).mem = s.mem := by
  unfold State.copyUpd; dsimp only; repeat' split
  all_goals simp

@[simp] theorem State.copyStopped_mem (s : State) (c : Nat) (op : PendOp) (w : Who) (x4 : Option CopyStop) :
    (s.copyStopped c op w x4).mem = s.mem := by
  unfold State.copyStopped; dsimp only; repeat' split
  all_goals simp

theorem State.copyLand_wf (s : State) (c : Nat) (op : PendOp) (w : Who) (first n : Nat) (hs : Memory.wf s.mem = true) :
    Memory.wf (s.copyLand c op w first n).mem = true := by
  unfold State.copyLand; dsimp only; repeat' split
  all_goals simp [hs]

@[simp] theorem State.copyFinish_mem (s : State) (c : Nat) (op : PendOp) : (s.copyFinish c op).mem = s.mem := by
  unfold State.copyFinish; dsimp only; repeat' split
  all_goals simp

/-! ### Sys2Proof/Machine/Matrix.lean -/

@[simp] theorem orBad_memSat (Q : List Host.Cell → Prop) (b : Option Bad) (k : Res) :
    (orBad b k).MemSat Q ↔ (b = none → k.MemSat Q) := by
  cases b <;> simp [orBad]

@[simp] theorem rowGate_memSat {Q : List Host.Cell → Prop} (s : State) (as : Nat) (x : StreamReg) (k : Res) (hk : k.MemSat Q) :
    (rowGate s as x k).MemSat Q := by
  simp [rowGate, hk]

theorem bankGate_memSat {Q : List Host.Cell → Prop} {h : Hdr} {bk : Nat} {k : State → State} {s : State} (hq : Q s.mem)
    (hk : Q (k s).mem) : Q (bankGate h bk k s).mem := by
  rcases bankGate_cases s h bk k with e | e <;> rw [e]
  · exact hq
  · exact hk

@[simp] theorem State.mcJoin_memSat (Q : List Host.Cell → Prop) (s : State) (f : FmtX) (role : Nat) (x : StreamReg)
    (rows : List VecVal) : (s.mcJoin f role x rows).MemSat Q ↔ Q s.mem := by
  simp [State.mcJoin]

@[simp] theorem State.mcFromSender_mem (s : State) (i g : Nat) : (s.mcFromSender i g).mem = s.mem := by
  unfold State.mcFromSender; dsimp only; repeat' split
  all_goals simp

@[simp] theorem State.mcFromBuffer_mem (s : State) (i g level node : Nat) : (s.mcFromBuffer i g level node).mem = s.mem := by
  unfold State.mcFromBuffer; dsimp only; repeat' split
  all_goals simp

@[simp] theorem State.mcLand_mem (s : State) (i g c : Nat) : (s.mcLand i g c).mem = s.mem := by
  unfold State.mcLand; dsimp only; repeat' split
  all_goals simp

/-! ### Sys2Proof/Machine/Area.lean -/

@[simp] theorem State.outRoom_memSat {Q : List Host.Cell → Prop} (s : State) (k : Res) (hk : k.MemSat Q) : (s.outRoom k).MemSat Q := by
  simp [State.outRoom, hk]

@[simp] theorem State.detachTok_mem (s : State) (t tid : Nat) : (s.detachTok t tid).mem = s.mem := by simp [State.detachTok]

@[simp] theorem State.joinColl_memSat (Q : List Host.Cell → Prop) (s : State) (code : Nat) (f : FmtS) (src : Nat) (dst : Reg)
    (val : VecVal) : (s.joinColl code f src dst val).MemSat Q ↔ Q s.mem := by
  simp [State.joinColl]

@[simp] theorem State.collPerform_mem (s : State) (i c k : Nat) : (s.collPerform i c k).mem = s.mem := by
  unfold State.collPerform; dsimp only
  split
  · simp
  · refine (foldl_mem _ _ _ fun s r => ?_).trans (by simp)
    split <;> simp

/-! ### Sys2Proof/Machine/Signals.lean -/

@[simp] theorem State.raiseBoth_mem (s : State) (v : Nat) : (s.raiseBoth v).mem = s.mem := by simp [State.raiseBoth]

@[simp] theorem State.sendPending_mem (s : State) (p : Port) : (s.sendPending p).mem = s.mem := by simp [State.sendPending]

@[simp] theorem State.logRefusal_mem (s : State) (a : HostAcc) (off : Nat) (write : Bool) : (s.logRefusal a off write).mem = s.mem := by
  simp [State.logRefusal]

@[simp] theorem State.queueError_mem (s : State) (q cause : Nat) : (s.queueError q cause).mem = s.mem := by
  simp [State.queueError]

@[simp] theorem State.softError_wf (s : State) (u : ErrUnit) (idx addr : Nat) (uncorrectable : Bool) (hs : Memory.wf s.mem = true) :
    Memory.wf (s.softError u idx addr uncorrectable).mem = true := by
  unfold State.softError; dsimp only
  split
  · exact foldl_wf _ _ _ (fun s p hp => by split <;> simpa using hp) (by simp [hs])
  · simp [hs]

/-! ### Sys2Proof/Machine/Faults.lean -/

@[simp] theorem State.writeFault_wf (s : State) (q : Nat) (e : FaultEnt) (hs : Memory.wf s.mem = true) :
    Memory.wf (s.writeFault q e).mem = true := by
  simp [State.writeFault, hs]

@[simp] theorem State.dropWaiter_wf (s : State) (w : Waiter) (hs : Memory.wf s.mem = true) :
    Memory.wf (s.dropWaiter w).mem = true :=
  foldl_wf _ _ _ (fun s _ hp => s.writeFault_wf _ _ hp) hs

@[simp] theorem State.dropVoiding_wf (s : State) (i : Nat) (hs : Memory.wf s.mem = true) :
    Memory.wf (s.dropVoiding i).mem = true :=
  foldl_wf _ _ _ (fun s _ hc => s.dropWaiter_wf _ hc) hs

@[simp] theorem State.faultWaiter_mem (s : State) (r : WalkAsk) (q : Nat) (w : Waiter) : (s.faultWaiter r q w).1.mem = s.mem := by
  unfold State.faultWaiter; dsimp only; repeat' split
  all_goals simp

@[simp] theorem State.faultWaiters_mem (s : State) (r : WalkAsk) (q : Nat) (ws : List Waiter) :
    (s.faultWaiters r q ws).1.mem = s.mem := by
  induction ws generalizing s with
  | nil => rfl
  | cons w ws ih => simp [State.faultWaiters, ih]

theorem State.reportFault_wf {s t : State} {r : WalkAsk} {asid gen kind lev epa : Nat} {ent : Word}
    (h : s.reportFault r asid gen kind lev ent epa = some t) (hs : Memory.wf s.mem = true) : Memory.wf t.mem = true := by
  revert h
  unfold State.reportFault; dsimp only; repeat' split
  all_goals simp
  all_goals rintro rfl
  all_goals simp [hs]

theorem State.reportFault_getD_wf {s : State} {r : WalkAsk} {asid gen kind lev epa : Nat} {ent : Word}
    (hs : Memory.wf s.mem = true) : Memory.wf ((s.reportFault r asid gen kind lev ent epa).getD s).mem = true := by
  cases h : s.reportFault r asid gen kind lev ent epa with
  | none => exact hs
  | some t => exact State.reportFault_wf h hs

@[simp] theorem State.hubFault_wf (s : State) (d va : Nat) (write : Bool) (w : Waiter) (hs : Memory.wf s.mem = true) :
    Memory.wf (s.hubFault d va write w).mem = true := by
  unfold State.hubFault
  split
  · exact hs
  · split
    · exact hs
    · simpa using hs
    · exact State.reportFault_getD_wf hs

@[simp] theorem State.keepTrail_mem (s : State) (die : Nat) (trail : List WalkEnt) : (s.keepTrail die trail).mem = s.mem := by
  simp [State.keepTrail]

@[simp] theorem State.keepAsks_mem (s : State) (k : Nat) (r : WalkReq) (asks : List WalkAsk) : (s.keepAsks k r asks).mem = s.mem := by
  simp [State.keepAsks]

@[simp] theorem State.dropLines_mem (s : State) (page : Nat) (w : Waiter) : (s.dropLines page w).mem = s.mem := by
  simp only [State.dropLines]; repeat' split
  all_goals simp

@[simp] theorem State.confirmAsk_wf (s : State) (r : WalkReq) (a : WalkAsk) (hs : Memory.wf s.mem = true) :
    Memory.wf (s.confirmAsk r a).1.mem = true := by
  unfold State.confirmAsk
  split
  · simpa using hs
  · simpa using hs
  · dsimp only; split
    · simpa using hs
    · split
      · simpa using hs
      · next hr => exact State.reportFault_wf hr (by simpa using hs)

@[simp] theorem State.confirmAsks_wf (s : State) (r : WalkReq) (asks : List WalkAsk) (hs : Memory.wf s.mem = true) :
    Memory.wf (s.confirmAsks r asks).1.mem = true := by
  induction asks generalizing s with
  | nil => exact hs
  | cons a asks ih => simp [State.confirmAsks, ih, hs]

@[simp] theorem State.unwatch_mem (s : State) (gone : WatchWho → Bool) : (s.unwatch gone).mem = s.mem := by
  simp [State.unwatch]

@[simp] theorem State.unbridle_mem (s : State) (ids : List Nat) : (s.unbridle ids).mem = s.mem := by simp [State.unbridle]

@[simp] theorem State.cancelGraphOps_mem (s : State) (ids : List Nat) : (s.cancelGraphOps ids).mem = s.mem := by
  simp [State.cancelGraphOps]

@[simp] theorem State.overCells_mem (s : State) (cs : List Nat) (f : Cell → Cell) : (s.overCells cs f).mem = s.mem := by
  simp [State.overCells]

@[simp] theorem State.cancelAsks_mem (s : State) (ids : List Nat) : (s.cancelAsks ids).mem = s.mem := by
  simp [State.cancelAsks]

@[simp] theorem State.cancelOps_mem (s : State) (i : Nat) (k : PendOp → Bool) : (s.cancelOps i k).mem = s.mem := by
  simp [State.cancelOps]

@[simp] theorem State.voidArea_mem (s : State) (i : Nat) : (s.voidArea i).mem = s.mem := by simp [State.voidArea]

@[simp] theorem State.stopArea_mem (s : State) (i : Nat) : (s.stopArea i).mem = s.mem := by simp [State.stopArea]

@[simp] theorem State.haltArea_mem (s : State) (i : Nat) : (s.haltArea i).mem = s.mem := by simp [State.haltArea]

theorem State.writeTrap_wf {s t : State} {d n : Nat} {mk : BitVec 32 → TrapRec} (h : s.writeTrap d mk = .ok (n, t))
    (hs : Memory.wf s.mem = true) : Memory.wf t.mem = true := by
  revert h
  unfold State.writeTrap; dsimp only; split
  · next hw =>
    simp only [Except.ok.injEq, Prod.mk.injEq]
    rintro ⟨-, rfl⟩
    simpa using State.hubWrite_wf hw hs
  · simp

@[simp] theorem State.voidFor_wf (s : State) (i c q : Nat) (hs : Memory.wf s.mem = true) :
    Memory.wf (s.voidFor i c q).mem = true := by
  unfold State.voidFor; dsimp only; repeat' split
  all_goals simp +contextual [hs]

@[simp] theorem State.rootTakes_wf (s : State) (i : Nat) (hs : Memory.wf s.mem = true) : Memory.wf (s.rootTakes i).mem = true := by
  unfold State.rootTakes; dsimp only; repeat' split
  · exact hs
  · exact hs
  · simp [hs]
  · simp [hs]
  · simp [hs]
  · next hw => simp [State.writeTrap_wf hw hs]

/-! ### Sys2Proof/Machine/Fabric.lean -/

@[simp] theorem State.feedIn_mem (s : State) (d h fuel : Nat) : (s.feedIn d h fuel).mem = s.mem := by
  induction fuel generalizing s with
  | zero => rfl
  | succ n ih =>
    unfold State.feedIn; dsimp only; repeat' split
    all_goals simp [ih]

@[simp] theorem State.putSeqr_mem (s : State) (die : Nat) (x : Seqr) : (s.putSeqr die x).mem = s.mem := by simp [State.putSeqr]

@[simp] theorem State.wakeSeqr_mem (s : State) (die : Nat) : (s.wakeSeqr die).mem = s.mem := by
  unfold State.wakeSeqr; dsimp only; repeat' split
  all_goals simp

@[simp] theorem State.feed_mem (s : State) (d h : Nat) : (s.feed d h).mem = s.mem := by simp [State.feed]

@[simp] theorem State.gdeliver_mem (s : State) (d h : Nat) (o : GOut) : (s.gdeliver d h o).mem = s.mem := by
  unfold State.gdeliver; dsimp only; repeat' split
  all_goals simp

@[simp] theorem State.gfinish_mem (s : State) (d h : Nat) (t : GTok) : (s.gfinish d h t).mem = s.mem := by
  unfold State.gfinish; dsimp only; repeat' split
  all_goals simp

@[simp] theorem State.stepGraph_mem (s : State) (d h : Nat) : (s.stepGraph d h).mem = s.mem := by
  unfold State.stepGraph; dsimp only; repeat' split
  all_goals simp

@[simp] theorem State.leavePlane_mem (s : State) (die : Nat) : (s.leavePlane die).mem = s.mem := by
  unfold State.leavePlane; dsimp only; repeat' split
  all_goals simp

@[simp] theorem State.tidyDie_mem (s : State) (die : Nat) : (s.tidyDie die).mem = s.mem := by simp [State.tidyDie]

@[simp] theorem State.freeGraph_mem (s : State) (d h : Nat) : (s.freeGraph d h).mem = s.mem := by simp [State.freeGraph]

@[simp] theorem State.fabricOut_mem (s : State) (b : Nat) : (s.fabricOut b).mem = s.mem := by simp [State.fabricOut]

@[simp] theorem State.slide_mem (s : State) (qs : List (Nat × Graph)) (a : Nat) : (s.slide qs a).mem = s.mem := by
  induction qs generalizing s a with
  | nil => rfl
  | cons q qs ih => simp [State.slide, ih]

@[simp] theorem State.setHold_mem (s : State) (die p : Nat) (on : Bool) : (s.setHold die p on).mem = s.mem := by
  simp [State.setHold]

@[simp] theorem State.evict_mem (s : State) (die p n : Nat) (qs : List (Nat × Graph)) : (s.evict die p n qs).mem = s.mem := by
  induction qs generalizing s with
  | nil => rfl
  | cons q qs ih => simp [State.evict, ih]

/-- What an allocation of sails answers has the memory it was asked in. -/
def Sails.MemIs (m : List Host.Cell) : Sails → Prop
  | .at _ t => t.mem = m
  | .wait t => t.mem = m
  | .full t => t.mem = m

theorem State.allocSails_mem (s : State) (die p bay n : Nat) : (s.allocSails die p bay n).MemIs s.mem := by
  unfold State.allocSails
  extract_lets tryIt free
  have htry (u : State) : (tryIt u).MemIs u.mem := by
    simp only [tryIt]; repeat' split
    all_goals simp [Sails.MemIs]
  have h1 := htry s
  split
  · next u hu =>
    rw [hu] at h1
    have h2 := htry ((u.evict die p n (u.planeOrder die p)).tidyDie die)
    dsimp only
    have hu : u.mem = s.mem := h1
    split <;> rename_i v hv <;> rw [hv] at h2 <;> simpa [Sails.MemIs, free, hu] using h2
  · next g u hu =>
    rw [hu] at h1
    simpa [Sails.MemIs, free] using h1
  · exact h1

@[simp] theorem State.fabRead_mem {s t : State} {b va n : Nat} {w : Who} {bs : List Byte} (h : s.fabRead b w va n = .ok (bs, t)) :
    t.mem = s.mem := by
  unfold State.fabRead at h
  cases hl : s.fabEnts b w false (upto va n) <;> rw [hl] at h <;> cases h
  simp

@[simp] theorem State.fabReads_mem {s t : State} {b : Nat} {w : Who} {xs : List (Nat × Nat × Nat)} {ys : List (Nat × Nat)}
    (h : s.fabReads b w xs = .ok (ys, t)) : t.mem = s.mem := by
  unfold State.fabReads at h
  cases hl : s.fabEnts b w false (xs.flatMap (fun x => upto x.2.1 x.2.2)) <;> rw [hl] at h <;> cases h
  simp

theorem State.fabWrite_wf {s t : State} {b c : Nat} {w : Who} {op : PendOp} {xs : List (Nat × List Byte)}
    (h : s.fabWrite b w c op xs = .ok t) (hs : Memory.wf s.mem = true) : Memory.wf t.mem = true := by
  unfold State.fabWrite at h; dsimp only at h
  generalize s.fabEnts b w true _ = r at h
  cases r <;> cases h
  exact State.writeAll_wf _ _ _ _ _ _ _ _ (by simpa using hs)

@[simp] theorem State.gldFail_mem (s : State) (c : Nat) (op : PendOp) (h plane dd : Nat) (b : GBad) :
    (s.gldFail c op h plane dd b).mem = s.mem := by
  simp [State.gldFail]

@[simp] theorem State.fabFault_mem (s : State) (c : Nat) (op : PendOp) : (s.fabFault c op).mem = s.mem := by
  unfold State.fabFault
  split <;> simp

@[simp] theorem State.fabStop_mem (s : State) (b : Nat) (w : Who) (wr : Bool) (c : Nat) (op : PendOp) (x6 : FabStop) :
    (s.fabStop b w wr c op x6).mem = s.mem := by
  unfold State.fabStop
  split <;> simp

@[simp] theorem State.gldPlace_mem (s : State) (c : Nat) (op : PendOp) (h plane : Nat) (va : Word) (dd : Nat) (bs : List Byte) :
    (s.gldPlace c op h plane va dd bs).mem = s.mem := by
  unfold State.gldPlace
  split
  · simp
  · next hd _ =>
    have ha := s.allocSails_mem (dieOf c) plane (bayOf c) hd.nsail
    split <;> rename_i t he <;> rw [he] at ha
    · simpa [Sails.MemIs] using ha
    · exact ha
    · split <;> simpa [Sails.MemIs] using ha

@[simp] theorem State.gldPerform_mem (s : State) (c : Nat) (op : PendOp) (w : Who) (h plane : Nat) (va : Word) (dd : Nat)
    (got : List (Nat × Nat)) (part : OpPart) : (s.gldPerform c op w h plane va dd got part).mem = s.mem := by
  unfold State.gldPerform
  split
  · rfl
  · dsimp only; split
    · simp
    · next hr => simp [State.fabReads_mem hr]

@[simp] theorem State.gldLoaded_mem (s : State) (d id : Nat) : (s.gldLoaded d id).mem = s.mem := by
  unfold State.gldLoaded
  split <;> simp

@[simp] theorem State.strEnter_mem (s : State) (c : Nat) (op : PendOp) (h : Nat) : (s.strEnter c op h).mem = s.mem := by
  unfold State.strEnter; dsimp only; repeat' split
  all_goals simp

@[simp] theorem State.strEnterAll_mem (s : State) (c id h fuel : Nat) : (s.strEnterAll c id h fuel).mem = s.mem := by
  induction fuel generalizing s with
  | zero => rfl
  | succ n ih => unfold State.strEnterAll; split <;> simp [ih]

@[simp] theorem State.strLeave_mem (s : State) (c : Nat) (op : PendOp) (h : Nat) : (s.strLeave c op h).mem = s.mem := by
  unfold State.strLeave; dsimp only; repeat' split
  all_goals simp

@[simp] theorem State.strLeaveAll_mem (s : State) (c id h fuel : Nat) : (s.strLeaveAll c id h fuel).mem = s.mem := by
  induction fuel generalizing s with
  | zero => rfl
  | succ n ih => unfold State.strLeaveAll; split <;> simp [ih]

@[simp] theorem State.gstrPerform_wf (s : State) (c : Nat) (op : PendOp) (w : Who) (part : OpPart) (hs : Memory.wf s.mem = true) :
    Memory.wf (s.gstrPerform c op w part).mem = true := by
  unfold State.gstrPerform; dsimp only
  split
  · split
    · exact hs
    · split
      · simpa using hs
      · next hw =>
        have hw := State.fabWrite_wf hw hs
        split
        · simpa using hw
        · next hr => simpa [State.fabReads_mem hr] using hw
  · exact hs

@[simp] theorem State.freeBytes_mem (s : State) (n : Nat) : (s.freeBytes n).2.mem = s.mem := by
  induction n generalizing s with
  | zero => rfl
  | succ n ih => simp [State.freeBytes, ih]

@[simp] theorem State.frzOf_mem (s : State) (g : Graph) (opst : List Byte) : (s.frzOf g opst).2.mem = s.mem := by
  unfold State.frzOf
  split <;> simp

@[simp] theorem State.freeStatus_mem (s : State) (c : Nat) (op : PendOp) (dd : Nat) : (s.freeStatus c op dd).mem = s.mem := by
  simp [State.freeStatus]

@[simp] theorem State.gfrzPerform_wf (s : State) (c : Nat) (op : PendOp) (w : Who) (h : Nat) (va : Word) (dd : Nat)
    (hs : Memory.wf s.mem = true) : Memory.wf (s.gfrzPerform c op w h va dd).mem = true := by
  unfold State.gfrzPerform; dsimp only; repeat' split
  · simpa using hs
  · simpa using hs
  · simpa using hs
  · next hw => simpa using State.fabWrite_wf hw (by simpa using hs)

@[simp] theorem State.gthawPerform_mem (s : State) (c : Nat) (op : PendOp) (w : Who) (h : Nat) (va : Word) (dd : Nat) :
    (s.gthawPerform c op w h va dd).mem = s.mem := by
  unfold State.gthawPerform; dsimp only
  split
  · simp
  · split
    · simp
    · split
      · simp
      · next h1 =>
        have h1 := State.fabRead_mem h1
        split
        · simp [h1]
        · split
          · simp [h1]
          · next h2 => simp [State.fabRead_mem h2, h1]

@[simp] theorem State.grelPerform_mem (s : State) (c : Nat) (op : PendOp) (h : Nat) : (s.grelPerform c op h).mem = s.mem := by
  simp [State.grelPerform]

@[simp] theorem gNOGRAPH_memSat (Q : List Host.Cell → Prop) : gNOGRAPH.MemSat Q := trivial

@[simp] theorem State.gjoin_mem (s : State) (d h tokens : Nat) : (s.gjoin d h tokens).mem = s.mem := by simp [State.gjoin]

@[simp] theorem State.gFreezeOp_memSat {Q : List Host.Cell → Prop} (s : State) (f : FmtG) (n : Nat) (k : Nat → Word → Nat → OpKind)
    (hq : Q s.mem) : (s.gFreezeOp f n k).MemSat Q := by
  simp [State.gFreezeOp, hq]

/-! ### Sys2Proof/Machine/Reel.lean -/

@[simp] theorem State.sendMsg_mem (s : State) (r ch : Nat) (p : Nat × Nat × Nat) (k : MsgKind) : (s.sendMsg r ch p k).mem = s.mem := by
  simp [State.sendMsg]

@[simp] theorem State.endGos_mem (s : State) (r ch : Nat) (failed : Bool) : (s.endGos r ch failed).mem = s.mem := by
  simp [State.endGos]

@[simp] theorem State.chanHalt_mem (s : State) (r ch ec : Nat) (tell : Bool) : (s.chanHalt r ch ec tell).mem = s.mem := by
  simp [State.chanHalt]

@[simp] theorem State.chanStop_mem (s : State) (r ch ec : Nat) : (s.chanStop r ch ec).mem = s.mem := by simp [State.chanStop]

@[simp] theorem State.chanNext_mem (s : State) (r ch pc : Nat) (post : Bool) : (s.chanNext r ch pc post).mem = s.mem := by
  unfold State.chanNext; dsimp only; repeat' split
  all_goals simp

@[simp] theorem State.putActing_mem (s : State) (c : Chan) : (s.putActing c).mem = s.mem := by simp [State.putActing]

@[simp] theorem State.stopActing_mem (s : State) (ec : Nat) : (s.stopActing ec).mem = s.mem := by simp [State.stopActing]

/-- Where the addresses of a channel's access do not all translate, memory stays. -/
theorem State.chanPas_mem {s t : State} {a : Int} {n : Nat} {write : Bool} (h : s.chanPas a n write = .error t) : t.mem = s.mem := by
  revert h
  unfold State.chanPas; repeat' split
  all_goals simp
  all_goals rintro rfl
  all_goals simp

@[simp] theorem State.chanKeep_mem (s : State) (a : Int) (n : Nat) (write : Bool) : (s.chanKeep a n write).mem = s.mem := by
  unfold State.chanKeep
  split <;> simp

theorem State.chanRead_mem {s t : State} {a : Int} (h : s.chanRead a = .error t) : t.mem = s.mem := by
  revert h
  unfold State.chanRead
  split
  · next hp => rintro ⟨⟩; exact State.chanPas_mem hp
  · split
    · rintro ⟨⟩; simp
    · simp

theorem State.chanWrite_wf {s t : State} {a : Int} {bs : List Byte} (h : s.chanWrite a bs = .ok t)
    (hs : Memory.wf s.mem = true) : Memory.wf t.mem = true := by
  unfold State.chanWrite at h
  split at h <;> cases h
  exact State.writeAll_wf _ _ _ _ _ _ _ _ (by simpa using hs)

theorem State.chanWrite_mem {s t : State} {a : Int} {bs : List Byte} (h : s.chanWrite a bs = .error t) : t.mem = s.mem := by
  unfold State.chanWrite at h
  split at h <;> cases h
  next hp => exact State.chanPas_mem hp

@[simp] theorem State.chanFlags_mem (s : State) (f : BitVec 6) : (s.chanFlags f).mem = s.mem := by simp [State.chanFlags]

@[simp] theorem State.chanRun_mem (s : State) (i : Instr) (body : State) (hb : body.mem = s.mem) : (s.chanRun i body).mem = s.mem := by
  simp [State.chanRun, hb]

theorem State.chanRun_wf (s : State) (i : Instr) (body : State) (hs : Memory.wf s.mem = true) (hb : Memory.wf body.mem = true) :
    Memory.wf (s.chanRun i body).mem = true := by
  simp [State.chanRun, hs, hb]

@[simp] theorem State.chanRetire_mem (s : State) (post : Bool) : (s.chanRetire post).mem = s.mem := by simp [State.chanRetire]

theorem State.withChunk_wf (s : State) (ca : BitVec 12) (red : Bool) (k : Chunk → State) (hs : Memory.wf s.mem = true)
    (hk : ∀ c, Memory.wf (k c).mem = true) : Memory.wf (s.withChunk ca red k).mem = true := by
  unfold State.withChunk
  split
  · exact hk _
  · exact hs
  · simpa using hs

@[simp] theorem State.openChunk_mem (s : State) (rk bytes : Nat) : (s.openChunk rk bytes).mem = s.mem := by
  simp [State.openChunk]

@[simp] theorem State.passGran_mem (s : State) (rk : Nat) (bs : List Byte) : (s.passGran rk bs).mem = s.mem := by
  simp [State.passGran]

@[simp] theorem State.closeChunk_mem (s : State) (rk : Nat) : (s.closeChunk rk).mem = s.mem := by simp [State.closeChunk]

@[simp] theorem State.giveCts_mem (s : State) (rks : List Nat) : (s.giveCts rks).mem = s.mem := by simp [State.giveCts]

@[simp] theorem State.commitChunk_mem (s : State) (rk : Nat) : (s.commitChunk rk).mem = s.mem := by simp [State.commitChunk]

@[simp] theorem State.openedAt_mem (s : State) (rk done : Nat) : (s.openedAt rk done).mem = s.mem := by simp [State.openedAt]

theorem State.chanWrites_wf {s t : State} {ws : List (Int × List Byte)} (h : s.chanWrites ws = .ok t)
    (hs : Memory.wf s.mem = true) : Memory.wf t.mem = true := by
  unfold State.chanWrites at h
  generalize ws.mapM (fun q => s.chanPas q.1 q.2.length true) = r at h
  cases r <;> cases h
  exact State.writeAll_wf _ _ _ _ _ _ _ _ (by simpa using hs)

theorem State.chanWrites_mem {s t : State} {ws : List (Int × List Byte)} (h : s.chanWrites ws = .error t) : t.mem = s.mem := by
  unfold State.chanWrites at h
  cases hp : ws.mapM (fun q => s.chanPas q.1 q.2.length true) <;> rw [hp] at h <;> cases h
  obtain ⟨q, -, hq⟩ := except_mapM_error hp
  exact State.chanPas_mem hq

@[simp] theorem State.landGran_wf (s : State) (k : Chunk) (e : RxMsg) (hs : Memory.wf s.mem = true) :
    Memory.wf (s.landGran k e).mem = true := by
  unfold State.landGran; dsimp only
  split
  · exact hs
  · split
    · next h => rwa [State.chanWrites_mem h]
    · next h => simpa using State.chanWrites_wf h hs

@[simp] theorem State.combineGran_wf (s : State) (k : Chunk) (rop : Nat) (e : RxMsg) (fwd : Option Nat)
    (hs : Memory.wf s.mem = true) : Memory.wf (s.combineGran k rop e fwd).mem = true := by
  unfold State.combineGran; dsimp only
  split
  · exact hs
  · split
    · next h => rwa [State.chanRead_mem h]
    · split
      · next h => rwa [State.chanWrite_mem h]
      · next h =>
        have h := State.chanWrite_wf h hs
        split <;> simpa using h

@[simp] theorem State.gather_mem (s : State) (a : Int) : (s.gather a).mem = s.mem := by
  unfold State.gather
  split
  · next h => exact State.chanRead_mem h
  · simp

@[simp] theorem State.blur_mem (s : State) (bs : List Byte) : (s.blur bs).2.mem = s.mem := by
  induction bs generalizing s with
  | nil => rfl
  | cons b bs ih => simp [State.blur, ih]

@[simp] theorem State.localCopy_wf (s : State) (ka kb : Chunk) (x : Option XfRec) (post : Bool) (hs : Memory.wf s.mem = true) :
    Memory.wf (s.localCopy ka kb x post).mem = true := by
  unfold State.localCopy; dsimp only
  split
  · simpa using hs
  · split
    · generalize hp : (if copyLaps ka.addr.toNat kb.addr.toNat x (ka.bytes / 16) = true then _ else _) = p
      have hm : Memory.wf p.2.mem = true := by rw [← hp]; simp [hs]
      obtain ⟨bs, t⟩ := p
      dsimp only; split
      · next h => rwa [State.chanWrite_mem h]
      · next h => simpa using State.chanWrite_wf h hm
    · simpa using hs

/-- Taking a message in leaves memory alone. -/
theorem State.arrival_mem {s t : State} {src : MsgSrc} {m : Msg} (h : s.arrival src = some (m, t)) : t.mem = s.mem := by
  revert h
  unfold State.arrival; repeat' split
  all_goals simp
  all_goals rintro - rfl
  all_goals rfl

@[simp] theorem State.duplicate_mem (t : State) (c : Chan) (m : Msg) (n : BitVec 32) : (t.duplicate c m n).mem = t.mem := by
  simp [State.duplicate]

theorem State.headArrives_mem (s t : State) (m : Msg) (n : BitVec 32) (bytes : Nat) (h : t.mem = s.mem) :
    (s.headArrives t m n bytes).mem = s.mem := by
  unfold State.headArrives; dsimp only; split <;> simp [h]

@[simp] theorem State.creditArrives_mem (s t : State) (m : Msg) (n : Nat) : (s.creditArrives t m n).mem = t.mem := by
  unfold State.creditArrives; dsimp only; split <;> simp

theorem State.partArrives_mem (s t : State) (m : Msg) (data : Option (List Byte)) (h : t.mem = s.mem) :
    (s.partArrives t m data).mem = s.mem := by
  unfold State.partArrives; dsimp only; repeat' split
  all_goals simp [h]

@[simp] theorem State.sendAgain_mem (s : State) (r ch : Nat) (p : Nat × Nat × Nat) (n : BitVec 32) (bytes : Nat) (data : List Byte)
    (whole : Bool) :
    (s.sendAgain r ch p n bytes data whole).mem = s.mem := by
  simp [State.sendAgain]

@[simp] theorem State.reelFail_mem (s : State) (r ch pc : Nat) : (s.reelFail r ch pc).mem = s.mem := by simp [State.reelFail]

@[simp] theorem State.rlloadGate_mem (s : State) (c : Nat) (op : PendOp) (r ch : Nat) (k : State) (hk : k.mem = s.mem) :
    (s.rlloadGate c op r ch k).mem = s.mem := by
  simp [State.rlloadGate, hk]

@[simp] theorem State.rlloadPerform_mem (s : State) (c : Nat) (op : PendOp) (r ch : Nat) (va : Word) :
    (s.rlloadPerform c op r ch va).mem = s.mem := by
  refine s.rlloadGate_mem c op r ch _ ?_
  dsimp only; repeat' split
  all_goals simp

@[simp] theorem State.rlgoPerform_mem (s : State) (c : Nat) (op : PendOp) (r ch : Nat) : (s.rlgoPerform c op r ch).mem = s.mem := by
  simp [State.rlgoPerform]

@[simp] theorem State.rlpostPerform_mem (s : State) (c : Nat) (op : PendOp) (r ch : Nat) (rc : List Byte) :
    (s.rlpostPerform c op r ch rc).mem = s.mem := by
  simp [State.rlpostPerform]

@[simp] theorem State.rlstatPerform_mem (s : State) (c : Nat) (op : PendOp) (dd r ch : Nat) :
    (s.rlstatPerform c op dd r ch).mem = s.mem := by
  simp [State.rlstatPerform]

@[simp] theorem State.rlloadFault_mem (s : State) (c : Nat) (op : PendOp) (r ch : Nat) : (s.rlloadFault c op r ch).mem = s.mem :=
  s.rlloadGate_mem c op r ch _ (by simp)

/-! ### Sys2Proof/Machine/Privileged.lean -/

@[simp] theorem State.dropTrans_mem (s : State) (asid : Nat) (gen : Option Nat) (lo hi : Nat) :
    (s.dropTrans asid gen lo hi).mem = s.mem := by
  simp [State.dropTrans]

@[simp] theorem State.tlbiIssue_memSat {Q : List Host.Cell → Prop} (s : State) (f : FmtA) (lo hi : Nat) (hq : Q s.mem) :
    (s.tlbiIssue f lo hi).MemSat Q := by
  simp [State.tlbiIssue, hq]

@[simp] theorem State.tlbiPerform_mem (s : State) (c : Nat) (op : PendOp) (lo hi asid gen : Nat) :
    (s.tlbiPerform c op lo hi asid gen).mem = s.mem := by
  simp [State.tlbiPerform]

@[simp] theorem State.ptstPerform_wf (s : State) (c : Nat) (op : PendOp) (pa : Nat) (v : Word) (hs : Memory.wf s.mem = true) :
    Memory.wf (s.ptstPerform c op pa v).mem = true := by
  simp [State.ptstPerform, hs]

@[simp] theorem State.asretPerform_mem (s : State) (c : Nat) (op : PendOp) (d : Nat) : (s.asretPerform c op d).mem = s.mem := by
  simp [State.asretPerform]

@[simp] theorem State.unpauseOp_mem (s : State) (id : Nat) : (s.unpauseOp id).mem = s.mem := by
  unfold State.unpauseOp
  split <;> simp

@[simp] theorem State.unstall_mem (s : State) (q : Nat) : (s.unstall q).mem = s.mem := by simp [State.unstall]

@[simp] theorem State.failStalls_mem (s : State) (q : Nat) (e : FaultEnt) : (s.failStalls q e).mem = s.mem := by
  simp [State.failStalls]

@[simp] theorem State.failOp_mem (s : State) (e : FaultEnt) (c : Nat) (o : PendOp) : (s.failOp e c o).mem = s.mem := by
  unfold State.failOp
  split <;> simp

@[simp] theorem State.failSaved_mem (s : State) (e : FaultEnt) (id : Nat) : (s.failSaved e id).mem = s.mem := by
  simp [State.failSaved]

@[simp] theorem State.failKept_mem (s : State) (d : Nat) : (s.failKept d).mem = s.mem := by
  refine (foldl_mem _ _ _ fun s f => ?_).trans (by simp)
  repeat' split
  all_goals simp

@[simp] theorem State.releaseWaiter_mem (s : State) (ok : Bool) (e : FaultEnt) (w : Waiter) : (s.releaseWaiter ok e w).mem = s.mem := by
  simp only [State.releaseWaiter]; repeat' split
  all_goals simp

@[simp] theorem State.settleVoids_wf (s : State) (q : Nat) (hs : Memory.wf s.mem = true) : Memory.wf (s.settleVoids q).mem = true := by
  refine foldl_wf _ _ _ (fun s w hw => ?_) hs
  split
  · dsimp only; split <;> simp [hw]
  · exact hw

@[simp] theorem State.faultDone_wf (s : State) (q : Nat) (ok : Bool) (hs : Memory.wf s.mem = true) :
    Memory.wf (s.faultDone q ok).mem = true := by
  simp [State.faultDone, hs]

theorem State.fltdone_memSat {Q : List Host.Cell → Prop} (s : State) (f : FmtA) (k : State → Nat → State) (hq : Q s.mem)
    (hk : ∀ q, Q (k s q).mem) : (s.fltdone f k).MemSat Q := by
  simp [State.fltdone, hq, hk]

/-! ### Sys2Proof/Machine/Row.lean -/

@[simp] theorem State.modBays_mem (s : State) (bs : List Nat) (f : Bay → Bay) : (s.modBays bs f).mem = s.mem := by
  simp [State.modBays]

@[simp] theorem State.report_mem (s : State) (bs : List Nat) : (s.report bs).mem = s.mem := by
  unfold State.report; dsimp only
  refine (foldl_mem _ _ _ fun s b => ?_).trans (by simp)
  rw [State.mem_ite]; simp

@[simp] theorem State.moveSyms_mem (s : State) (d : Nat) (f : Nat → Nat → Option (Nat × Nat)) : (s.moveSyms d f).mem = s.mem := by
  simp [State.moveSyms]

@[simp] theorem State.editSyms_mem (s : State) (d : Nat) (bs : List Nat) (f : SymAt → Option Word) : (s.editSyms d bs f).mem = s.mem := by
  simp [State.editSyms]

@[simp] theorem State.editAt_mem (s : State) (d : Nat) (e : List SymAt) (gone : Nat → Bool) (put : Nat → Option Word) :
    (s.editAt d e gone put).mem = s.mem := by
  simp [State.editAt]

@[simp] theorem State.enterGuards_mem (s : State) (d : Nat) : (s.enterGuards d).mem = s.mem := by simp [State.enterGuards]

@[simp] theorem State.pollGuards_mem (s : State) (d : Nat) : (s.pollGuards d).mem = s.mem := by
  simp [State.pollGuards]

@[simp] theorem State.applyCompl_mem (s : State) (d : Nat) (bs : List Nat) (x : Compl) : (s.applyCompl d bs x).mem = s.mem := by
  unfold State.applyCompl; dsimp only; repeat' split
  all_goals simp

@[simp] theorem State.applyCompls_mem (s : State) (d : Nat) (bs : List Nat) : (s.applyCompls d bs).mem = s.mem := by
  simp [State.applyCompls]

@[simp] theorem State.releaseAwaits_mem (s : State) (d : Nat) (bs : List Nat) (fuel : Nat) :
    (s.releaseAwaits d bs fuel).mem = s.mem := by
  induction fuel generalizing s with
  | zero => rfl
  | succ k ih =>
    unfold State.releaseAwaits; dsimp only; repeat' split
    all_goals simp [ih]

@[simp] theorem State.formPages_mem (s : State) : s.formPages.mem = s.mem := by
  unfold State.formPages
  split
  · rfl
  · refine foldl_mem _ _ _ fun s p => ?_
    dsimp only; split <;> simp

@[simp] theorem State.haltCtx_wf (s : State) (d : Nat) (hs : Memory.wf s.mem = true) : Memory.wf (s.haltCtx d).mem = true := by
  refine foldl_wf _ _ _ (fun s i hi => ?_) hs
  dsimp only; repeat' split
  all_goals simp [hi]

@[simp] theorem State.unpauseChans_mem (s : State) (d : Nat) : (s.unpauseChans d).mem = s.mem := by simp [State.unpauseChans]

@[simp] theorem State.thawGraphs_mem (s : State) (d : Nat) : (s.thawGraphs d).mem = s.mem := by simp [State.thawGraphs]

@[simp] theorem State.finishPre_mem (s : State) (op : Option (Nat × Nat)) : (s.finishPre op).mem = s.mem := by
  unfold State.finishPre
  split <;> simp

@[simp] theorem State.forget_wf (s : State) (d : Nat) (ids : List Nat) (chans : List (Nat × Nat)) (hs : Memory.wf s.mem = true) :
    Memory.wf (s.forget d ids chans).mem = true :=
  foldl_wf _ _ _ (fun s w hw => s.dropWaiter_wf w hw) (by simpa using hs)

@[simp] theorem State.dropHolds_mem (s : State) (d : Nat) : (s.dropHolds d).mem = s.mem := by
  unfold State.dropHolds; dsimp only
  refine (foldl_mem _ _ _ fun s p => by simp).trans (foldl_mem _ _ _ fun s q => ?_)
  split <;> simp

@[simp] theorem State.leavePre_wf (s : State) (d : Nat) (hs : Memory.wf s.mem = true) : Memory.wf (s.leavePre d).mem = true := by
  unfold State.leavePre; dsimp only; repeat' split
  all_goals simp [hs]

@[simp] theorem State.stopCtx_wf (s : State) (d : Nat) (why : Stop) (hs : Memory.wf s.mem = true) :
    Memory.wf (s.stopCtx d why).mem = true := by
  simp [State.stopCtx, hs]

@[simp] theorem State.rowFault_wf (s : State) (d sub : Nat) (hs : Memory.wf s.mem = true) :
    Memory.wf (s.rowFault d sub).mem = true := by
  unfold State.rowFault
  split
  · next h => simp [State.writeTrap_wf h hs]
  · simp [hs]

/-! ### Sys2Proof/Machine/Sweeps.lean -/

@[simp] theorem State.formArea_mem (s : State) (d : Nat) (app : List SymAt) : (s.formArea d app).mem = s.mem := by
  unfold State.formArea; dsimp only; repeat' split
  all_goals simp

@[simp] theorem State.formAreas_mem (s : State) (d : Nat) (bs : List Nat) : (s.formAreas d bs).mem = s.mem := by
  simp [State.formAreas]

@[simp] theorem State.makeRoom_mem (s : State) (c n fuel : Nat) : (s.makeRoom c n fuel).mem = s.mem := by
  induction fuel generalizing s with
  | zero => rfl
  | succ k ih =>
    unfold State.makeRoom; dsimp only; repeat' split
    all_goals simp [ih]

@[simp] theorem State.takeCode_mem (s : State) (i c : Nat) (t : Tag) : (s.takeCode i c t).mem = s.mem := by
  simp [State.takeCode]

@[simp] theorem State.arrive_mem (s : State) (i : Nat) : (s.arrive i).mem = s.mem := by simp [State.arrive]

@[simp] theorem State.partition1_mem (s : State) (bs : List Nat) : (s.partition1 bs).mem = s.mem := by
  simp [State.partition1]

@[simp] theorem State.checkRows_wf (s : State) (bs : List Nat) (hs : Memory.wf s.mem = true) : Memory.wf (s.checkRows bs).mem = true := by
  refine foldl_wf _ _ _ (fun s d hd => ?_) hs
  dsimp only; split <;> simp [hd]

@[simp] theorem State.partition2_mem (s : State) (bs : List Nat) : (s.partition2 bs).mem = s.mem := by simp [State.partition2]

@[simp] theorem State.partition_wf (s : State) (bs : List Nat) (hs : Memory.wf s.mem = true) : Memory.wf (s.partition bs).mem = true := by
  simp [State.partition, hs]

@[simp] theorem State.hubRoom_mem (s : State) (n fuel : Nat) : (s.hubRoom n fuel).mem = s.mem := by
  induction fuel generalizing s with
  | zero => rfl
  | succ k ih =>
    unfold State.hubRoom; repeat' split
    all_goals simp [ih]

@[simp] theorem State.refuseCode_mem (s : State) (i : Nat) : (s.refuseCode i).mem = s.mem := by simp [State.refuseCode]

@[simp] theorem State.deferArea_mem (s : State) (i : Nat) : (s.deferArea i).mem = s.mem := by simp [State.deferArea]

@[simp] theorem State.leaveCells_mem (s : State) (i : Nat) : (s.leaveCells i).mem = s.mem := by simp [State.leaveCells]

theorem State.spillRead_mem {s t : State} {d va b n : Nat} {bs : List Byte} (h : s.spillRead d va b n = some (bs, t)) :
    t.mem = s.mem := by
  unfold State.spillRead at h
  cases hl : s.hubEnts d false (upto va n) <;> rw [hl] at h <;> cases h
  simp

@[simp] theorem State.sysRefuse_mem (s : State) (i : Nat) (a : Area) (e : Nat) : (s.sysRefuse i a e).mem = s.mem := by
  simp [State.sysRefuse]

@[simp] theorem State.sysRestore_wf (s : State) (i : Nat) (a : Area) (hs : Memory.wf s.mem = true) :
    Memory.wf (s.sysRestore i a).mem = true := by
  unfold State.sysRestore; dsimp only; repeat' split
  · simpa using hs
  · simpa using hs
  · simpa using hs
  · simp [hs]
  · next h => simpa [State.spillRead_mem h] using hs

@[simp] theorem State.sysStart_wf (s : State) (i : Nat) (a : Area) (hs : Memory.wf s.mem = true) :
    Memory.wf (s.sysStart i a).mem = true := by
  unfold State.sysStart
  split <;> simp [hs]

/-! ### Sys2Proof/Machine/Landing.lean -/

@[simp] theorem State.landedStore_mem (s : State) (w : BufWrite) : (s.landedStore w).mem = s.mem := by simp [State.landedStore]

@[simp] theorem State.propagateAt_wf (s : State) (k : Nat) (hs : Memory.wf s.mem = true) : Memory.wf (s.propagateAt k).mem = true := by
  unfold State.propagateAt; repeat' split
  all_goals simp [hs, State.propagate_wf]

@[simp] theorem State.flushCtx_wf (s : State) (d fuel : Nat) (hs : Memory.wf s.mem = true) : Memory.wf
    (s.flushCtx d fuel).mem = true := by
  induction fuel generalizing s with
  | zero => exact hs
  | succ n ih =>
    unfold State.flushCtx; dsimp only; split
    · exact hs
    · exact ih _ (s.propagateAt_wf _ hs)

@[simp] theorem State.flushed_wf (s : State) (d : Nat) (hs : Memory.wf s.mem = true) : Memory.wf (s.flushed d).mem = true :=
  s.flushCtx_wf d _ hs

@[simp] theorem State.shiftRefs_mem (s : State) (d : Nat) (mine : Nat → Bool) (f : Nat → Nat) : (s.shiftRefs d mine f).mem = s.mem := by
  simp [State.shiftRefs]

/-! ### Sys2Proof/Machine/Preemption.lean -/

@[simp] theorem State.killChans_mem (s : State) (d : Nat) : (s.killChans d).mem = s.mem := by simp [State.killChans]

@[simp] theorem State.killFabric_mem (s : State) (d : Nat) : (s.killFabric d).mem = s.mem := by
  refine foldl_mem _ _ _ fun s q => ?_
  split <;> simp

@[simp] theorem State.killWaits_mem (s : State) (d : Nat) : (s.killWaits d).mem = s.mem := by simp [State.killWaits]

@[simp] theorem State.killCtx_wf (s : State) (d : Nat) (hs : Memory.wf s.mem = true) : Memory.wf (s.killCtx d).mem = true := by
  simp [State.killCtx, hs]

@[simp] theorem State.wakeSleepers_mem (s : State) (d : Nat) : (s.wakeSleepers d).mem = s.mem := by simp [State.wakeSleepers]

@[simp] theorem State.preempt_mem (s : State) (d : Nat) (force park : Bool) (op : Option (Nat × Nat)) :
    (s.preempt d force park op).mem = s.mem := by
  simp [State.preempt]

@[simp] theorem State.saveAsked_mem (s : State) (c : Nat) (op : PendOp) (d : Nat) (force : Bool) :
    (s.saveAsked c op d force).mem = s.mem := by
  unfold State.saveAsked; dsimp only; repeat' split
  all_goals simp

@[simp] theorem State.ctxsvPerform_wf (s : State) (c : Nat) (op : PendOp) (fn d : Nat) (hs : Memory.wf s.mem = true) :
    Memory.wf (s.ctxsvPerform c op fn d).mem = true := by
  unfold State.ctxsvPerform; repeat' split
  all_goals simp [hs]

@[simp] theorem State.ctxsvIssue_memSat {Q : List Host.Cell → Prop} (s : State) (f : FmtA) (fn : Nat) (bad : Nat → Option Nat)
    (hq : Q s.mem) : (s.ctxsvIssue f fn bad).MemSat Q := by
  unfold State.ctxsvIssue; dsimp only; split <;> simp [hq]

@[simp] theorem State.cutArea_wf (s : State) (i : Nat) (hs : Memory.wf s.mem = true) : Memory.wf (s.cutArea i).mem = true := by
  unfold State.cutArea; dsimp only; repeat' split
  all_goals simp [hs]

@[simp] theorem State.pauseChans_mem (s : State) (d : Nat) : (s.pauseChans d).mem = s.mem := by simp [State.pauseChans]

@[simp] theorem State.parkGraphs_mem (s : State) (d : Nat) : (s.parkGraphs d).mem = s.mem := by simp [State.parkGraphs]

@[simp] theorem State.cutCtx_wf (s : State) (d : Nat) (park : Bool) (op : Option (Nat × Nat)) (hs : Memory.wf s.mem = true) :
    Memory.wf (s.cutCtx d park op).mem = true := by
  unfold State.cutCtx; dsimp only
  have hr := foldl_wf State.rootTakes ((s.areas.filter (fun p => p.2.live && p.2.desc == d)).map (·.1)) s (fun s i => s.rootTakes_wf i) hs
  split
  · exact hr
  · simpa using foldl_wf State.cutArea _ _ (fun s i => s.cutArea_wf i) hr

@[simp] theorem State.saveImage_mem (s : State) (d : Nat) : (s.saveImage d).2.mem = s.mem := by simp [State.saveImage]

theorem State.hubWrites_wf {s t : State} {d base : Nat} {rs : List (Nat × List Byte)} (h : s.hubWrites d base rs = .ok t)
    (hs : Memory.wf s.mem = true) : Memory.wf t.mem = true := by
  induction rs generalizing s with
  | nil => cases h; exact hs
  | cons r rs ih =>
    unfold State.hubWrites at h
    split at h
    · cases h
    · next hw => exact ih h (State.hubWrite_wf hw hs)

@[simp] theorem State.releaseSpan_mem (s : State) (d : Nat) (park : Bool) (secs : List (List Byte)) :
    (s.releaseSpan d park secs).mem = s.mem := by
  simp [State.releaseSpan]

@[simp] theorem State.completeVoids_mem (s : State) (d : Nat) : (s.completeVoids d).mem = s.mem := by
  simp [State.completeVoids]

@[simp] theorem State.runAgain_mem (s : State) (i : Nat) : (s.runAgain i).mem = s.mem := by simp [State.runAgain]

@[simp] theorem State.wakeBays_mem (s : State) (d : Nat) : (s.wakeBays d).mem = s.mem := by simp [State.wakeBays]

@[simp] theorem State.goOn_mem (s : State) (d : Nat) : (s.goOn d).mem = s.mem := by simp [State.goOn]

@[simp] theorem scrubS_mem (m : BitVec 128) (q : AppCell × State) : (scrubS m q).2.mem = q.2.mem := by simp [scrubS]

@[simp] theorem scrubV_mem (m : BitVec 128) (q : AppCell × State) : (scrubV m q).2.mem = q.2.mem := by
  refine foldl_snd_mem _ _ _ fun q n => ?_
  rw [snd_mem_ite]
  simp only [State.free_mem, ite_self]

@[simp] theorem scrubK_mem (m : BitVec 128) (q : AppCell × State) : (scrubK m q).2.mem = q.2.mem := by simp [scrubK]

@[simp] theorem scrubM_mem (m : BitVec 128) (q : AppCell × State) : (scrubM m q).2.mem = q.2.mem := by simp [scrubM]

/-- Free values entered into a table one by one leave memory alone. -/
theorem foldl_tset_free_mem (w : Nat) (l : List Nat) (p : Tbl (BitVec w) × State) :
    (l.foldl (fun r k => (tset 0 r.1 k (r.2.free w).1, (r.2.free w).2)) p).2.mem = p.2.mem :=
  foldl_snd_mem _ _ _ fun r _ => State.free_mem r.2 w

@[simp] theorem scrubB_mem (m : BitVec 128) (q : AppCell × State) : (scrubB m q).2.mem = q.2.mem := by
  refine foldl_snd_mem _ _ _ fun q n => ?_
  rw [snd_mem_ite]
  simp only [foldl_tset_free_mem, State.free_mem, ite_self]

@[simp] theorem scrubA_mem (m : BitVec 128) (q : AppCell × State) : (scrubA m q).2.mem = q.2.mem := by simp [scrubA]

@[simp] theorem scrubT_mem (m : BitVec 128) (q : AppCell × State) : (scrubT m q).2.mem = q.2.mem := by simp [scrubT]

@[simp] theorem scrubX_mem (m : BitVec 128) (q : AppCell × State) : (scrubX m q).2.mem = q.2.mem := by simp [scrubX]

@[simp] theorem scrubSp_mem (q : AppCell × State) : (scrubSp q).2.mem = q.2.mem := by simp [scrubSp]

@[simp] theorem AppCell.scrub_mem (m : BitVec 128) (a : AppCell) (s : State) : (a.scrub m s).2.mem = s.mem := by
  simp [AppCell.scrub]

@[simp] theorem State.restoreCell_mem (s : State) (as : List SavedArea) (mine : Nat → Bool) (f : Nat → Nat) (q : Nat × Cell) :
    (s.restoreCell as mine f q).mem = s.mem := by
  simp [State.restoreCell]

@[simp] theorem AppCell.wild_mem (a : AppCell) (s : State) : (a.wild s).2.mem = s.mem := by simp [AppCell.wild]

@[simp] theorem State.restoreArea_mem (s : State) (f : Nat → Nat) (wild : Bool) (x : SavedArea) :
    (s.restoreArea f wild x).mem = s.mem := by
  simp [State.restoreArea]

/-- What a reload of a graph answers has the memory it was asked in. -/
def Reload.MemIs (m : List Host.Cell) : Reload → Prop
  | .ok t => t.mem = m
  | .wait t => t.mem = m
  | .miss _ => True
  | .bad => True

theorem State.reloadGraph_mem (s : State) (d h : Nat) (g : Graph) : (s.reloadGraph d h g).MemIs s.mem := by
  unfold State.reloadGraph; dsimp only
  split
  · trivial
  · split
    · trivial
    · split
      · trivial
      · split
        · trivial
        · next gh _ =>
          split
          · trivial
          · have ha := s.allocSails_mem g.die g.plane (g.sail0 / 16) gh.nsail
            split <;> rename_i he <;> rw [he] at ha
            · simpa [Reload.MemIs, Sails.MemIs] using ha
            · exact ha
            · trivial

@[simp] theorem State.reloadGraphs_wf (s : State) (d : Nat) (hs : List Nat) (hm : Memory.wf s.mem = true) :
    Memory.wf (s.reloadGraphs d hs).2.mem = true := by
  induction hs generalizing s with
  | nil => exact hm
  | cons h hs ih =>
    unfold State.reloadGraphs; dsimp only
    have hr := s.reloadGraph_mem d h (s.graphAt d h)
    split
    · exact ih s hm
    · split
      · next t he =>
        rw [he] at hr
        exact ih t (hr ▸ hm)
      · next t he =>
        rw [he] at hr
        exact hr ▸ hm
      · simp [hm]
      · exact ih _ (by simpa using hm)

@[simp] theorem State.settleGraphs_mem (s : State) (d : Nat) : (s.settleGraphs d).mem = s.mem := by
  refine foldl_mem _ _ _ fun s p => ?_
  dsimp only; split
  · rw [State.freeGraph_mem]
    refine foldl_mem _ _ _ fun s q => ?_
    split <;> simp
  · simp

@[simp] theorem State.wildChans_mem (s : State) (d : Nat) : (s.wildChans d).mem = s.mem := by simp [State.wildChans]

@[simp] theorem State.thawBack_mem (s : State) (d : Nat) (l : List (Nat × List Byte)) : (s.thawBack d l).mem = s.mem := by
  simp [State.thawBack]

@[simp] theorem State.unholdFor_mem (s : State) (d : Nat) : (s.unholdFor d).mem = s.mem := by simp [State.unholdFor]

@[simp] theorem State.comeBack_mem (s : State) (d st : Nat) (e : EnvBack) : (s.comeBack d st e).mem = s.mem := by
  simp [State.comeBack]

@[simp] theorem State.resumeAt_wf (s : State) (d st : Nat) (hs : Memory.wf s.mem = true) : Memory.wf (s.resumeAt d st).mem = true := by
  unfold State.resumeAt; dsimp only
  split
  · simp [hs]
  · split
    · split
      · simp [hs]
      · next h => simp [State.writeTrap_wf h hs]
    · split
      · simp [hs]
      · simp [hs]

/-! ### Sys2Proof/Machine/Layout.lean -/

@[simp] theorem State.growth_mem (s : State) (d : Nat) (l : List PSym) : (s.growth d l).1.mem = s.mem := by
  unfold State.growth; dsimp only; repeat' split
  all_goals simp

theorem State.spillWrite_wf {s t : State} {d b va : Nat} {bs : List Byte} (h : s.spillWrite d b va bs = some t)
    (hs : Memory.wf s.mem = true) : Memory.wf t.mem = true := by
  unfold State.spillWrite at h
  cases hl : s.hubEnts d true (upto va bs.length) <;> rw [hl] at h <;> cases h
  exact State.writeAll_wf _ _ _ _ _ _ _ _ (by simpa using hs)

theorem State.closeRun_wf {s src : State} {d a z : Nat} {l : List PSym} {y : Spilled} (h : s.closeRun d src l a z = .ok y)
    (hs : Memory.wf s.mem = true) : Memory.wf y.st.mem = true := by
  revert h
  unfold State.closeRun; dsimp only; repeat' split
  · simp
  · simp
  · next hw =>
    rintro ⟨⟩
    simpa using State.spillWrite_wf hw hs

/-- A run that cannot be closed does not end the spill well. -/
theorem State.closeRun_not_done {s src : State} {d a z : Nat} {l l' : List PSym} {e : SpillEnd} {y : Spilled} {rs : List (Nat × Nat)}
    (h : s.closeRun d src l a z = .error e) : ¬e = .done y l' rs := by
  revert h
  unfold State.closeRun; dsimp only; repeat' split
  · rintro ⟨⟩; simp
  · rintro ⟨⟩; simp
  · simp

/-- Where a spill ends well, its state keeps memory canonical. -/
theorem State.spill_wf {s : State} {d fuel p : Nat} {r : Reach} {test : List PSym → Option (List PSym × List (Nat × Nat))}
    {x y : Spilled} {run : Option (Nat × Nat)} {l : List PSym} {rs : List (Nat × Nat)}
    (h : s.spill d r test fuel x p run = .done y l rs) (hx : Memory.wf x.st.mem = true) : Memory.wf y.st.mem = true := by
  induction fuel generalizing x p run with
  | zero => cases h
  | succ n ih =>
    unfold State.spill at h
    split at h
    · cases h
    · next q =>
      extract_lets l' no take b at h
      clear_value take b
      cases take with
      | some a =>
        dsimp only at h
        split at h
        · split at h
          · next hc => exact absurd h (State.closeRun_not_done hc)
          · next hc =>
            split at h <;> cases h
            exact State.closeRun_wf hc hx
        · exact ih h hx
      | none =>
        cases run with
        | none => exact ih h hx
        | some ab =>
          dsimp only at h
          split at h
          · next hc => exact absurd h (State.closeRun_not_done hc)
          · next hc => exact ih h (State.closeRun_wf hc hx)

/-! ### Sys2Proof/Machine/Storage.lean -/

@[simp] theorem State.settle_mem (t s : State) (d : Nat) (is : List Nat) (r : Reach) (l : List PSym) :
    (t.settle s d is r l).mem = t.mem := by
  unfold State.settle
  rw [State.moveSyms_mem]
  exact foldl_mem _ _ _ fun t c => rfl

@[simp] theorem State.freeRestored_mem (s : State) (d : Nat) (is : List Nat) : (s.freeRestored d is).mem = s.mem := by
  refine foldl_mem _ _ _ fun s i => ?_
  dsimp only; split <;> simp

/-- Where a store of phase S succeeds, memory is canonical. -/
def Stored.Wf : Stored → Prop
  | .ok (t, _, _) => Memory.wf t.mem = true
  | .error _ => True

theorem State.finishS_wf (s : State) (d : Nat) (is : List Nat) (r : Reach) (x : Spilled) (l : List PSym) (rs : List (Nat × Nat))
    (hx : Memory.wf x.st.mem = true) : Stored.Wf (s.finishS d is r x l rs) := by
  unfold State.finishS; dsimp only
  split <;> simpa [Stored.Wf] using hx

theorem State.storeCtx_wf (s : State) (d : Nat) (bs is : List Nat) (hs : Memory.wf s.mem = true) : Stored.Wf (s.storeCtx d bs is) := by
  unfold State.storeCtx; dsimp only
  split
  · exact hs
  · split
    · exact State.finishS_wf _ _ _ _ _ _ _ (by simpa using hs)
    · generalize hg : State.growth _ d _ = p
      have hm : Memory.wf p.1.mem = true := by rw [← hg]; simpa using hs
      obtain ⟨g, strands⟩ := p
      dsimp only; split
      · exact State.finishS_wf _ _ _ _ _ _ _ hm
      · split
        · next h => exact State.finishS_wf _ _ _ _ _ _ _ (State.spill_wf h hm)
        · trivial
        · split
          · next h => simp [Stored.Wf, State.writeTrap_wf h hm]
          · trivial

theorem State.storeCtxs_wf {s t : State} {bs is ds : List Nat} {m : List (Nat × Nat × Nat)} {f : Bool}
    (h : s.storeCtxs bs is ds = .ok (t, m, f)) (hs : Memory.wf s.mem = true) : Memory.wf t.mem = true := by
  induction ds generalizing s t m f with
  | nil => cases h; exact hs
  | cons d ds ih =>
    have h1 := s.storeCtx_wf d bs is hs
    unfold State.storeCtxs at h
    split at h
    · cases h
    · next hd =>
      rw [hd] at h1
      split at h <;> cases h
      next hds => exact ih hds h1

@[simp] theorem State.fence_mem (s : State) (bs : List Nat) (f : Nat × Nat × Nat) : (s.fence bs f).mem = s.mem := by
  simp [State.fence]

@[simp] theorem State.dropServed_mem (s : State) (bs is : List Nat) : (s.dropServed bs is).mem = s.mem := by
  simp [State.dropServed]

/-! ### Sys2Proof/Machine/Retirement.lean -/

theorem State.hubPut_wf {s t : State} {d va : Nat} {bs : List Byte} (h : s.hubPut d va bs = .ok t) (hs : Memory.wf s.mem = true) :
    Memory.wf t.mem = true := by
  unfold State.hubPut at h
  split at h
  · cases h
  · cases h
    exact s.hubWrite_getD_wf d va bs hs

@[simp] theorem State.failDependents_wf (s : State) (q : Nat) (seq : BitVec 32) (status : Nat) (hs : Memory.wf s.mem = true) :
    Memory.wf (s.failDependents q seq status).mem = true := by
  unfold State.failDependents
  split
  · exact hs
  · exact foldl_wf _ _ _ (fun s p hp => by simp [hp]) hs

@[simp] theorem State.launchRetired_wf (s : State) (q : Nat) (seq : BitVec 32) (status : Nat) (hs : Memory.wf s.mem = true) :
    Memory.wf (s.launchRetired q seq status).mem = true := by
  simp [State.launchRetired, hs]

@[simp] theorem State.notify_wf (s : State) (l : Launch) (hs : Memory.wf s.mem = true) : Memory.wf (s.notify l).mem = true := by
  simp [State.notify, hs]

@[simp] theorem State.consumeHead_wf (s : State) (q : Nat) (seq : BitVec 32) (status : Nat) (hs : Memory.wf s.mem = true) :
    Memory.wf (s.consumeHead q seq status).mem = true := by
  simp [State.consumeHead, hs]

@[simp] theorem State.refuseNow_wf (s : State) (q : Nat) (hs : Memory.wf s.mem = true) : Memory.wf (s.refuseNow q).mem = true := by
  unfold State.refuseNow; dsimp only
  split
  · next l st _ _ =>
    have hfin (t : State) (ht : Memory.wf t.mem = true) : Memory.wf ((t.notify l).consumeHead q l.seq st).mem = true := by
      simp [ht]
    split
    · exact hfin _ hs
    · split
      · exact hfin _ (by simpa using hs)
      · split
        · exact hfin _ (by simpa using hs)
        · simp [hs]
        · exact hfin _ (s.hubWrite_getD_wf _ _ _ hs)
  · exact hs

@[simp] theorem State.refuse_wf (s : State) (q status : Nat) (hs : Memory.wf s.mem = true) : Memory.wf
    (s.refuse q status).mem = true := by
  simp [State.refuse, hs]

@[simp] theorem State.writeResult_wf (s : State) (d : Nat) (hs : Memory.wf s.mem = true) : Memory.wf (s.writeResult d).mem = true := by
  unfold State.writeResult
  extract_lets c x none_ at'
  have hn : Memory.wf (none_ s).mem = true := by simpa [none_] using hs
  clear_value c x none_ at'
  split
  · exact hs
  · split
    · exact hn
    · generalize State.resultImage s d _ = img
      obtain ⟨bs, cut, n⟩ := img
      dsimp only; split
      · exact hn
      · simp [hs]
      · next h => rw [State.modCtx_mem]; exact State.hubPut_wf h hs

@[simp] theorem foldl_putChan_mem (s : State) (l : List (Nat × Nat)) (c : Chan) :
    (l.foldl (fun s p => s.putChan p.1 p.2 c) s).mem = s.mem := foldl_mem _ _ _ fun _ _ => rfl

@[simp] theorem State.releaseCtx_wf (s : State) (d : Nat) (hs : Memory.wf s.mem = true) : Memory.wf (s.releaseCtx d).mem = true := by
  unfold State.releaseCtx; dsimp only
  rw [State.modDesc_mem, State.putCtx_mem, State.dropShapes_mem, State.mem_ite, ite_self]
  generalize hu : State.unwatch (State.forget _ _ _ _) _ = u
  have hw : Memory.wf u.mem = true := by
    rw [← hu, State.unwatch_mem]
    refine State.forget_wf _ _ _ _ ?_
    rw [foldl_putChan_mem]
    simpa using hs
  split
  · rw [State.finishOp_mem]; exact hw
  · exact hw

@[simp] theorem State.writeRecord_wf (s : State) (d : Nat) (hs : Memory.wf s.mem = true) : Memory.wf (s.writeRecord d).mem = true := by
  unfold State.writeRecord; dsimp only
  split
  · next l _ _ =>
    have hfin (t : State) (ht : Memory.wf t.mem = true) :
        Memory.wf (((t.notify l).launchRetired l.q l.seq (s.ctxAt d).outcome.1).releaseCtx d).mem = true :=
      State.releaseCtx_wf _ _ (State.launchRetired_wf _ _ _ _ (State.notify_wf _ _ ht))
    split
    · exact hfin _ hs
    · split
      · exact hfin _ (by simpa using hs)
      · split
        · exact hfin _ (by simpa using hs)
        · simp [hs]
        · next h => exact hfin _ (State.hubPut_wf h hs)
  · simp [hs]
  · exact hs

/-! ### Sys2Proof/Machine/Launch.lean -/

@[simp] theorem State.takeHead_mem (s : State) (q : Nat) (l : Launch) (stage : Stage) (expect : Option (BitVec 32)) :
    (s.takeHead q l stage expect).mem = s.mem := by
  simp [State.takeHead]

@[simp] theorem State.flushNext_wf (s : State) (q : Nat) (hs : Memory.wf s.mem = true) : Memory.wf (s.flushNext q).mem = true := by
  unfold State.flushNext; dsimp only; split <;> simp [hs]

@[simp] theorem State.flushRun_wf (s : State) (q fuel : Nat) (hs : Memory.wf s.mem = true) : Memory.wf
    (s.flushRun q fuel).mem = true := by
  induction fuel generalizing s with
  | zero => exact hs
  | succ n ih =>
    unfold State.flushRun; dsimp only; repeat' split
    all_goals simp [hs, ih]

@[simp] theorem State.watchFlags_mem (s : State) (q : Nat) (l : Launch) : (s.watchFlags q l).mem = s.mem := by
  simp [State.watchFlags]

/-! ### Sys2Proof/Machine/Allocator.lean -/

theorem State.loadSects_wf {s t : State} {d : Nat} {im : Image} {xs : List Sect} (h : s.loadSects d im xs = .ok t)
    (hs : Memory.wf s.mem = true) : Memory.wf t.mem = true := by
  induction xs generalizing s with
  | nil => cases h; exact hs
  | cons x xs ih =>
    unfold State.loadSects at h
    split at h
    · obtain ⟨bs, -, h⟩ := except_bind_ok h
      split at h
      · cases h
      · cases h
      · next hp => exact ih h (State.hubPut_wf hp hs)
    · exact ih h hs

@[simp] theorem State.dropCode_mem (s : State) (d : Nat) : (s.dropCode d).mem = s.mem := by simp [State.dropCode]

@[simp] theorem State.freshBays_mem (s : State) (d : Nat) : (s.freshBays d).mem = s.mem := by simp [State.freshBays]

theorem State.layOut_wf {s t : State} {d : Nat} {l : List PSym} (h : s.layOut d l = .ok t) (hs : Memory.wf s.mem = true) :
    Memory.wf t.mem = true := by
  unfold State.layOut at h
  extract_lets whole r g r' at h
  clear_value whole r r'
  have hg : Memory.wf (s.growth d l).1.mem = true := by rw [State.growth_mem]; exact hs
  split at h
  · cases h
    rw [State.settle_mem]; exact hs
  · split at h
    · cases h
      rw [State.settle_mem]; exact hg
    · split at h
      · next hsp =>
        rw [← Except.ok.inj h, State.settle_mem]; exact State.spill_wf hsp hg
      · cases h
      · split at h
        · next hw =>
          cases h
          exact State.stopCtx_wf _ _ _ (State.writeTrap_wf hw hg)
        · cases h

theorem State.place_wf {s t : State} {q st : Nat} {l : Launch} {im : Image} (h : s.place q l im st = .ok t)
    (hs : Memory.wf s.mem = true) : Memory.wf t.mem = true := by
  unfold State.place at h
  obtain ⟨ys, -, h⟩ := except_bind_ok h
  obtain ⟨t1, h1, h⟩ := except_bind_ok h
  obtain ⟨t2, h2, h⟩ := except_bind_ok h
  cases h
  have hw := State.layOut_wf h2 (by simpa using State.loadSects_wf h1 hs)
  split
  · rw [foldl_mem _ _ _ fun t e => by split <;> simp]
    simpa using hw
  · simpa using hw

@[simp] theorem State.grant_wf (s : State) (r : Request) (hs : Memory.wf s.mem = true) : Memory.wf (s.grant r).mem = true := by
  cases r with
  | place q l im =>
    unfold State.grant; dsimp only
    split
    · simp [hs]
    · split
      · exact hs
      · split
        · next h => simp [State.place_wf h hs, hs]
        · simp [hs]
        · simp [hs]
  | grow d n =>
    unfold State.grant; dsimp only
    split <;> simpa using hs
  | resume d =>
    unfold State.grant; dsimp only
    split <;> simp [hs]

@[simp] theorem State.dropMoved_mem (s : State) (f : Nat → Nat) (cs : List Nat) : (s.dropMoved f cs).mem = s.mem := by
  refine foldl_mem _ _ _ fun s c => ?_
  split
  · rfl
  · refine foldl_mem _ _ _ fun s o => ?_
    split <;> simp

@[simp] theorem State.relocate_mem (s : State) (d st : Nat) : (s.relocate d st).mem = s.mem := by simp [State.relocate]

/-! ### Sys2Proof/Machine/HostAccess.lean -/

@[simp] theorem State.slotWrite_mem (s : State) (q slot off : Nat) (data : List Byte) : (s.slotWrite q slot off data).mem = s.mem := by
  simp [State.slotWrite]

@[simp] theorem State.clearErrv_mem (s : State) (q : Nat) : (s.clearErrv q).mem = s.mem := by simp [State.clearErrv]

@[simp] theorem State.flushQueue_wf (s : State) (q : Nat) (hs : Memory.wf s.mem = true) : Memory.wf (s.flushQueue q).mem = true := by
  simp [State.flushQueue, hs]

@[simp] theorem State.putSem_mem (s : State) (n : Nat) (x : Sem) : (s.putSem n x).mem = s.mem := by simp [State.putSem]

@[simp] theorem State.semRead_mem (s : State) (a : HostAcc) (n : Nat) : (s.semRead a n).mem = s.mem := by simp [State.semRead]

@[simp] theorem State.semWrite_mem (s : State) (a : HostAcc) (n : Nat) (force : Bool) : (s.semWrite a n force).mem = s.mem := by
  simp [State.semWrite]

@[simp] theorem State.bindAsid_mem (s : State) (a d : Nat) : (s.bindAsid a d).mem = s.mem := by simp [State.bindAsid]

@[simp] theorem State.asbindWrite_mem (s : State) (v : Word) : (s.asbindWrite v).mem = s.mem := by simp [State.asbindWrite]

@[simp] theorem State.ctxkillWrite_wf (s : State) (v : Word) (hs : Memory.wf s.mem = true) : Memory.wf (s.ctxkillWrite v).mem = true := by
  unfold State.ctxkillWrite; dsimp only; repeat' split
  all_goals simp [hs]

@[simp] theorem State.clearErrlog_mem (s : State) (p : Port) : (s.clearErrlog p).mem = s.mem := by simp [State.clearErrlog]

@[simp] theorem State.logCap_mem (s : State) (a : HostAcc) : (s.logCap a).mem = s.mem := by simp [State.logCap]

@[simp] theorem State.pcapWrite_mem (s : State) (a : HostAcc) (v : Word) : (s.pcapWrite a v).mem = s.mem := by
  simp [State.pcapWrite]

@[simp] theorem State.attestAsk_mem (s : State) : s.attestAsk.mem = s.mem := by simp [State.attestAsk]

@[simp] theorem State.attestWrite_mem (s : State) (o : Nat) (v : Word) : (s.attestWrite o v).mem = s.mem := by
  simp [State.attestWrite]

@[simp] theorem State.attestRead_mem (s : State) (o : Nat) : (s.attestRead o).mem = s.mem := by simp [State.attestRead]

@[simp] theorem State.qctlWrite_wf (s : State) (q : Nat) (v : Word) (hs : Memory.wf s.mem = true) :
    Memory.wf (s.qctlWrite q v).mem = true := by
  unfold State.qctlWrite; dsimp only; split <;> simp [hs]

@[simp] theorem State.regRead_mem (s : State) (a : HostAcc) (p : Place) : (s.regRead a p).mem = s.mem := by
  unfold State.regRead
  split <;> simp

@[simp] theorem State.regWrite_wf (s : State) (a : HostAcc) (off : Nat) (p : Place) (v : Word) (hs : Memory.wf s.mem = true) :
    Memory.wf (s.regWrite a off p v).mem = true := by
  cases p <;> simp [State.regWrite, hs]

@[simp] theorem State.maryonRead_mem (s : State) (off : Nat) : (s.maryonRead off).mem = s.mem := by simp [State.maryonRead]

@[simp] theorem State.maryonWrite_mem (s : State) (a : HostAcc) (off : Nat) (v : Word) : (s.maryonWrite a off v).mem = s.mem := by
  simp [State.maryonWrite]

/-! ### Sys2Proof/Machine/Module.lean -/

@[simp] theorem State.peerRequest_wf (s : State) (r : PeerReq) (hs : Memory.wf s.mem = true) : Memory.wf
    (s.peerRequest r).mem = true := by
  unfold State.peerRequest; dsimp only; repeat' split
  all_goals simp [hs]

@[simp] theorem State.countError_mem (s : State) (c : Nat) : (s.countError c).mem = s.mem := by simp [State.countError]

@[simp] theorem State.condemn_mem (s : State) (c : Nat) : (s.condemn c).mem = s.mem := by simp [State.condemn]

@[simp] theorem State.rowHit_wf (s : State) (c : Nat) (hs : Memory.wf s.mem = true) : Memory.wf (s.rowHit c).mem = true := by
  unfold State.rowHit; repeat' split
  all_goals simp [hs]

@[simp] theorem State.appHit_wf (s : State) (c : Nat) (hs : Memory.wf s.mem = true) : Memory.wf (s.appHit c).mem = true := by
  simp [State.appHit, hs]

/-- A cold start keeps the bytes of host and peer memory, and no others. -/
theorem State.afterReset_wf (s : State) (hs : Memory.wf s.mem = true) : Memory.wf s.afterReset.mem = true :=
  tcanonFrom_filter 0 s.mem 0 _ hs

@[simp] theorem State.pagerDesc_mem (s : State) : s.pagerDesc.mem = s.mem := by simp [State.pagerDesc]

@[simp] theorem State.loadPager_wf (s : State) (img : Option Image) (hs : Memory.wf s.mem = true) :
    Memory.wf (s.loadPager img).mem = true := by
  unfold State.loadPager; dsimp only
  split
  · next h =>
    rw [State.freshBays_mem]
    refine State.layOut_wf h ?_
    rw [foldl_snd_mem _ _ _ fun p w => by split <;> simp]
    simpa using hs
  · rw [State.freshBays_mem, foldl_snd_mem _ _ _ fun p w => by split <;> simp]
    simpa using hs

@[simp] theorem State.bringUp_wf (s : State) (es : List ManEntry) (dig : BitVec 256) (hs : Memory.wf s.mem = true) :
    Memory.wf (s.bringUp es dig).mem = true := by
  simp [State.bringUp, hs]

/-! ### Sys2Proof/Machine/Perform.lean -/

@[simp] theorem State.opEnd_mem (s : State) (c : Nat) (o : PendOp) (ff : BitVec 6) : (s.opEnd c o ff).mem = s.mem := by
  simp [State.opEnd]

@[simp] theorem State.opGone_mem (s : State) (c : Nat) (o : PendOp) (ff : BitVec 6) : (s.opGone c o ff).mem = s.mem := by
  simp [State.opGone]

@[simp] theorem State.refill_mem (s : State) (c : Nat) (o : PendOp) (gather : Bool) (l : List (Nat × TlbEnt)) :
    (s.refill c o gather l).mem = s.mem := by
  unfold State.refill
  split <;> simp

@[simp] theorem State.missed_mem (s : State) (c : Nat) (o : PendOp) (va : Nat) (write : Bool) (src : FaultSrc) :
    (s.missed c o va write src).mem = s.mem := by
  simp [State.missed]

@[simp] theorem State.missedOf_mem (s : State) (c : Nat) (o : PendOp) (ent : Option TlbEnt) (vas : List Nat) (va : Nat) (write : Bool)
    (src : FaultSrc) :
    (s.missedOf c o ent vas va write src).mem = s.mem := by
  simp [State.missedOf]

@[simp] theorem State.gloadPerform_mem (s : State) (c : Nat) (o : PendOp) (d ty : Nat) (base : VecVal) (els : List ElRead)
    (pz gather : Bool) (pol : Nat) :
    (s.gloadPerform c o d ty base els pz gather pol).mem = s.mem := by
  unfold State.gloadPerform
  split <;> simp

@[simp] theorem State.gstorePerform_wf (s : State) (c : Nat) (o : PendOp) (els : List ElWrite) (pz gather : Bool) (pol : Nat)
    (hs : Memory.wf s.mem = true) : Memory.wf (s.gstorePerform c o els pz gather pol).mem = true := by
  unfold State.gstorePerform
  split <;> simp [hs, State.writeAll_wf]

@[simp] theorem State.pfgPerform_mem (s : State) (c : Nat) (o : PendOp) (vas : List Nat) (pol : Nat) :
    (s.pfgPerform c o vas pol).mem = s.mem := by
  unfold State.pfgPerform
  split <;> simp

@[simp] theorem State.atomPerform_wf (s : State) (c : Nat) (o : PendOp) (d pa aop ty sc b x : Nat) (hs : Memory.wf s.mem = true) :
    Memory.wf (s.atomPerform c o d pa aop ty sc b x).mem = true := by
  unfold State.atomPerform; dsimp only; repeat' split
  all_goals simp [hs]

@[simp] theorem State.flsetPerform_wf (s : State) (c : Nat) (o : PendOp) (idx : Nat) (add : Bool) (val : Word)
    (hs : Memory.wf s.mem = true) : Memory.wf (s.flsetPerform c o idx add val).mem = true := by
  simp [State.flsetPerform, hs]

@[simp] theorem State.flwaitPerform_mem (s : State) (c : Nat) (o : PendOp) (d idx : Nat) (exp : BitVec 32) (scp : Nat)
    (entered : Bool) (got : Option Word) :
    (s.flwaitPerform c o d idx exp scp entered got).mem = s.mem := by
  unfold State.flwaitPerform; dsimp only; repeat' split
  all_goals simp

theorem State.atHome_mem (s : State) (c : Nat) (o : PendOp) (home : BridleHome) (va : Nat) (write : Bool)
    (k : State → BridleHome → State) (hk : ∀ t hm, (k t hm).mem = t.mem) : (s.atHome c o home va write k).mem = s.mem := by
  unfold State.atHome; repeat' split
  all_goals simp [hk]

@[simp] theorem State.brUpdPerform_mem (s : State) (c : Nat) (o : PendOp) (d : Nat) (home : BridleHome) (va : Nat) (u : BrUpd) :
    (s.brUpdPerform c o d home va u).mem = s.mem := by
  refine s.atHome_mem c o home va true _ fun t hm => ?_
  dsimp only; repeat' split
  all_goals simp

@[simp] theorem State.brWaitPerform_mem (s : State) (c : Nat) (o : PendOp) (d : Nat) (home : BridleHome) (va : Nat) (par : Bool)
    (scp : Nat) (entered : Bool) : (s.brWaitPerform c o d home va par scp entered).mem = s.mem := by
  unfold State.brWaitPerform
  split
  · rfl
  · exact s.atHome_mem c o home va false _ fun t hm => by simp

@[simp] theorem State.brTestPerform_mem (s : State) (c : Nat) (o : PendOp) (d : Nat) (home : BridleHome) (va : Nat) :
    (s.brTestPerform c o d home va).mem = s.mem :=
  s.atHome_mem c o home va false _ fun t hm => by simp

@[simp] theorem State.bldPerform_mem (s : State) (c : Nat) (o : PendOp) (b : Nat) (ty : BitVec 4) (n : Nat) (rows : List RowRead) :
    (s.bldPerform c o b ty n rows).mem = s.mem := by
  unfold State.bldPerform
  split <;> simp

@[simp] theorem State.mmtPerform_mem (s : State) (c : Nat) (o : PendOp) (acc bn : Nat) (b : Bank) (tya tyb : BitVec 4) (zc : Bool)
    (rows : List RowRead) :
    (s.mmtPerform c o acc bn b tya tyb zc rows).mem = s.mem := by
  unfold State.mmtPerform
  split <;> simp

@[simp] theorem State.arcvPerform_mem (s : State) (c : Nat) (o : PendOp) (d a ch : Nat) : (s.arcvPerform c o d a ch).mem = s.mem := by
  unfold State.arcvPerform; dsimp only; repeat' split
  all_goals simp

/-- Performing an operation, whatever its kind, keeps memory canonical. -/
theorem State.perform_wf (s : State) (c : Nat) (o : PendOp) (part : OpPart) (hs : Memory.wf s.mem = true) :
    Memory.wf (s.perform c o part).mem = true := by
  unfold State.perform
  split <;> simp [hs]

@[simp] theorem State.fire_mem (s : State) (w : Watch) (v : Word) (q : WatchWho) : (s.fire w v q).mem = s.mem := by
  simp only [State.fire]; repeat' split
  all_goals simp

@[simp] theorem State.clearDetached_mem (s : State) (d tid : Nat) : (s.clearDetached d tid).mem = s.mem := by
  simp [State.clearDetached]

/-! ### Sys2Proof/Machine/Fetch.lean -/

@[simp] theorem State.hoist_mem (s : State) (k : Nat) : (s.hoist k).mem = s.mem := by
  unfold State.hoist
  split <;> simp

@[simp] theorem State.portsTied_mem (s : State) : s.portsTied.mem = s.mem := by
  unfold State.portsTied; dsimp only; repeat' split
  all_goals simp

@[simp] theorem State.tied_mem (s : State) : s.tied.mem = s.mem := by
  simp only [State.tied]; repeat' split
  all_goals simp

@[simp] theorem State.nextMove_mem (s : State) : s.nextMove.2.mem = s.mem := by
  unfold State.nextMove
  split <;> simp

@[simp] theorem State.illegal_mem (s : State) (w : Word) (e : Illegal) : (s.illegal w e).mem = s.mem := by simp [State.illegal]

/-! ### Instructions of the register files, and accesses of a host -/

/-- An instruction on the register file leaves memory alone. -/
theorem issueReg_memSat {Q : List Host.Cell → Prop} {h : Hdr} {lane : Bool} {uses : List Reg} {body : AppCell → AppRes} {s : State}
    (hq : Q s.mem) : Out.MemSat Q (.next (issueReg h lane uses body s)) := by
  simpa using hq

/-- An access of a host answers what its effect answers, or changes nothing. -/
theorem State.answers_memSat {Q : List Host.Cell → Prop} (s : State) (a : HostAcc) (k : State → State) (hq : Q s.mem)
    (hk : Q (k s).mem) : (s.answers a k).MemSat Q := by
  unfold State.answers
  split
  · exact hk
  · exact hq

theorem State.configures_memSat {Q : List Host.Cell → Prop} (s : State) (a : HostAcc) (k : State → State) (hq : Q s.mem)
    (hk : Q (k s).mem) : (s.configures a k).MemSat Q := by
  unfold State.configures
  split
  · exact hk
  · exact hq

theorem State.maryonAnswers_memSat {Q : List Host.Cell → Prop} (s : State) (k : State → State) (hq : Q s.mem)
    (hk : Q (k s).mem) : (s.maryonAnswers k).MemSat Q := by
  unfold State.maryonAnswers
  split
  · exact hk
  · exact hq

/-! ### What moves by the rules of Sys2Proof/Machine/Control.lean -/

theorem execCmt_memSat {Q : List Host.Cell → Prop} (h : Hdr) (f : FmtK) (s : State) (hq : Q s.mem) : (execCmt h f s).MemSat Q :=
  issue_memSat hq hq (by simp [hq])

theorem execEnd_memSat {Q : List Host.Cell → Prop} (h : Hdr) (f : FmtK) (s : State) (hq : Q s.mem) : (execEnd h f s).MemSat Q := by
  simp [execEnd, hq]

/-! ### What moves by the rules of Sys2Proof/Machine/Mem.lean -/

theorem execLd_memSat {Q : List Host.Cell → Prop} (h : Hdr) (f : FmtM) (s : State) (hq : Q s.mem) : (execLd h f s).MemSat Q := by
  refine issue_memSat hq hq ?_
  dsimp only; repeat' split
  all_goals simp [hq]

theorem execSt_memSat {Q : List Host.Cell → Prop} (h : Hdr) (f : FmtM) (s : State) (hq : Q s.mem) : (execSt h f s).MemSat Q :=
  issue_memSat hq hq (by simp [hq])

theorem execLds_memSat {Q : List Host.Cell → Prop} (h : Hdr) (f : FmtM) (s : State) (hq : Q s.mem) : (execLds h f s).MemSat Q := by
  refine issue_memSat hq hq ?_
  dsimp only; repeat' split
  all_goals simp [hq]

theorem execSts_memSat {Q : List Host.Cell → Prop} (h : Hdr) (f : FmtM) (s : State) (hq : Q s.mem) : (execSts h f s).MemSat Q :=
  issue_memSat hq hq (by simp [hq])

theorem execLdg_memSat {Q : List Host.Cell → Prop} (h : Hdr) (f : FmtM) (s : State) (hq : Q s.mem) : (execLdg h f s).MemSat Q :=
  issue_memSat hq hq (by simp [hq])

theorem execStg_memSat {Q : List Host.Cell → Prop} (h : Hdr) (f : FmtM) (s : State) (hq : Q s.mem) : (execStg h f s).MemSat Q :=
  issue_memSat hq hq (by simp [hq])

theorem execLdx_memSat {Q : List Host.Cell → Prop} (h : Hdr) (f : FmtM) (s : State) (hq : Q s.mem) : (execLdx h f s).MemSat Q :=
  issue_memSat hq hq (by simp [hq])

theorem execStx_memSat {Q : List Host.Cell → Prop} (h : Hdr) (f : FmtM) (s : State) (hq : Q s.mem) : (execStx h f s).MemSat Q := by
  refine issue_memSat hq hq ?_
  dsimp only; repeat' split
  all_goals simp [hq]

theorem execShpSym_memSat {Q : List Host.Cell → Prop} (h : Hdr) (f : FmtM) (s : State) (hq : Q s.mem) :
    (execShpSym h f s).MemSat Q := by
  refine issue_memSat hq hq ?_
  dsimp only; repeat' split
  all_goals simp [hq]

theorem execShpVec_memSat {Q : List Host.Cell → Prop} (h : Hdr) (f : FmtM) (s : State) (hq : Q s.mem) :
    (execShpVec h f s).MemSat Q :=
  issue_memSat hq hq (by simp [hq])

theorem execShpExt_memSat {Q : List Host.Cell → Prop} (h : Hdr) (f : FmtM) (s : State) (hq : Q s.mem) :
    (execShpExt h f s).MemSat Q :=
  issue_memSat hq hq (by simp [hq])

theorem execPfg_memSat {Q : List Host.Cell → Prop} (h : Hdr) (f : FmtM) (s : State) (hq : Q s.mem) : (execPfg h f s).MemSat Q :=
  issue_memSat hq hq (by simp [hq])

theorem execTalloc_memSat {Q : List Host.Cell → Prop} (h : Hdr) (f : FmtM) (s : State) (hq : Q s.mem) :
    (execTalloc h f s).MemSat Q := by
  refine issue_memSat hq hq ?_
  dsimp only; repeat' split
  all_goals simp [hq]

theorem execTfree_memSat {Q : List Host.Cell → Prop} (h : Hdr) (f : FmtM) (s : State) (hq : Q s.mem) : (execTfree h f s).MemSat Q := by
  refine issue_memSat hq hq ?_
  split
  · trivial
  · simp [hq]

theorem execTshr_memSat {Q : List Host.Cell → Prop} (h : Hdr) (f : FmtM) (s : State) (hq : Q s.mem) : (execTshr h f s).MemSat Q := by
  refine issue_memSat hq hq ?_
  dsimp only; repeat' split
  all_goals simp [hq]

/-! ### What moves by the rules of Sys2Proof/Machine/Bridles.lean -/

theorem execFence_memSat {Q : List Host.Cell → Prop} (h : Hdr) (f : FmtF) (s : State) (hq : Q s.mem) :
    (execFence h f s).MemSat Q :=
  issue_memSat hq hq (by simp [hq])

theorem execSbar_memSat {Q : List Host.Cell → Prop} (h : Hdr) (f : FmtF) (s : State) (hq : Q s.mem) : (execSbar h f s).MemSat Q :=
  issue_memSat hq hq (by simp [hq])

theorem execAtom_memSat {Q : List Host.Cell → Prop} (h : Hdr) (f : FmtA) (s : State) (hq : Q s.mem) : (execAtom h f s).MemSat Q :=
  issue_memSat hq hq (by simp [State.atomTile_memSat s f _ hq, State.atomVirt_memSat s f _ hq])

theorem execBrinit_memSat {Q : List Host.Cell → Prop} (h : Hdr) (f : FmtA) (s : State) (hq : Q s.mem) : (execBrinit h f s).MemSat Q := by
  refine issue_memSat hq hq ((tokGate_memSat ..).mpr fun _ => s.withHandle_memSat _ _ _ _ fun hd => ?_)
  cases hd <;> simp [hq]

theorem execBrarr_memSat {Q : List Host.Cell → Prop} (h : Hdr) (f : FmtA) (s : State) (hq : Q s.mem) : (execBrarr h f s).MemSat Q :=
  issue_memSat hq hq ((tokGate_memSat ..).mpr fun _ => s.withHandle_memSat _ _ _ _ fun hd => by simp [hq])

theorem execBrdrop_memSat {Q : List Host.Cell → Prop} (h : Hdr) (f : FmtA) (s : State) (hq : Q s.mem) : (execBrdrop h f s).MemSat Q :=
  issue_memSat hq hq ((tokGate_memSat ..).mpr fun _ => s.withHandle_memSat _ _ _ _ fun hd => by simp [hq])

theorem execBrexp_memSat {Q : List Host.Cell → Prop} (h : Hdr) (f : FmtA) (s : State) (hq : Q s.mem) : (execBrexp h f s).MemSat Q :=
  issue_memSat hq hq ((tokGate_memSat ..).mpr fun _ => s.withHandle_memSat _ _ _ _ fun hd => by simp [hq])

theorem execBrwait_memSat {Q : List Host.Cell → Prop} (h : Hdr) (f : FmtA) (s : State) (hq : Q s.mem) : (execBrwait h f s).MemSat Q :=
  issue_memSat hq hq ((tokGate_memSat ..).mpr fun _ => s.withHandle_memSat _ _ _ _ fun hd =>
    s.bridleRead_memSat hd _ hq (by simp [hq]))

theorem execBrtest_memSat {Q : List Host.Cell → Prop} (h : Hdr) (f : FmtA) (s : State) (hq : Q s.mem) : (execBrtest h f s).MemSat Q :=
  issue_memSat hq hq ((tokGate_memSat ..).mpr fun _ => s.withHandle_memSat _ _ _ _ fun hd =>
    s.bridleRead_memSat hd _ hq (by simp [hq]))

theorem execFlwait_memSat {Q : List Host.Cell → Prop} (h : Hdr) (f : FmtA) (s : State) (hq : Q s.mem) :
    (execFlwait h f s).MemSat Q :=
  issue_memSat hq hq (by simp [hq])

theorem execFlset_memSat {Q : List Host.Cell → Prop} (h : Hdr) (f : FmtA) (s : State) (hq : Q s.mem) :
    (execFlset h f s).MemSat Q :=
  issue_memSat hq hq (by simp [hq])

/-! ### What moves by the rules of Sys2Proof/Machine/Copies.lean -/

theorem execCpy_memSat {Q : List Host.Cell → Prop} (h : Hdr) (f : FmtM) (s : State) (hq : Q s.mem) : (execCpy h f s).MemSat Q := by
  refine issue_memSat hq hq ((tokGate_memSat ..).mpr fun _ => ?_)
  extract_lets p hd memBr go
  have hgo : (go s).MemSat Q := by
    simp only [go]; repeat' split
    all_goals simp [hq]
  clear_value go
  simp [hgo, hq]

theorem execBld_memSat {Q : List Host.Cell → Prop} (h : Hdr) (f : FmtX) (s : State) (hq : Q s.mem) : (execBld h f s).MemSat Q :=
  bankGate_memSat hq (issue_memSat hq hq (by simp [hq]))

theorem execMmt_memSat {Q : List Host.Cell → Prop} (h : Hdr) (f : FmtX) (s : State) (hq : Q s.mem) : (execMmt h f s).MemSat Q :=
  issue_memSat hq hq (by simp [hq])

theorem execMst_memSat {Q : List Host.Cell → Prop} (h : Hdr) (f : FmtX) (s : State) (hq : Q s.mem) : (execMst h f s).MemSat Q := by
  refine issue_memSat hq hq ?_
  dsimp only; repeat' split
  all_goals simp [hq]

theorem execBldm_memSat {Q : List Host.Cell → Prop} (h : Hdr) (f : FmtX) (s : State) (hq : Q s.mem) : (execBldm h f s).MemSat Q := by
  unfold execBldm; dsimp only
  rw [Out.memSat_next]
  generalize hk : issue h false _ id _ = k
  have hks : Q (k s).mem := by
    rw [← hk]
    exact issue_memSat hq hq (by simp [hq])
  split
  · exact bankGate_memSat hq hks
  · exact hks

theorem execMulticastRowMove_memSat {Q : List Host.Cell → Prop} (i g : Nat) (l : McLink) (s : State) (hq : Q s.mem) :
    (execMulticastRowMove i g l s).MemSat Q := by
  cases l <;> simp [execMulticastRowMove, hq]

theorem execMulticastRowLand_memSat {Q : List Host.Cell → Prop} (i g c : Nat) (s : State) (hq : Q s.mem) :
    (execMulticastRowLand i g c s).MemSat Q := by
  simp [execMulticastRowLand, hq]

/-! ### What moves by the rules of Sys2Proof/Machine/Area.lean -/

theorem execOpnd_memSat {Q : List Host.Cell → Prop} (h : Hdr) (f : FmtS) (s : State) (hq : Q s.mem) : (execOpnd h f s).MemSat Q :=
  issue_memSat hq hq (by simp [hq])

theorem execEmit_memSat {Q : List Host.Cell → Prop} (h : Hdr) (f : FmtS) (s : State) (hq : Q s.mem) : (execEmit h f s).MemSat Q :=
  issue_memSat hq hq (by simp [hq])

theorem execEmitt_memSat {Q : List Host.Cell → Prop} (h : Hdr) (f : FmtS) (s : State) (hq : Q s.mem) :
    (execEmitt h f s).MemSat Q := by
  refine issue_memSat hq hq ?_
  dsimp only; repeat' split
  all_goals simp [hq]

theorem execTok_memSat {Q : List Host.Cell → Prop} (h : Hdr) (f : FmtS) (s : State) (hq : Q s.mem) : (execTok h f s).MemSat Q := by
  refine issue_memSat hq hq ?_
  dsimp only; repeat' split
  all_goals simp [hq]

theorem execAbc_memSat {Q : List Host.Cell → Prop} (h : Hdr) (f : FmtS) (s : State) (hq : Q s.mem) : (execAbc h f s).MemSat Q :=
  issue_memSat hq hq (by simp [hq])

theorem execArd_memSat {Q : List Host.Cell → Prop} (h : Hdr) (f : FmtS) (s : State) (hq : Q s.mem) : (execArd h f s).MemSat Q :=
  issue_memSat hq hq (by simp [hq])

theorem execAscn_memSat {Q : List Host.Cell → Prop} (h : Hdr) (f : FmtS) (s : State) (hq : Q s.mem) : (execAscn h f s).MemSat Q :=
  issue_memSat hq hq (by simp [hq])

theorem execNbr_memSat {Q : List Host.Cell → Prop} (h : Hdr) (f : FmtS) (s : State) (hq : Q s.mem) : (execNbr h f s).MemSat Q :=
  issue_memSat hq hq (by simp [hq])

theorem execAsnd_memSat {Q : List Host.Cell → Prop} (h : Hdr) (f : FmtS) (s : State) (hq : Q s.mem) : (execAsnd h f s).MemSat Q := by
  refine issue_memSat hq hq ?_
  dsimp only; repeat' split
  all_goals simp [hq]

theorem execArcv_memSat {Q : List Host.Cell → Prop} (h : Hdr) (f : FmtS) (s : State) (hq : Q s.mem) : (execArcv h f s).MemSat Q :=
  issue_memSat hq hq (by simp [hq])

theorem execChannelMessageDelivery_memSat {Q : List Host.Cell → Prop} (i c : Nat) (s : State) (hq : Q s.mem) :
    (execChannelMessageDelivery i c s).MemSat Q := by
  unfold execChannelMessageDelivery; dsimp only; repeat' split
  all_goals simp [hq]

theorem execAreaStall_memSat {Q : List Host.Cell → Prop} (s : State) (hq : Q s.mem) : (execAreaStall s).MemSat Q := by
  simp [execAreaStall, hq]

theorem execCommit_memSat {Q : List Host.Cell → Prop} (s : State) (hq : Q s.mem) : (execCommit s).MemSat Q := by
  simp [execCommit, hq]

theorem execSleepExpiry_memSat {Q : List Host.Cell → Prop} (s : State) (hq : Q s.mem) : (execSleepExpiry s).MemSat Q := by
  unfold execSleepExpiry; dsimp only; repeat' split
  all_goals simp [hq]

/-! ### What moves by the rules of Sys2Proof/Machine/Signals.lean -/

theorem execTableWalk_memSat {Q : List Host.Cell → Prop} (s : State) (hq : Q s.mem) : (execTableWalk s).MemSat Q := by
  unfold execTableWalk; dsimp only; split
  · exact hq
  · rw [Out.memSat_next, State.keepAsks_mem, foldl_mem]
    · exact hq
    · intro t a
      split <;> simp

theorem execConfirmingWalk_wf (s : State) (hs : Memory.wf s.mem = true) : (execConfirmingWalk s).MemSat (Memory.wf · = true) := by
  unfold execConfirmingWalk; dsimp only; repeat' split
  all_goals simp [hs]

theorem execSampleReport_wf (s : State) (hs : Memory.wf s.mem = true) : (execSampleReport s).MemSat (Memory.wf · = true) := by
  unfold execSampleReport; dsimp only; repeat' split
  all_goals simp [hs]

theorem execTrapAtRoot_wf (s : State) (hs : Memory.wf s.mem = true) : (execTrapAtRoot s).MemSat (Memory.wf · = true) := by
  simp [execTrapAtRoot, hs]

/-! ### What moves by the rules of Sys2Proof/Machine/Fabric.lean -/

theorem execGraphStep_memSat {Q : List Host.Cell → Prop} (s : State) (hq : Q s.mem) : (execGraphStep s).MemSat Q := by
  simp [execGraphStep, hq]

theorem execQuantumExpiry_memSat {Q : List Host.Cell → Prop} (s : State) (hq : Q s.mem) : (execQuantumExpiry s).MemSat Q := by
  simp [execQuantumExpiry, hq]

theorem execPlaneIdleTimeout_memSat {Q : List Host.Cell → Prop} (s : State) (hq : Q s.mem) : (execPlaneIdleTimeout s).MemSat Q := by
  simp [execPlaneIdleTimeout, hq]

theorem execPlaneSwitchDone_memSat {Q : List Host.Cell → Prop} (s : State) (hq : Q s.mem) : (execPlaneSwitchDone s).MemSat Q := by
  unfold execPlaneSwitchDone; dsimp only; repeat' split
  all_goals simp [hq]

theorem execGld_memSat {Q : List Host.Cell → Prop} (h : Hdr) (f : FmtG) (s : State) (hq : Q s.mem) : (execGld h f s).MemSat Q :=
  issue_memSat hq hq (by simp [hq])

theorem execGrel_memSat {Q : List Host.Cell → Prop} (h : Hdr) (f : FmtG) (s : State) (hq : Q s.mem) : (execGrel h f s).MemSat Q :=
  issue_memSat hq hq (by simp [hq])

theorem execGbind_memSat {Q : List Host.Cell → Prop} (h : Hdr) (f : FmtG) (s : State) (hq : Q s.mem) :
    (execGbind h f s).MemSat Q := by
  refine issue_memSat hq hq ?_
  dsimp only; repeat' split
  all_goals simp [hq]

theorem execGstr_memSat {Q : List Host.Cell → Prop} (h : Hdr) (f : FmtG) (s : State) (hq : Q s.mem) : (execGstr h f s).MemSat Q := by
  refine issue_memSat hq hq ?_
  dsimp only; repeat' split
  all_goals simp [hq]

theorem execGcol_memSat {Q : List Host.Cell → Prop} (h : Hdr) (f : FmtG) (s : State) (hq : Q s.mem) : (execGcol h f s).MemSat Q :=
  issue_memSat hq hq (by simp [hq])

theorem execGctx_memSat {Q : List Host.Cell → Prop} (h : Hdr) (f : FmtG) (s : State) (hq : Q s.mem) : (execGctx h f s).MemSat Q :=
  issue_memSat hq hq (by simp [hq])

theorem execGfrz_memSat {Q : List Host.Cell → Prop} (h : Hdr) (f : FmtG) (s : State) (hq : Q s.mem) : (execGfrz h f s).MemSat Q :=
  issue_memSat hq hq (by simp [hq])

theorem execGthaw_memSat {Q : List Host.Cell → Prop} (h : Hdr) (f : FmtG) (s : State) (hq : Q s.mem) :
    (execGthaw h f s).MemSat Q :=
  issue_memSat hq hq (by simp [hq])

/-! ### What moves by the rules of Sys2Proof/Machine/Reel.lean -/

theorem execSend_wf (w : ChunkC) (s : State) (hs : Memory.wf s.mem = true) : (execSend w s).MemSat (Memory.wf · = true) := by
  refine s.chanRun_wf _ _ hs (s.withChunk_wf _ _ _ hs fun k => ?_)
  dsimp only
  split
  · simp [hs]
  · split
    · split
      · exact hs
      · split
        · next h => rw [State.chanRead_mem h]; exact hs
        · simp [hs]
    · simp [hs]

theorem execRecv_wf (w : ChunkC) (s : State) (hs : Memory.wf s.mem = true) : (execRecv w s).MemSat (Memory.wf · = true) := by
  refine s.chanRun_wf _ _ hs (s.withChunk_wf _ _ _ hs fun k => ?_)
  dsimp only; repeat' split
  all_goals simp [hs]

theorem execRed_wf (w : ChunkC) (s : State) (hs : Memory.wf s.mem = true) : (execRed w s).MemSat (Memory.wf · = true) := by
  refine s.chanRun_wf _ _ hs (s.withChunk_wf _ _ _ hs fun k => ?_)
  dsimp only; repeat' split
  all_goals simp [hs]

theorem execRrc_wf (w : ChunkC) (s : State) (hs : Memory.wf s.mem = true) : (execRrc w s).MemSat (Memory.wf · = true) := by
  refine s.chanRun_wf _ _ hs (s.withChunk_wf _ _ _ hs fun k => ?_)
  dsimp only; repeat' split
  all_goals simp [hs]

theorem execRedany_wf (w : ChunkC) (s : State) (hs : Memory.wf s.mem = true) : (execRedany w s).MemSat (Memory.wf · = true) := by
  refine s.chanRun_wf _ _ hs (s.withChunk_wf _ _ _ hs fun k => ?_)
  dsimp only; repeat' split
  all_goals simp [hs]

theorem execCcpy_wf (w : ChunkC) (s : State) (hs : Memory.wf s.mem = true) : (execCcpy w s).MemSat (Memory.wf · = true) := by
  refine s.chanRun_wf _ _ hs (s.withChunk_wf _ _ _ hs fun ka => s.withChunk_wf _ _ _ hs fun kb => ?_)
  split <;> simp [hs]

theorem execXf_wf (w : ChunkC) (s : State) (hs : Memory.wf s.mem = true) : (execXf w s).MemSat (Memory.wf · = true) := by
  refine s.chanRun_wf _ _ hs (s.withChunk_wf _ _ _ hs fun ka => s.withChunk_wf _ _ _ hs fun kb => ?_)
  repeat' split
  all_goals simp [hs]

theorem execReelNop_memSat {Q : List Host.Cell → Prop} (w : ChunkC) (s : State) (hq : Q s.mem) : (execReelNop w s).MemSat Q := by
  simp [execReelNop, hq]

theorem execReelEnd_memSat {Q : List Host.Cell → Prop} (w : ChunkC) (s : State) (hq : Q s.mem) : (execReelEnd w s).MemSat Q := by
  simp [execReelEnd, hq]

theorem execLflag_wf (w : ChunkV) (s : State) (hs : Memory.wf s.mem = true) : (execLflag w s).MemSat (Memory.wf · = true) := by
  refine s.chanRun_wf _ _ hs ?_
  dsimp only; split
  · exact hs
  · rw [State.chanRetire_mem]
    exact s.pokeNat_wf _ _ _ hs

theorem execSig_memSat {Q : List Host.Cell → Prop} (w : ChunkV) (s : State) (hq : Q s.mem) : (execSig w s).MemSat Q := by
  simp [execSig, hq]

theorem execCwait_memSat {Q : List Host.Cell → Prop} (w : ChunkV) (s : State) (hq : Q s.mem) : (execCwait w s).MemSat Q := by
  simp [execCwait, hq]

theorem execSetc_memSat {Q : List Host.Cell → Prop} (w : ChunkV) (s : State) (hq : Q s.mem) : (execSetc w s).MemSat Q := by
  simp [execSetc, hq]

theorem execDecb_memSat {Q : List Host.Cell → Prop} (w : ChunkV) (s : State) (hq : Q s.mem) : (execDecb w s).MemSat Q := by
  simp [execDecb, hq]

theorem execSeqb_memSat {Q : List Host.Cell → Prop} (w : ChunkV) (s : State) (hq : Q s.mem) : (execSeqb w s).MemSat Q := by
  simp [execSeqb, hq]

theorem execMark_memSat {Q : List Host.Cell → Prop} (w : ChunkV) (s : State) (hq : Q s.mem) : (execMark w s).MemSat Q := by
  simp [execMark, hq]

theorem execClearToSendArrival_memSat {Q : List Host.Cell → Prop} (src : MsgSrc) (s : State) (hq : Q s.mem) :
    (execClearToSendArrival src s).MemSat Q := by
  unfold execClearToSendArrival
  split
  · exact hq
  · next h =>
    dsimp only; repeat' split
    all_goals simp [State.arrival_mem h, hq]

theorem execChunkMessageArrival_memSat {Q : List Host.Cell → Prop} (src : MsgSrc) (s : State) (hq : Q s.mem) :
    (execChunkMessageArrival src s).MemSat Q := by
  unfold execChunkMessageArrival
  split
  · exact hq
  · next h =>
    have ht := State.arrival_mem h
    split
    · simp [State.headArrives_mem _ _ _ _ _ ht, hq]
    · simp [State.partArrives_mem _ _ _ _ ht, hq]
    · simp [State.partArrives_mem _ _ _ _ ht, hq]
    · simp [ht, hq]
    · exact hq

theorem execAcknowledgementArrival_memSat {Q : List Host.Cell → Prop} (src : MsgSrc) (s : State) (hq : Q s.mem) :
    (execAcknowledgementArrival src s).MemSat Q := by
  unfold execAcknowledgementArrival
  split
  · exact hq
  · next h =>
    dsimp only; repeat' split
    all_goals simp [State.arrival_mem h, hq]

theorem execSignalArrival_memSat {Q : List Host.Cell → Prop} (src : MsgSrc) (s : State) (hq : Q s.mem) :
    (execSignalArrival src s).MemSat Q := by
  unfold execSignalArrival
  split
  · exact hq
  · next h =>
    dsimp only; repeat' split
    all_goals simp [State.arrival_mem h, hq]

theorem execAbortArrival_memSat {Q : List Host.Cell → Prop} (src : MsgSrc) (s : State) (hq : Q s.mem) :
    (execAbortArrival src s).MemSat Q := by
  unfold execAbortArrival
  split
  · exact hq
  · next h =>
    dsimp only; repeat' split
    all_goals simp [State.arrival_mem h, hq]

theorem execLinkRefusal_memSat {Q : List Host.Cell → Prop} (s : State) (hq : Q s.mem) : (execLinkRefusal s).MemSat Q := by
  unfold execLinkRefusal; dsimp only; repeat' split
  all_goals simp [hq]

theorem execPortReset_memSat {Q : List Host.Cell → Prop} (s : State) (hq : Q s.mem) : (execPortReset s).MemSat Q := by
  simp [execPortReset, hq]

theorem execPortUpResend_memSat {Q : List Host.Cell → Prop} (s : State) (hq : Q s.mem) : (execPortUpResend s).MemSat Q := by
  unfold execPortUpResend; dsimp only
  split
  · exact hq
  · rw [Out.memSat_next, foldl_mem]
    · exact hq
    · intro t rc
      split <;> simp

theorem execRlload_memSat {Q : List Host.Cell → Prop} (h : Hdr) (f : FmtE) (s : State) (hq : Q s.mem) :
    (execRlload h f s).MemSat Q :=
  issue_memSat hq hq (by simp [hq])

theorem execRlgo_memSat {Q : List Host.Cell → Prop} (h : Hdr) (f : FmtE) (s : State) (hq : Q s.mem) : (execRlgo h f s).MemSat Q :=
  issue_memSat hq hq (by simp [hq])

theorem execRlpost_memSat {Q : List Host.Cell → Prop} (h : Hdr) (f : FmtE) (s : State) (hq : Q s.mem) :
    (execRlpost h f s).MemSat Q :=
  issue_memSat hq hq (by simp [hq])

theorem execRlstat_memSat {Q : List Host.Cell → Prop} (h : Hdr) (f : FmtE) (s : State) (hq : Q s.mem) :
    (execRlstat h f s).MemSat Q :=
  issue_memSat hq hq (by simp [hq])

theorem execXwrp_memSat {Q : List Host.Cell → Prop} (h : Hdr) (f : FmtI) (s : State) (hq : Q s.mem) : (execXwrp h f s).MemSat Q := by
  unfold execXwrp
  split
  · exact issueReg_memSat hq
  · exact issue_memSat hq hq (by simp [hq])

theorem execTlbiPage_memSat {Q : List Host.Cell → Prop} (h : Hdr) (f : FmtA) (s : State) (hq : Q s.mem) :
    (execTlbiPage h f s).MemSat Q :=
  issue_memSat hq hq (by simp [hq])

theorem execTlbiRange_memSat {Q : List Host.Cell → Prop} (h : Hdr) (f : FmtA) (s : State) (hq : Q s.mem) :
    (execTlbiRange h f s).MemSat Q :=
  issue_memSat hq hq (by simp [hq])

theorem execTlbiAsid_memSat {Q : List Host.Cell → Prop} (h : Hdr) (f : FmtA) (s : State) (hq : Q s.mem) :
    (execTlbiAsid h f s).MemSat Q :=
  issue_memSat hq hq (by simp [hq])

theorem execPtst_memSat {Q : List Host.Cell → Prop} (h : Hdr) (f : FmtA) (s : State) (hq : Q s.mem) : (execPtst h f s).MemSat Q :=
  issue_memSat hq hq (by simp [hq])

theorem execAsret_memSat {Q : List Host.Cell → Prop} (h : Hdr) (f : FmtA) (s : State) (hq : Q s.mem) :
    (execAsret h f s).MemSat Q :=
  issue_memSat hq hq (by simp [hq])

theorem execFltdoneOk_wf (h : Hdr) (f : FmtA) (s : State) (hs : Memory.wf s.mem = true) :
    (execFltdoneOk h f s).MemSat (Memory.wf · = true) :=
  issue_memSat (Q := (Memory.wf · = true)) hs hs (s.fltdone_memSat f _ hs fun q => s.faultDone_wf q true hs)

theorem execFltdoneFail_wf (h : Hdr) (f : FmtA) (s : State) (hs : Memory.wf s.mem = true) :
    (execFltdoneFail h f s).MemSat (Memory.wf · = true) :=
  issue_memSat (Q := (Memory.wf · = true)) hs hs (s.fltdone_memSat f _ hs fun q => s.faultDone_wf q false hs)

theorem execFltdoneIrq_memSat {Q : List Host.Cell → Prop} (h : Hdr) (f : FmtA) (s : State) (hq : Q s.mem) :
    (execFltdoneIrq h f s).MemSat Q :=
  issue_memSat hq hq (s.fltdone_memSat f _ hq fun q => by simp [hq])

/-! ### What moves by the rules of Sys2Proof/Machine/Row.lean -/

theorem execAbortContextStop_wf (s : State) (hs : Memory.wf s.mem = true) : (execAbortContextStop s).MemSat (Memory.wf · = true) := by
  unfold execAbortContextStop; dsimp only
  split
  · exact hs
  · split
    · split
      · next h => exact State.stopCtx_wf _ _ _ (State.writeTrap_wf h hs)
      · exact s.stopCtx_wf _ _ hs
    · split <;> simp [hs]

/-! ### What moves by the rules of Sys2Proof/Machine/Sweeps.lean -/

theorem execSweepP_wf (s : State) (hs : Memory.wf s.mem = true) : (execSweepP s).MemSat (Memory.wf · = true) := by
  simp [execSweepP, hs]

theorem execJoinedSweepStart_wf (s : State) (hs : Memory.wf s.mem = true) :
    (execJoinedSweepStart s).MemSat (Memory.wf · = true) := by
  simp [execJoinedSweepStart, hs]

theorem execHubCacheFetch_wf (s : State) (hs : Memory.wf s.mem = true) : (execHubCacheFetch s).MemSat (Memory.wf · = true) := by
  unfold execHubCacheFetch; dsimp only; repeat' split
  all_goals simp [hs]

theorem execMicroprogramBroadcast_wf (ar : Nat) (crcFail : List Nat) (s : State) (hs : Memory.wf s.mem = true) :
    (execMicroprogramBroadcast ar crcFail s).MemSat (Memory.wf · = true) := by
  unfold execMicroprogramBroadcast; dsimp only
  split
  · exact hs
  · split
    · exact hs
    · split
      · exact hs
      · rw [Out.memSat_next, foldl_mem _ _ _ fun s i => State.arrive_mem ..]
        refine foldl_wf _ _ _ (fun t j ht => foldl_wf _ _ _ (fun u c hu => ?_) ht) hs
        split <;> simp [hu]

theorem execLClose_memSat {Q : List Host.Cell → Prop} (s : State) (hq : Q s.mem) : (execLClose s).MemSat Q := by
  simp [execLClose, hq]

theorem execAreaStart_wf (s : State) (hs : Memory.wf s.mem = true) : (execAreaStart s).MemSat (Memory.wf · = true) := by
  simp [execAreaStart, hs]

/-! ### What moves by the rules of Sys2Proof/Machine/Landing.lean -/

theorem execPropagateWrite_wf (s : State) (hs : Memory.wf s.mem = true) : (execPropagateWrite s).MemSat (Memory.wf · = true) := by
  simp [execPropagateWrite, hs]

theorem execCtxsvSave_memSat {Q : List Host.Cell → Prop} (h : Hdr) (f : FmtA) (s : State) (hq : Q s.mem) :
    (execCtxsvSave h f s).MemSat Q :=
  issue_memSat hq hq (by simp [hq])

theorem execCtxsvForce_memSat {Q : List Host.Cell → Prop} (h : Hdr) (f : FmtA) (s : State) (hq : Q s.mem) :
    (execCtxsvForce h f s).MemSat Q :=
  issue_memSat hq hq (by simp [hq])

theorem execCtxsvResume_memSat {Q : List Host.Cell → Prop} (h : Hdr) (f : FmtA) (s : State) (hq : Q s.mem) :
    (execCtxsvResume h f s).MemSat Q :=
  issue_memSat hq hq (by simp [hq])

theorem execCtxsvKill_memSat {Q : List Host.Cell → Prop} (h : Hdr) (f : FmtA) (s : State) (hq : Q s.mem) :
    (execCtxsvKill h f s).MemSat Q :=
  issue_memSat hq hq (by simp [hq])

theorem execPreemptionCut_wf (s : State) (hs : Memory.wf s.mem = true) : (execPreemptionCut s).MemSat (Memory.wf · = true) := by
  unfold execPreemptionCut; dsimp only; repeat' split
  all_goals simp [hs]

theorem execGracePeriodExpiry_wf (s : State) (hs : Memory.wf s.mem = true) :
    (execGracePeriodExpiry s).MemSat (Memory.wf · = true) := by
  unfold execGracePeriodExpiry; dsimp only; repeat' split
  all_goals simp [hs]

/-- The blocks and the size of an envelope, as two functions that say nothing of how they are found: with `envelope` itself in the
way, the kernel would take 0x4100 from a size one by one. -/
theorem exists_envelope_eq : ∃ (blocks : Nat → Nat → BitVec 32 → List (List Byte × Nat) → List (Nat × List Byte))
    (size : Nat → Nat → BitVec 32 → List (List Byte × Nat) → Nat),
    envelope = fun estate len etnext secs => (blocks estate len etnext secs, size estate len etnext secs) := ⟨_, _, rfl⟩

theorem execPreemptionSaveWrite_wf (s : State) (hs : Memory.wf s.mem = true) :
    (execPreemptionSaveWrite s).MemSat (Memory.wf · = true) := by
  unfold execPreemptionSaveWrite
  obtain ⟨blocks, size, he⟩ := exists_envelope_eq
  rw [he]
  dsimp only; split
  · split
    · exact hs
    · split
      · exact s.hubFault_wf _ _ _ _ hs
      · next h =>
        have ht := State.hubWrites_wf h (by rw [State.saveImage_mem]; exact s.flushed_wf _ hs)
        split <;> simp [ht]
  · exact hs

theorem execStoragePhase_wf (s : State) (hs : Memory.wf s.mem = true) : (execStoragePhase s).MemSat (Memory.wf · = true) := by
  unfold execStoragePhase; dsimp only
  split
  · exact hs
  · split
    · simp [hs]
    · next h =>
      have ht := State.storeCtxs_wf h (by simpa using hs)
      rw [Out.memSat_next, State.report_mem, foldl_mem, foldl_mem _ _ _ fun t f => State.fence_mem .., State.modBays_mem]
      · exact ht
      · intro t d
        split <;> simp

theorem execShiftComplete_memSat {Q : List Host.Cell → Prop} (s : State) (hq : Q s.mem) : (execShiftComplete s).MemSat Q := by
  unfold execShiftComplete; dsimp only; repeat' split
  all_goals simp [hq]

/-! ### What moves by the rules of Sys2Proof/Machine/Retirement.lean -/

theorem execTerminationFirstSample_memSat {Q : List Host.Cell → Prop} (s : State) (hq : Q s.mem) :
    (execTerminationFirstSample s).MemSat Q := by
  simp [execTerminationFirstSample, hq]

theorem execTerminationSecondSample_wf (s : State) (hs : Memory.wf s.mem = true) :
    (execTerminationSecondSample s).MemSat (Memory.wf · = true) := by
  unfold execTerminationSecondSample; dsimp only; repeat' split
  all_goals simp [hs]

/-! ### What moves by the rules of Sys2Proof/Machine/Launch.lean -/

/-- A head that is refused at once leaves memory canonical. -/
theorem State.takeHead_refuse_wf (s : State) (q status : Nat) (l : Launch) (st : Stage) (e : Option (BitVec 32))
    (hs : Memory.wf s.mem = true) : Memory.wf ((s.takeHead q l st e).refuse q status).mem = true :=
  State.refuse_wf _ _ _ (by rwa [State.takeHead_mem])

/-- A head that is consumed with a queue error leaves memory canonical. -/
theorem State.takeHead_error_wf (s : State) (q cause status : Nat) (l : Launch) (st : Stage) (e : Option (BitVec 32))
    (seq : BitVec 32) (hs : Memory.wf s.mem = true) :
    Memory.wf (((s.takeHead q l st e).queueError q cause).consumeHead q seq status).mem = true :=
  State.consumeHead_wf _ _ _ _ (by rwa [State.queueError_mem, State.takeHead_mem])

theorem execHeadChecks_wf (s : State) (hs : Memory.wf s.mem = true) : (execHeadChecks s).MemSat (Memory.wf · = true) := by
  unfold execHeadChecks
  extract_lets q x bs l d
  split
  · exact hs
  · split
    · exact State.flushRun_wf _ _ _ (s.refuseNow_wf _ hs)
    · split
      · exact s.flushRun_wf _ _ hs
      · split
        · exact hs
        · generalize x.follows l.seq = p
          obtain ⟨m, e⟩ := p
          dsimp -zeta only
          extract_lets early
          have hearly (status cause : Nat) : Memory.wf (early status cause).mem = true := by
            simp only [early]; split
            · exact s.takeHead_refuse_wf _ _ _ _ _ hs
            · exact s.takeHead_error_wf _ _ _ _ _ _ _ hs
          clear_value early
          repeat' split
          · exact hearly _ _
          · exact hearly _ _
          · exact s.takeHead_error_wf _ _ _ _ _ _ _ hs
          · exact s.takeHead_refuse_wf _ _ _ _ _ hs
          · exact s.takeHead_refuse_wf _ _ _ _ _ hs
          · exact s.takeHead_refuse_wf _ _ _ _ _ hs
          · exact s.takeHead_refuse_wf _ _ _ _ _ hs
          · rw [Out.memSat_next, State.takeHead_mem]; exact hs
    · exact hs

theorem execHoldRelease_wf (s : State) (hs : Memory.wf s.mem = true) : (execHoldRelease s).MemSat (Memory.wf · = true) := by
  unfold execHoldRelease; dsimp only; repeat' split
  all_goals simp [hs]

theorem execImageFetch_wf (s : State) (hs : Memory.wf s.mem = true) : (execImageFetch s).MemSat (Memory.wf · = true) := by
  unfold execImageFetch; dsimp only; repeat' split
  all_goals simp [hs]

/-! ### What moves by the rules of Sys2Proof/Machine/Allocator.lean -/

theorem execStrandGrant_wf (s : State) (hs : Memory.wf s.mem = true) : (execStrandGrant s).MemSat (Memory.wf · = true) := by
  unfold execStrandGrant
  split
  · exact s.grant_wf _ hs
  · exact hs

theorem execCompaction_memSat {Q : List Host.Cell → Prop} (s : State) (hq : Q s.mem) : (execCompaction s).MemSat Q := by
  unfold execCompaction; dsimp only; repeat' split
  all_goals simp [hq]

theorem execCompactionMoveDone_wf (s : State) (hs : Memory.wf s.mem = true) :
    (execCompactionMoveDone s).MemSat (Memory.wf · = true) := by
  unfold execCompactionMoveDone; dsimp only; repeat' split
  all_goals simp [hs]

theorem execAllocatorPreemptionTimeout_memSat {Q : List Host.Cell → Prop} (s : State) (hq : Q s.mem) :
    (execAllocatorPreemptionTimeout s).MemSat Q := by
  unfold execAllocatorPreemptionTimeout; dsimp only; repeat' split
  all_goals simp [hq]

/-! ### What moves by the rules of Sys2Proof/Machine/HostAccess.lean -/

theorem execQueueSlotWrite_memSat {Q : List Host.Cell → Prop} (a : HostAcc) (q slot off : Nat) (data : List Byte) (s : State)
    (hq : Q s.mem) : (execQueueSlotWrite a q slot off data s).MemSat Q :=
  s.answers_memSat a _ hq (by simp [hq])

theorem execLaunchCommit_memSat {Q : List Host.Cell → Prop} (a : HostAcc) (q slot off : Nat) (data : List Byte) (s : State)
    (hq : Q s.mem) : (execLaunchCommit a q slot off data s).MemSat Q :=
  s.answers_memSat a _ hq (by simp [hq])

theorem execQstatErrvClear_memSat {Q : List Host.Cell → Prop} (a : HostAcc) (q : Nat) (s : State) (hq : Q s.mem) :
    (execQstatErrvClear a q s).MemSat Q :=
  s.answers_memSat a _ hq (by simp [hq])

theorem execQueueFlush_wf (a : HostAcc) (q : Nat) (s : State) (hs : Memory.wf s.mem = true) :
    (execQueueFlush a q s).MemSat (Memory.wf · = true) :=
  s.answers_memSat (Q := (Memory.wf · = true)) a _ hs (by simp [hs])

theorem execSemaphoreClaim_memSat {Q : List Host.Cell → Prop} (a : HostAcc) (n : Nat) (s : State) (hq : Q s.mem) :
    (execSemaphoreClaim a n s).MemSat Q :=
  s.answers_memSat a _ hq (by simp [hq])

theorem execSemaphoreRelease_memSat {Q : List Host.Cell → Prop} (a : HostAcc) (n : Nat) (s : State) (hq : Q s.mem) :
    (execSemaphoreRelease a n s).MemSat Q :=
  s.answers_memSat a _ hq (by simp [hq])

theorem execSemaphoreForceRelease_memSat {Q : List Host.Cell → Prop} (a : HostAcc) (n : Nat) (s : State) (hq : Q s.mem) :
    (execSemaphoreForceRelease a n s).MemSat Q :=
  s.answers_memSat a _ hq (by simp [hq])

theorem execAsidBind_memSat {Q : List Host.Cell → Prop} (a : HostAcc) (v : Word) (s : State) (hq : Q s.mem) :
    (execAsidBind a v s).MemSat Q :=
  s.answers_memSat a _ hq (by simp [hq])

theorem execAsidBindDone_memSat {Q : List Host.Cell → Prop} (s : State) (hq : Q s.mem) : (execAsidBindDone s).MemSat Q := by
  simp [execAsidBindDone, hq]

theorem execCtxkill_wf (a : HostAcc) (v : Word) (s : State) (hs : Memory.wf s.mem = true) :
    (execCtxkill a v s).MemSat (Memory.wf · = true) :=
  s.answers_memSat (Q := (Memory.wf · = true)) a _ hs (by simp [hs])

theorem execErrlogClear_memSat {Q : List Host.Cell → Prop} (a : HostAcc) (s : State) (hq : Q s.mem) : (execErrlogClear a s).MemSat Q :=
  s.answers_memSat a _ hq (by simp [hq])

theorem execMsixUnmask_memSat {Q : List Host.Cell → Prop} (a : HostAcc) (vec : Option Nat) (s : State) (hq : Q s.mem) :
    (execMsixUnmask a vec s).MemSat Q := by
  unfold execMsixUnmask; dsimp only
  cases vec with
  | none => exact s.configures_memSat a _ hq (by simp [hq])
  | some v => exact s.answers_memSat a _ hq (by simp [hq])

theorem execPcapWrite_memSat {Q : List Host.Cell → Prop} (a : HostAcc) (v : Word) (s : State) (hq : Q s.mem) :
    (execPcapWrite a v s).MemSat Q := by
  unfold execPcapWrite
  split
  · exact s.maryonAnswers_memSat _ hq (by simp [hq])
  · exact s.answers_memSat a _ hq (by simp [hq])

theorem execAttestationRequest_memSat {Q : List Host.Cell → Prop} (a : HostAcc) (s : State) (hq : Q s.mem) :
    (execAttestationRequest a s).MemSat Q := by
  unfold execAttestationRequest
  split
  · exact s.maryonAnswers_memSat _ hq (by simp [hq])
  · exact s.answers_memSat a _ hq (by simp [hq])

theorem execRegisterWrite_wf (a : HostAcc) (off : Nat) (v : Option Word) (s : State) (hs : Memory.wf s.mem = true) :
    (execRegisterWrite a off v s).MemSat (Memory.wf · = true) := by
  unfold execRegisterWrite
  split
  · refine s.maryonAnswers_memSat (Q := (Memory.wf · = true)) _ hs ?_
    cases v <;> simp [hs]
  · refine s.answers_memSat (Q := (Memory.wf · = true)) a _ hs ?_
    cases v <;> simp [hs]

/-! ### What moves by the rules of Sys2Proof/Machine/Module.lean -/

theorem execInboundPortWrite_wf (p : Port) (pa : Nat) (data : List Byte) (s : State) (hs : Memory.wf s.mem = true) :
    (execInboundPortWrite p pa data s).MemSat (Memory.wf · = true) := by
  simp [execInboundPortWrite, hs]

theorem execPeerInboundRequest_wf (r : PeerReq) (s : State) (hs : Memory.wf s.mem = true) :
    (execPeerInboundRequest r s).MemSat (Memory.wf · = true) := by
  simp [execPeerInboundRequest, hs]

theorem execPciExpressPortReset_memSat {Q : List Host.Cell → Prop} (p : Port) (s : State) (hq : Q s.mem) :
    (execPciExpressPortReset p s).MemSat Q := by
  simp [execPciExpressPortReset, hq]

theorem execPowerStepRise_memSat {Q : List Host.Cell → Prop} (s : State) (hq : Q s.mem) : (execPowerStepRise s).MemSat Q := by
  simp [execPowerStepRise, hq]

theorem execPowerStepFall_memSat {Q : List Host.Cell → Prop} (s : State) (hq : Q s.mem) : (execPowerStepFall s).MemSat Q := by
  simp [execPowerStepFall, hq]

theorem execThermalStepRise_memSat {Q : List Host.Cell → Prop} (s : State) (hq : Q s.mem) : (execThermalStepRise s).MemSat Q := by
  simp [execThermalStepRise, hq]

theorem execThermalStepFall_memSat {Q : List Host.Cell → Prop} (s : State) (hq : Q s.mem) : (execThermalStepFall s).MemSat Q := by
  simp [execThermalStepFall, hq]

theorem execThermalTrip_memSat {Q : List Host.Cell → Prop} (s : State) (hq : Q s.mem) : (execThermalTrip s).MemSat Q := by
  simp [execThermalTrip, hq]

theorem execFlitCrcRetry_memSat {Q : List Host.Cell → Prop} (s : State) (hq : Q s.mem) : (execFlitCrcRetry s).MemSat Q := by
  simp [execFlitCrcRetry, hq]

theorem execLinkRetrain_memSat {Q : List Host.Cell → Prop} (link : Nat) (ok : Bool) (s : State) (hq : Q s.mem) :
    (execLinkRetrain link ok s).MemSat Q := by
  simp [execLinkRetrain, hq]

theorem execCorrectedError_wf (u : ErrUnit) (idx addr : Nat) (s : State) (hs : Memory.wf s.mem = true) :
    (execCorrectedError u idx addr s).MemSat (Memory.wf · = true) := by
  simp [execCorrectedError, hs]

theorem execUncorrectableError_wf (p : ErrPlace) (s : State) (hs : Memory.wf s.mem = true) :
    (execUncorrectableError p s).MemSat (Memory.wf · = true) := by
  unfold execUncorrectableError; dsimp only; repeat' split
  all_goals simp [hs]

theorem execCellRetirement_memSat {Q : List Host.Cell → Prop} (s : State) (hq : Q s.mem) : (execCellRetirement s).MemSat Q := by
  simp [execCellRetirement, hq]

theorem execDynamicAddressAssignment_memSat {Q : List Host.Cell → Prop} (addr : BitVec 7) (s : State) (hq : Q s.mem) :
    (execDynamicAddressAssignment addr s).MemSat Q := by
  simp [execDynamicAddressAssignment, hq]

theorem execAttestationReportReady_memSat {Q : List Host.Cell → Prop} (s : State) (hq : Q s.mem) :
    (execAttestationReportReady s).MemSat Q := by
  simp [execAttestationReportReady, hq]

theorem execColdStart_wf (s : State) (hs : Memory.wf s.mem = true) : (execColdStart s).MemSat (Memory.wf · = true) := by
  have ht := s.afterReset_wf hs
  unfold execColdStart; dsimp only; repeat' split
  · exact ht
  · exact State.bringUp_wf _ _ _ ht
  · exact ht

/-! ### What moves by the rules of Sys2Proof/Machine/Perform.lean -/

theorem execPerformQueueHead_wf (cell : Nat) (k : QueuePick) (s : State) (hs : Memory.wf s.mem = true) :
    (execPerformQueueHead cell k s).MemSat (Memory.wf · = true) := by
  unfold execPerformQueueHead
  split
  · exact hs
  · exact s.perform_wf _ _ _ hs

theorem execCopyBurstLand_wf (cell k : Nat) (runs : CopyPick) (s : State) (hs : Memory.wf s.mem = true) :
    (execCopyBurstLand cell k runs s).MemSat (Memory.wf · = true) := by
  unfold execCopyBurstLand
  split
  · exact hs
  · exact s.copyLand_wf _ _ _ _ _ hs

theorem execCopyComplete_memSat {Q : List Host.Cell → Prop} (cell k : Nat) (s : State) (hq : Q s.mem) :
    (execCopyComplete cell k s).MemSat Q := by
  unfold execCopyComplete; dsimp only; repeat' split
  all_goals simp [hq]

theorem execBridleEvaluation_wf (home : BridleHome) (s : State) (hs : Memory.wf s.mem = true) :
    (execBridleEvaluation home s).MemSat (Memory.wf · = true) := by
  simp [execBridleEvaluation, hs]

theorem execWatchFire_memSat {Q : List Host.Cell → Prop} (s : State) (hq : Q s.mem) : (execWatchFire s).MemSat Q := by
  unfold execWatchFire
  split
  · exact hq
  · split
    · exact hq
    · rw [Out.memSat_next, foldl_mem]
      · exact hq
      · intro t q
        dsimp only; split <;> simp

theorem execAsyncCompletion_memSat {Q : List Host.Cell → Prop} (cell k : Nat) (s : State) (hq : Q s.mem) :
    (execAsyncCompletion cell k s).MemSat Q := by
  unfold execAsyncCompletion; dsimp only; repeat' split
  all_goals simp [hq]

/-! ### One instruction -/

/-- Whatever an instruction, an access or an event answers, its memory is canonical when memory was: most leave it alone, the others
change it by writes of bytes or forget what a cold start forgets. -/
theorem exec_wf (i : Instr) (s : State) (hs : Memory.wf s.mem = true) :
    Out.MemSat (Memory.wf · = true) (exec i s) := by
  cases i with
  | nop | br | call | ret | loop | sleep | trap | brk | xrd | xwr | add | sub | mul | mulh | div | rem | andS | orS | xorS | shl |
    shr | sra | min | max | cmp | sel | clz | popc | addi | andi | ori | xori | li | shli | shri | srai | cmpi | lih | mov |
    fadd | fsub | fmul | fma | fmin | fmax | fcmp | fcvt | fcls | vadd | vsub | vmul | vmulh | vand | vor | vxor | vshl | vshr |
    vsra | vmin | vmax | vabs | vcmp | vsel | vmac | vfadd | vfsub | vfmul | vfma | vfmin | vfmax | vfneg | vfcmp | vexp2 |
    vlog2 | vrcp | vrsq | vredsum | vredmax | vscale | vcvt | vqbx | vdqbx | vperm | vbcast | vext | vins | vzip | vunzip | vtr4 |
    vshf | vpack | vunpack | kand | kor | kxor | knot | kmov | kpop | kfirst | kset | sadv | cpq | mma | mzero | mrd | mscl |
    gqry | syrd =>
    exact issueReg_memSat (Q := (Memory.wf · = true)) hs
  | queueSlotWrite a q slot off data => exact execQueueSlotWrite_memSat a q slot off data s hs
  | launchCommit a q slot off data => exact execLaunchCommit_memSat a q slot off data s hs
  | qstatErrvClear a q => exact execQstatErrvClear_memSat a q s hs
  | queueFlush a q => exact execQueueFlush_wf a q s hs
  | semaphoreClaim a n => exact execSemaphoreClaim_memSat a n s hs
  | semaphoreRelease a n => exact execSemaphoreRelease_memSat a n s hs
  | semaphoreForceRelease a n => exact execSemaphoreForceRelease_memSat a n s hs
  | asidBind a v => exact execAsidBind_memSat a v s hs
  | ctxkill a v => exact execCtxkill_wf a v s hs
  | errlogClear a => exact execErrlogClear_memSat a s hs
  | pcapWrite a v => exact execPcapWrite_memSat a v s hs
  | attestationRequest a => exact execAttestationRequest_memSat a s hs
  | msixUnmask a vec => exact execMsixUnmask_memSat a vec s hs
  | registerWrite a off v => exact execRegisterWrite_wf a off v s hs
  | microprogramBroadcast ar crcFail => exact execMicroprogramBroadcast_wf ar crcFail s hs
  | bridleEvaluation home => exact execBridleEvaluation_wf home s hs
  | asyncCompletion cell k => exact execAsyncCompletion_memSat cell k s hs
  | copyBurstLand cell k runs => exact execCopyBurstLand_wf cell k runs s hs
  | copyComplete cell k => exact execCopyComplete_memSat cell k s hs
  | multicastRowMove ar grp link => exact execMulticastRowMove_memSat ar grp link s hs
  | multicastRowLand ar grp cell => exact execMulticastRowLand_memSat ar grp cell s hs
  | channelMessageDelivery ar cell => exact execChannelMessageDelivery_memSat ar cell s hs
  | clearToSendArrival m => exact execClearToSendArrival_memSat m s hs
  | chunkMessageArrival m => exact execChunkMessageArrival_memSat m s hs
  | acknowledgementArrival m => exact execAcknowledgementArrival_memSat m s hs
  | signalArrival m => exact execSignalArrival_memSat m s hs
  | abortArrival m => exact execAbortArrival_memSat m s hs
  | linkRetrain link ok => exact execLinkRetrain_memSat link ok s hs
  | correctedError u idx addr => exact execCorrectedError_wf u idx addr s hs
  | uncorrectableError p => exact execUncorrectableError_wf p s hs
  | pciExpressPortReset p => exact execPciExpressPortReset_memSat p s hs
  | inboundPortWrite p pa data => exact execInboundPortWrite_wf p pa data s hs
  | peerInboundRequest r => exact execPeerInboundRequest_wf r s hs
  | performQueueHead cell k => exact execPerformQueueHead_wf cell k s hs
  | dynamicAddressAssignment addr => exact execDynamicAddressAssignment_memSat addr s hs
  | endApp h f => exact execEnd_memSat h f s hs
  | cmt h f => exact execCmt_memSat h f s hs
  | ld h f => exact execLd_memSat h f s hs
  | st h f => exact execSt_memSat h f s hs
  | lds h f => exact execLds_memSat h f s hs
  | sts h f => exact execSts_memSat h f s hs
  | ldg h f => exact execLdg_memSat h f s hs
  | stg h f => exact execStg_memSat h f s hs
  | ldx h f => exact execLdx_memSat h f s hs
  | stx h f => exact execStx_memSat h f s hs
  | shpSym h f => exact execShpSym_memSat h f s hs
  | shpVec h f => exact execShpVec_memSat h f s hs
  | shpExt h f => exact execShpExt_memSat h f s hs
  | pfg h f => exact execPfg_memSat h f s hs
  | cpy h f => exact execCpy_memSat h f s hs
  | talloc h f => exact execTalloc_memSat h f s hs
  | tfree h f => exact execTfree_memSat h f s hs
  | tshr h f => exact execTshr_memSat h f s hs
  | bld h f => exact execBld_memSat h f s hs
  | bldm h f => exact execBldm_memSat h f s hs
  | mmt h f => exact execMmt_memSat h f s hs
  | mst h f => exact execMst_memSat h f s hs
  | gld h f => exact execGld_memSat h f s hs
  | grel h f => exact execGrel_memSat h f s hs
  | gbind h f => exact execGbind_memSat h f s hs
  | gstr h f => exact execGstr_memSat h f s hs
  | gcol h f => exact execGcol_memSat h f s hs
  | gctx h f => exact execGctx_memSat h f s hs
  | gfrz h f => exact execGfrz_memSat h f s hs
  | gthaw h f => exact execGthaw_memSat h f s hs
  | fence h f => exact execFence_memSat h f s hs
  | sbar h f => exact execSbar_memSat h f s hs
  | atom h f => exact execAtom_memSat h f s hs
  | brinit h f => exact execBrinit_memSat h f s hs
  | brarr h f => exact execBrarr_memSat h f s hs
  | brdrop h f => exact execBrdrop_memSat h f s hs
  | brexp h f => exact execBrexp_memSat h f s hs
  | brwait h f => exact execBrwait_memSat h f s hs
  | brtest h f => exact execBrtest_memSat h f s hs
  | flwait h f => exact execFlwait_memSat h f s hs
  | flset h f => exact execFlset_memSat h f s hs
  | emit h f => exact execEmit_memSat h f s hs
  | emitt h f => exact execEmitt_memSat h f s hs
  | abc h f => exact execAbc_memSat h f s hs
  | ard h f => exact execArd_memSat h f s hs
  | ascn h f => exact execAscn_memSat h f s hs
  | asnd h f => exact execAsnd_memSat h f s hs
  | arcv h f => exact execArcv_memSat h f s hs
  | nbr h f => exact execNbr_memSat h f s hs
  | tok h f => exact execTok_memSat h f s hs
  | opnd h f => exact execOpnd_memSat h f s hs
  | rlload h f => exact execRlload_memSat h f s hs
  | rlgo h f => exact execRlgo_memSat h f s hs
  | rlpost h f => exact execRlpost_memSat h f s hs
  | rlstat h f => exact execRlstat_memSat h f s hs
  | xwrp h f => exact execXwrp_memSat h f s hs
  | tlbiPage h f => exact execTlbiPage_memSat h f s hs
  | tlbiRange h f => exact execTlbiRange_memSat h f s hs
  | tlbiAsid h f => exact execTlbiAsid_memSat h f s hs
  | ptst h f => exact execPtst_memSat h f s hs
  | fltdoneOk h f => exact execFltdoneOk_wf h f s hs
  | fltdoneFail h f => exact execFltdoneFail_wf h f s hs
  | fltdoneIrq h f => exact execFltdoneIrq_memSat h f s hs
  | asret h f => exact execAsret_memSat h f s hs
  | ctxsvSave h f => exact execCtxsvSave_memSat h f s hs
  | ctxsvForce h f => exact execCtxsvForce_memSat h f s hs
  | ctxsvResume h f => exact execCtxsvResume_memSat h f s hs
  | ctxsvKill h f => exact execCtxsvKill_memSat h f s hs
  | reelNop w => exact execReelNop_memSat w s hs
  | reelEnd w => exact execReelEnd_memSat w s hs
  | send w => exact execSend_wf w s hs
  | recv w => exact execRecv_wf w s hs
  | rrc w => exact execRrc_wf w s hs
  | red w => exact execRed_wf w s hs
  | redany w => exact execRedany_wf w s hs
  | ccpy w => exact execCcpy_wf w s hs
  | xf w => exact execXf_wf w s hs
  | lflag w => exact execLflag_wf w s hs
  | sig w => exact execSig_memSat w s hs
  | cwait w => exact execCwait_memSat w s hs
  | setc w => exact execSetc_memSat w s hs
  | decb w => exact execDecb_memSat w s hs
  | seqb w => exact execSeqb_memSat w s hs
  | mark w => exact execMark_memSat w s hs
  | attestationReportReady => exact execAttestationReportReady_memSat s hs
  | headChecks => exact execHeadChecks_wf s hs
  | holdRelease => exact execHoldRelease_wf s hs
  | imageFetch => exact execImageFetch_wf s hs
  | strandGrant => exact execStrandGrant_wf s hs
  | sweepP => exact execSweepP_wf s hs
  | joinedSweepStart => exact execJoinedSweepStart_wf s hs
  | hubCacheFetch => exact execHubCacheFetch_wf s hs
  | lClose => exact execLClose_memSat s hs
  | areaStart => exact execAreaStart_wf s hs
  | abortContextStop => exact execAbortContextStop_wf s hs
  | storagePhase => exact execStoragePhase_wf s hs
  | shiftComplete => exact execShiftComplete_memSat s hs
  | compaction => exact execCompaction_memSat s hs
  | compactionMoveDone => exact execCompactionMoveDone_wf s hs
  | allocatorPreemptionTimeout => exact execAllocatorPreemptionTimeout_memSat s hs
  | commit => exact execCommit_memSat s hs
  | trapAtRoot => exact execTrapAtRoot_wf s hs
  | areaStall => exact execAreaStall_memSat s hs
  | tableWalk => exact execTableWalk_memSat s hs
  | confirmingWalk => exact execConfirmingWalk_wf s hs
  | sampleReport => exact execSampleReport_wf s hs
  | watchFire => exact execWatchFire_memSat s hs
  | sleepExpiry => exact execSleepExpiry_memSat s hs
  | graphStep => exact execGraphStep_memSat s hs
  | quantumExpiry => exact execQuantumExpiry_memSat s hs
  | planeIdleTimeout => exact execPlaneIdleTimeout_memSat s hs
  | planeSwitchDone => exact execPlaneSwitchDone_memSat s hs
  | linkRefusal => exact execLinkRefusal_memSat s hs
  | portReset => exact execPortReset_memSat s hs
  | portUpResend => exact execPortUpResend_memSat s hs
  | flitCrcRetry => exact execFlitCrcRetry_memSat s hs
  | cellRetirement => exact execCellRetirement_memSat s hs
  | powerStepRise => exact execPowerStepRise_memSat s hs
  | powerStepFall => exact execPowerStepFall_memSat s hs
  | thermalStepRise => exact execThermalStepRise_memSat s hs
  | thermalStepFall => exact execThermalStepFall_memSat s hs
  | thermalTrip => exact execThermalTrip_memSat s hs
  | coldStart => exact execColdStart_wf s hs
  | gracePeriodExpiry => exact execGracePeriodExpiry_wf s hs
  | preemptionCut => exact execPreemptionCut_wf s hs
  | preemptionSaveWrite => exact execPreemptionSaveWrite_wf s hs
  | terminationFirstSample => exact execTerminationFirstSample_memSat s hs
  | terminationSecondSample => exact execTerminationSecondSample_wf s hs
  | propagateWrite => exact execPropagateWrite_wf s hs
  | asidBindDone => exact execAsidBindDone_memSat s hs

/-! ### The next move -/

/-- The state in which a move is made, or which it has reached, has memory canonical. -/
def Fetched.Wf : Fetched → Prop
  | .run _ t => Memory.wf t.mem = true
  | .reached t => Memory.wf t.mem = true

theorem State.fetchCell_wf (s : State) (c : Nat) (hs : Memory.wf s.mem = true) : (s.fetchCell c).Wf := by
  unfold State.fetchCell; dsimp only
  split
  · exact hs
  · split
    · simp [Fetched.Wf, hs]
    · split
      · exact hs
      · simp [Fetched.Wf, hs]

theorem State.fetchReel_wf (s : State) (r ch : Nat) (hs : Memory.wf s.mem = true) : (s.fetchReel r ch).Wf := by
  unfold State.fetchReel; dsimp only; repeat' split
  all_goals exact hs

theorem State.fetch_wf (s : State) (hs : Memory.wf s.mem = true) : s.fetch.Wf := by
  have hm : Memory.wf s.tied.nextMove.2.mem = true := by simpa using hs
  unfold State.fetch
  generalize s.tied.nextMove = p at hm
  obtain ⟨m, u⟩ := p
  dsimp only; split
  · exact hm
  · split
    · exact hm
    · split
      · exact u.cycle_wf hm
      · exact u.fetchCell_wf _ hm
      · exact u.fetchReel_wf _ _ hm
      · split <;> exact hm
      · split
        · exact Memory.wf_tset _ _ _ hm
        · exact hm
      · exact hm

/-- Settles O59: what moves next is fetched in canonical memory, and its execution writes bytes one at a time, each write keeping the
bytes in order and none of them 0. -/
theorem memoryCanonicalStep : Obligations.MemoryCanonicalStep := by
  unfold Obligations.MemoryCanonicalStep
  intro s t hs hst
  have hf := s.fetch_wf hs
  unfold step at hst
  split at hst
  · next i u h =>
    rw [h] at hf
    have he := exec_wf i u hf
    rwa [hst] at he
  · next u h =>
    rw [h] at hf
    cases hst
    exact hf

end Sys2Proof.Machine
end


section
/-! The instructions that make shape records and those of tile space (O35): first what issue answers for an instruction that meets no
hold, then that a checked record does not depend on translation and caches, then for each instruction what its rule answers, and
last `talloc`'s search, whose lowest clear run is the lowest of the candidates the model tries. -/

namespace Sys2Proof.Machine

open Sys2Proof

/-! ### Issue of an instruction that is ready -/

section
variable {s : State} {h : Hdr} {uses : List Reg}

theorem Ready.issue_ok {skip : State → State} {body : State → Res} {t : State} (hr : Ready s h uses) (hb : body s = .ok t) :
    issue h false uses skip body s = t.advance := by
  obtain ⟨hw, hg, hm⟩ := hr
  exact Machine.issue_ok s h false uses skip body t hw (.inr hg) hm hb

theorem Ready.issue_trap {skip : State → State} {body : State → Res} {c b : Nat} {i : Word} (hr : Ready s h uses)
    (hb : body s = .trap c b i) : issue h false uses skip body s = s.raiseTrap c b i := by
  obtain ⟨hw, hg, hm⟩ := hr
  exact Machine.issue_trap s h false uses skip body c b i hw (.inr hg) hm hb

theorem Ready.issueReg_ok {body : AppCell → AppRes} {b : AppCell} (hr : Ready s h uses) (hb : body s.app = .ok b) :
    issueReg h false uses body s = s.retire b (s.app.pc + 1) := by
  obtain ⟨hw, hg, hm⟩ := hr
  exact Machine.issueReg_ok s h false uses body b hw (.inr hg) hm hb
end

/-! ### The acting application and its cell after a change -/

section
variable (s : State)

@[simp] theorem State.advance_app : s.advance.app = s.app.goto (s.app.pc + 1) := s.retire_app _ _
@[simp] theorem State.advance_cellAt (c : Nat) : s.advance.cellAt c = s.cellAt c := rfl
@[simp] theorem State.putApp_cellAt (x : AppCell) (c : Nat) : (s.putApp x).cellAt c = s.cellAt c := rfl
@[simp] theorem State.cellAt_modCell (c : Nat) (g : Cell → Cell) : (s.modCell c g).cellAt c = g (s.cellAt c) :=
  s.cellAt_putCell c _

/-- A change of the acting cell that leaves what it serves leaves its application. -/
theorem State.app_modCell (g : Cell → Cell) (hg : (g (s.cellAt s.cur)).serve = (s.cellAt s.cur).serve) :
    (s.modCell s.cur g).app = s.app := by
  have hhere : (s.modCell s.cur g).here = s.here := by
    have hc : (s.modCell s.cur g).cellAt s.cur = g (s.cellAt s.cur) := s.cellAt_modCell s.cur g
    calc (s.modCell s.cur g).here = ((s.modCell s.cur g).cellAt s.cur).serve.headD 0 := rfl
      _ = s.here := by rw [hc, hg, State.here]
  calc (s.modCell s.cur g).app = tget AppCell.start (s.areaAt (s.modCell s.cur g).here).apps s.cur := rfl
    _ = s.app := by rw [hhere]; rfl
end

@[simp] theorem AppCell.setS_pc (a : AppCell) (n : Nat) (w : Word) : (a.setS n w).pc = a.pc := by
  unfold AppCell.setS
  split <;> rfl

/-! ### What translation and caches leave alone -/

/-- A state without its bays and the translations of its reels. -/
def State.besideBays (s : State) : State := { s with bays := [], reelTlb := [] }

@[simp] theorem State.modBay_besideBays (s : State) (b : Nat) (g : Bay → Bay) : (s.modBay b g).besideBays = s.besideBays := rfl

@[simp] theorem State.useTlb_besideBays (s : State) (h : TlbHome) (es : List TlbEnt) :
    (s.useTlb h es).besideBays = s.besideBays := by
  unfold State.useTlb
  split
  · rfl
  · cases h <;> rfl

@[simp] theorem State.keepLine_besideBays (s : State) (b : Option Nat) (pol sc pa : Nat) (wr : Bool) :
    (s.keepLine b pol sc pa wr).besideBays = s.besideBays := by
  unfold State.keepLine
  dsimp only
  repeat' split
  all_goals rfl

@[simp] theorem State.keepLines_besideBays (s : State) (b : Option Nat) (pol : Nat) (wr : Bool) (l : List (Nat × TlbEnt)) :
    (s.keepLines b pol wr l).besideBays = s.besideBays :=
  List.foldlRecOn (motive := fun t : State => t.besideBays = s.besideBays) _ _ rfl (fun t ht q _ => by simpa using ht)

@[simp] theorem State.touchedHome_besideBays (s : State) (h : TlbHome) (wr : Bool) (l : List (Nat × TlbEnt)) :
    (s.touchedHome h wr l).besideBays = s.besideBays := by
  simp [State.touchedHome]

@[simp] theorem State.shapeKeep_besideBays (s : State) (shx : Nat) (r : ShapeRec × Bool) :
    (s.shapeKeep shx r).besideBays = s.besideBays := by
  simp [State.shapeKeep]

/-- The checks of R165 read neither bays nor the translations of reels. -/
theorem State.recordCheck_congr {s t : State} (hst : t.besideBays = s.besideBays) (r : ShapeRec) (clean : Bool) :
    t.recordCheck r clean = s.recordCheck r clean :=
  calc t.recordCheck r clean = t.besideBays.recordCheck r clean := rfl
    _ = s.besideBays.recordCheck r clean := by rw [hst]
    _ = s.recordCheck r clean := rfl

/-! ### Records (R165, R176, R177) -/

/-- The state with a record placed in a stream register, its cursor 0 and its translation entry empty. -/
def State.placed (s : State) (as : Nat) (r : ShapeRec) : State := s.putApp (s.app.setA as ⟨true, r, [], none⟩)

theorem State.makeRecord_of_check {s : State} {as : Nat} {r : ShapeRec} {clean : Bool} (hc : s.recordCheck r clean = none) :
    s.makeRecord as r clean = .ok (s.placed as r) := by
  rw [State.makeRecord, hc]
  rfl

/-- A record of the table with the base of the symbol that names it (R176). -/
def ShapeRec.basedBy (w : Word) (r : ShapeRec) : ShapeRec := { r with base := (w.extractLsb' 0 49).setWidth 64 <<< 6 }

/-- The place in the table of the record that an `ARRAY` symbol names (R176). -/
def arrayIndex (w : Word) : Nat := (w.extractLsb' 49 11).toNat

theorem isTile_of_array {w : Word} (ht : symTag w = tagARRAY) : isTile w = false := by
  rw [isTile, ht]
  rfl

section
variable {s : State} {h : Hdr} {f : FmtM} {w : Word}

theorem shpSym_tile (hr : Ready s h [sR f.d]) (hw : w = s.app.getS f.d.toNat) (ht : isTile w = true)
    (hc : s.recordCheck (tileRecord w) true = none) :
    exec (.shpSym h f) s = .next (s.placed f.as.toNat (tileRecord w)).advance := by
  refine congrArg _ (hr.issue_ok ?_)
  simp only [← hw, ht, if_true]
  exact State.makeRecord_of_check hc

theorem shpSym_beyond (hr : Ready s h [sR f.d]) (hw : w = s.app.getS f.d.toNat) (ht : symTag w = tagARRAY)
    (hn : s.shapeTable.2 ≤ arrayIndex w) : Traps (.shpSym h f) s 9 2 0 := by
  refine congrArg _ (hr.issue_trap ?_)
  simp only [← hw, isTile_of_array ht, ht, Bool.false_eq_true, if_false, if_true]
  exact if_pos hn

theorem shpSym_hit (hr : Ready s h [sR f.d]) (hw : w = s.app.getS f.d.toNat) (ht : symTag w = tagARRAY)
    (hn : arrayIndex w < s.shapeTable.2) {q : ShapeRec × Bool} (hq : s.shapeHit (arrayIndex w) = some q)
    (hc : s.recordCheck (q.1.basedBy w) q.2 = none) :
    exec (.shpSym h f) s = .next (s.placed f.as.toNat (q.1.basedBy w)).advance := by
  refine congrArg _ (hr.issue_ok ?_)
  rw [arrayIndex] at hn hq
  simp only [← hw, isTile_of_array ht, ht, Bool.false_eq_true, if_false, if_true, Nat.not_le.mpr hn, hq]
  exact State.makeRecord_of_check hc

theorem shpSym_read (hr : Ready s h [sR f.d]) (hw : w = s.app.getS f.d.toNat) (ht : symTag w = tagARRAY)
    (hn : arrayIndex w < s.shapeTable.2) (hmiss : s.shapeHit (arrayIndex w) = none) {l : List (Nat × TlbEnt)}
    (hl : s.transEnts s.home ⟨s.desc, false⟩ false (upto (s.shapeTable.1 + 64 * arrayIndex w) 64) = .ok l)
    {q : ShapeRec × Bool} (hq : q = ShapeRec.ofBytes ((l.map paOf).map (s.readByte Party.reel 0)))
    (hc : s.recordCheck (q.1.basedBy w) q.2 = none) :
    exec (.shpSym h f) s =
      .next (((s.touchedHome s.home false l).shapeKeep (arrayIndex w) q).placed f.as.toNat (q.1.basedBy w)).advance := by
  have hafter : ((s.touchedHome s.home false l).shapeKeep (arrayIndex w) q).recordCheck (q.1.basedBy w) q.2 = none := by
    rw [State.recordCheck_congr (s := s) (by simp), hc]
  refine congrArg _ (hr.issue_ok ?_)
  subst hq
  rw [arrayIndex] at hn hmiss hl
  simp only [← hw, isTile_of_array ht, ht, Bool.false_eq_true, if_false, if_true, Nat.not_le.mpr hn, hmiss, hl]
  exact State.makeRecord_of_check hafter

theorem shpVec_placed (hr : Ready s h [vR f.d]) {q : ShapeRec × Bool}
    (hq : q = ShapeRec.ofBytes (leBytes 64 (s.app.getV f.d.toNat).bits.toNat)) (hc : s.recordCheck q.1 q.2 = none) :
    exec (.shpVec h f) s = .next (s.placed f.as.toNat q.1).advance := by
  subst hq
  exact congrArg _ (hr.issue_ok (State.makeRecord_of_check hc))

theorem shpExt_placed (hr : Ready s h [sR f.ix]) {x : StreamReg} (hx : x = s.app.getA f.as.toNat) (hv : x.valid = true)
    (hk : f.d.toNat < x.rc.ndim) {r : ShapeRec}
    (he : r = { x.rc with ext := tset 0 x.rc.ext f.d.toNat ((s.app.getS f.ix.toNat).setWidth 32) })
    (hc : s.recordCheck r true = none) : exec (.shpExt h f) s = .next (s.placed f.as.toNat r).advance := by
  subst hx he
  refine congrArg _ (hr.issue_ok ?_)
  simp only [hv, Nat.not_le.mpr hk, Bool.not_true, Bool.false_eq_true, if_false]
  exact State.makeRecord_of_check hc

theorem sadv_retires (hr : Ready s h [sR f.ix]) {x : StreamReg} (hx : x = s.app.getA f.as.toNat) (hv : x.valid = true)
    (hk : f.d.toNat < x.rc.ndim) :
    Retires (.sadv h f) s (s.app.setA f.as.toNat
      (x.advance f.d.toNat (f.off.toInt + (s.app.getS f.ix.toNat).toInt))) := by
  subst hx
  refine congrArg _ (hr.issueReg_ok ?_)
  simp only [hv, Nat.not_le.mpr hk, Bool.not_true, Bool.false_eq_true, if_false]
  rfl
end

/-! ### The lowest free run (R190) -/

/-- The run of `len` bytes at `o` stands at a multiple of 32 within the tile store and meets no live run. -/
def Cell.ClearRun (c : Cell) (len o : Nat) : Prop :=
  o % 32 = 0 ∧ o + len ≤ Config.tileBytes ∧ ∀ r ∈ c.tiles, o + len ≤ r.off ∨ r.off + r.len ≤ o

/-- The places that `talloc` tries: 0 and the aligned ends of live runs. -/
def Cell.RunStart (c : Cell) (o : Nat) : Prop := o = 0 ∨ ∃ r ∈ c.tiles, alignUp (r.off + r.len) 32 = o

theorem alignUp_mod (x m : Nat) : alignUp x m % m = 0 := Nat.mul_mod_left _ _

/-- A fold that keeps the lesser of what it has and what it meets finds the least. -/
theorem foldl_eq_min? (g : Option Nat → Nat → Option Nat) (hnone : ∀ o, g none o = some o)
    (hsome : ∀ m o, g (some m) o = some (min m o)) (l : List Nat) : l.foldl g none = l.min? := by
  cases l with
  | nil => rfl
  | cons a l =>
    rw [List.foldl_cons, hnone, List.min?_cons']
    induction l generalizing a with
    | nil => rfl
    | cons b l ih => rw [List.foldl_cons, hsome, ih, List.foldl_cons]

theorem Cell.RunStart.aligned {c : Cell} {o : Nat} (ho : c.RunStart o) : o % 32 = 0 := by
  rcases ho with rfl | ⟨r, -, rfl⟩
  · rfl
  · exact alignUp_mod _ _

/-- What `talloc` finds is the least of the places it tries that are clear. -/
theorem Cell.freeRun_eq_min? (c : Cell) (len : Nat) :
    ∃ l : List Nat, c.freeRun len = l.min? ∧ ∀ o, o ∈ l ↔ c.RunStart o ∧ c.ClearRun len o := by
  refine ⟨_, foldl_eq_min? _ (fun _ => rfl) (fun _ _ => rfl) _, fun o => ?_⟩
  simp only [List.mem_filter, List.mem_cons, List.mem_map, Bool.and_eq_true, decide_eq_true_eq, List.all_eq_true, Bool.or_eq_true]
  constructor
  · rintro ⟨ho, hlen, hall⟩
    exact ⟨ho, Cell.RunStart.aligned (c := c) ho, hlen, hall⟩
  · rintro ⟨ho, -, hlen, hall⟩
    exact ⟨ho, hlen, hall⟩

/-- Where the run 32 bytes lower is not clear, a live run ends in between: a clear run stands at a place that `talloc` tries, or 32
bytes above a clear one. -/
theorem Cell.ClearRun.start_or_lower {c : Cell} {len o : Nat} (ho : c.ClearRun len o) :
    c.RunStart o ∨ (32 ≤ o ∧ c.ClearRun len (o - 32)) := by
  obtain ⟨hmod, hlen, hclear⟩ := ho
  by_cases h0 : o = 0
  · exact .inl (.inl h0)
  · by_cases hlower : ∀ r ∈ c.tiles, o - 32 + len ≤ r.off ∨ r.off + r.len ≤ o - 32
    · exact .inr ⟨by omega, by omega, by omega, hlower⟩
    · simp only [Classical.not_forall] at hlower
      obtain ⟨r, hr, hmeets⟩ := hlower
      have := hclear r hr
      exact .inl (.inr ⟨r, hr, by unfold alignUp; omega⟩)

/-- At or below every clear run stands one that `talloc` tries. -/
theorem Cell.ClearRun.start_below {c : Cell} {len : Nat} (o : Nat) (ho : c.ClearRun len o) :
    ∃ p, p ≤ o ∧ c.RunStart p ∧ c.ClearRun len p := by
  induction o using Nat.strongRecOn with
  | ind o ih =>
    rcases ho.start_or_lower with hstart | ⟨h32, hlower⟩
    · exact ⟨o, Nat.le_refl o, hstart, ho⟩
    · obtain ⟨p, hp, hclear⟩ := ih (o - 32) (by omega) hlower
      exact ⟨p, by omega, hclear⟩

/-- The search finds the lowest clear run when there is one. -/
theorem Cell.freeRun_lowest (c : Cell) (len : Nat) (hex : ∃ o, c.ClearRun len o) :
    ∃ off, c.freeRun len = some off ∧ c.ClearRun len off ∧ ∀ o, c.ClearRun len o → off ≤ o := by
  obtain ⟨l, hl, hmem⟩ := c.freeRun_eq_min? len
  rw [hl]
  cases hmin : l.min? with
  | none =>
    obtain ⟨o, ho⟩ := hex
    obtain ⟨p, -, hp⟩ := ho.start_below
    rw [List.min?_eq_none_iff.mp hmin] at hmem
    cases (hmem p).mpr hp
  | some off =>
    obtain ⟨hoff, hleast⟩ := List.min?_eq_some_iff.mp hmin
    obtain ⟨-, hclear⟩ := (hmem off).mp hoff
    refine ⟨off, rfl, hclear, fun o ho => ?_⟩
    obtain ⟨p, hpo, hp⟩ := ho.start_below
    exact Nat.le_trans (hleast p ((hmem p).mpr hp)) hpo

/-! ### Tile space (R190 to R192) -/

/-- A table reads its default at a key of which it keeps no entry. -/
theorem tget_filter_of_not {α : Type} (d : α) (t : Tbl α) (k : Nat) (p : Nat × α → Bool) (hp : ∀ v, p (k, v) = false) :
    tget d (t.filter p) k = d := by
  induction t with
  | nil => rfl
  | cons e t ih =>
    obtain ⟨j, v⟩ := e
    by_cases hj : p (j, v) = true
    · have hne : k ≠ j := by
        rintro rfl
        simp [hp v] at hj
      simp [hj, tget, hne, ih]
    · simpa [List.filter_cons, hj] using ih

theorem Cell.tget_tzero_inside (c : Cell) (off len b : Nat) (hlo : off ≤ b) (hhi : b < off + len) :
    tget 0 (c.tzero off len).ts b = 0 :=
  tget_filter_of_not 0 c.ts b _ (fun _ => by simp [hlo, hhi])

/-- A cell in which an application has allocated a run: its bytes zeroed, the run last among the live ones. -/
def Cell.allotted (c : Cell) (area off len : Nat) : Cell :=
  { c.tzero off len with tiles := c.tiles ++ [⟨off, len, some area, false, 0⟩] }

/-- The acting application has allocated a run: its cell holds it, its bytes are counted, its handle is written. -/
def State.allotted (s : State) (d off len : Nat) (handle : Word) : State :=
  (s.modCell s.cur (fun c => c.allotted s.here off len)).putApp ({ s.app with held := s.app.held + len }.setS d handle)

section
variable {s : State} {h : Hdr} {f : FmtM}

theorem talloc_allots (hr : Ready s h [sR f.d, sR f.ix]) {q : Word} {rows cols len off : Nat} (hq : q = s.app.getS f.ix.toNat)
    (hrows : rows = q.toNat % 512 + 1) (hcols : cols = q.toNat / 512 % 512 + 1) (hlen : len = footprint f.ty.toNat rows cols)
    (hbx : isBX f.ty.toNat = true → cols % 32 = 0) (hfit : len ≤ 393216) (hbudget : s.app.held + len ≤ s.area.tileb)
    (hrun : (s.cellAt s.cur).freeRun len = some off) :
    exec (.talloc h f) s =
      .next (s.allotted f.d.toNat off len (tileWord cols rows f.ty.toNat len off)).advance := by
  have hrows' : (q.extractLsb' 0 9).toNat + 1 = rows := by simp [BitVec.extractLsb'_toNat, hrows]
  have hcols' : (q.extractLsb' 9 9).toNat + 1 = cols := by simp [BitVec.extractLsb'_toNat, hcols, Nat.shiftRight_eq_div_pow]
  have hshape : (isBX f.ty.toNat && cols % 32 != 0 || decide (Config.tileBytes < len)) = false := by
    have hbytes : ¬Config.tileBytes < len := Nat.not_lt.mpr hfit
    cases hb : isBX f.ty.toNat with
    | false => simp [hbytes]
    | true => simp [hbytes, hbx hb]
  have happ : (s.modCell s.cur (fun c => c.allotted s.here off len)).app = s.app := s.app_modCell _ rfl
  refine congrArg _ (hr.issue_ok ?_)
  simp only [← hq, hrows', hcols', ← hlen, hshape, Bool.false_eq_true, if_false, Nat.not_lt.mpr hbudget, hrun]
  rw [State.allotted, ← happ]
  rfl

theorem State.allotted_advance_app (s : State) (d off len : Nat) (handle : Word) : (s.allotted d off len handle).advance.app =
    ({ s.app with held := s.app.held + len }.setS d handle).goto (s.app.pc + 1) := by
  simp [State.allotted]

theorem State.allotted_advance_cell (s : State) (d off len : Nat) (handle : Word) :
    (s.allotted d off len handle).advance.cellAt s.cur = (s.cellAt s.cur).allotted s.here off len := by
  simp [State.allotted]

theorem tfree_unnamed (hr : Ready s h [sR f.d]) (hn : s.runNamed (s.app.getS f.d.toNat) = none) : Traps (.tfree h f) s 8 6 0 := by
  refine congrArg _ (hr.issue_trap ?_)
  simp only [hn]
  rfl

theorem tfree_foreign (hr : Ready s h [sR f.d]) {r : TileRun} (hn : s.runNamed (s.app.getS f.d.toNat) = some r)
    (ha : r.alloc ≠ some s.here) : Traps (.tfree h f) s 8 5 0 := by
  refine congrArg _ (hr.issue_trap ?_)
  simp [hn, ha, clsMemory]

theorem tfree_own (hr : Ready s h [sR f.d]) {r : TileRun} (hn : s.runNamed (s.app.getS f.d.toNat) = some r)
    (ha : r.alloc = some s.here) (he : r.emitted = false) : exec (.tfree h f) s = .next (s.dropTile r).advance := by
  refine congrArg _ (hr.issue_ok ?_)
  simp [hn, ha, he]

/-- Freeing a tile takes its run from the live ones of its cell and leaves those at other offsets. -/
theorem State.dropTile_tiles (s : State) (r : TileRun) :
    ((s.dropTile r).cellAt s.cur).tiles = (s.cellAt s.cur).tiles.filter (fun y => y.off != r.off) := by
  simp [State.dropTile, Cell.freeTile]

/-- Freeing a tile takes its bytes off the budget; that records over it become invalid changes no count. -/
theorem State.dropTile_held (s : State) (r : TileRun) : (s.dropTile r).app.held = s.app.held - r.len := by
  rw [State.dropTile, State.app_putApp]
  refine List.foldlRecOn (motive := fun a : AppCell => a.held = s.app.held - r.len) _ _ ?_ ?_
  · rw [s.app_modCell _ rfl]
  · intro a ha n _
    dsimp only
    split <;> exact ha

variable {ra rb : TileRun} {wa wb : Word}

theorem tshr_same (hr : Ready s h [sR f.d, sR f.ix]) (hwa : wa = s.app.getS f.d.toNat) (hwb : wb = s.app.getS f.ix.toNat)
    (hra : s.runNamed wa = some ra) (hrb : s.runNamed wb = some rb) (ha : ra.alloc = some s.here) (he : ra.emitted = false)
    (hshape : withOff wa 0 = withOff wb 0)
    (hsame : (s.cellAt s.cur).tread ra.off ra.len = (s.cellAt s.cur).tread rb.off rb.len) :
    exec (.tshr h f) s = .next ((s.dropTile ra).putApp ((s.dropTile ra).app.setS f.d.toNat wb)).advance := by
  refine congrArg _ (hr.issue_ok ?_)
  simp [← hwa, ← hwb, hra, hrb, ha, he, hshape, hsame]

theorem tshr_differ (hr : Ready s h [sR f.d, sR f.ix]) (hwa : wa = s.app.getS f.d.toNat) (hwb : wb = s.app.getS f.ix.toNat)
    (hra : s.runNamed wa = some ra) (hrb : s.runNamed wb = some rb) (ha : ra.alloc = some s.here) (he : ra.emitted = false)
    (hshape : withOff wa 0 = withOff wb 0)
    (hdiff : ¬(s.cellAt s.cur).tread ra.off ra.len = (s.cellAt s.cur).tread rb.off rb.len) :
    Retires (.tshr h f) s s.app := by
  refine congrArg _ (hr.issue_ok (t := s) ?_)
  simp [← hwa, ← hwb, hra, hrb, ha, he, hshape, hdiff]
end

/-- Settles O35: each instruction's rule followed to its one answer; `talloc`'s run is the lowest clear one, because a clear run that
could not stand 32 bytes lower begins where a live one ends. -/
theorem shapesAndTiles : Obligations.ShapesAndTiles := by
  unfold Obligations.ShapesAndTiles
  intro s h f
  refine ⟨fun hr => shpSym_tile hr rfl, ?array, fun hr => shpVec_placed hr rfl, ?extent, ?talloc, ?tfree, ?tshr⟩
  case array =>
    intro hr ht
    exact ⟨shpSym_beyond hr rfl ht, fun q hn => shpSym_hit hr rfl ht hn, fun l hn hmiss hl => shpSym_read hr rfl ht hn hmiss hl rfl⟩
  case extent =>
    intro hr hv hk
    exact ⟨shpExt_placed hr rfl hv hk rfl, sadv_retires hr rfl hv hk⟩
  case talloc =>
    intro hr q ty rows cols len clear hbx hfit hbudget hex
    obtain ⟨off, hrun, hclear, hleast⟩ := (s.cellAt s.cur).freeRun_lowest len hex
    have hcell := s.allotted_advance_cell f.d.toNat off len (tileWord cols rows ty len off)
    refine ⟨off, _, hclear, hleast, talloc_allots hr rfl rfl rfl rfl hbx hfit hbudget hrun, s.allotted_advance_app _ _ _ _, ?_, ?_, ?_⟩
    · intro b hlo hhi
      exact (congrArg (fun c : Cell => tget 0 c.ts b) hcell).trans ((s.cellAt s.cur).tget_tzero_inside off len b hlo hhi)
    · exact congrArg Cell.ts hcell
    · exact congrArg Cell.tiles hcell
  case tfree =>
    intro hr
    refine ⟨tfree_unnamed hr, fun r hn => ⟨fun ha he => ?_, tfree_foreign hr hn⟩⟩
    refine ⟨_, tfree_own hr hn ha he, rfl, s.dropTile_tiles r, ?_⟩
    rw [State.advance_app]
    exact s.dropTile_held r
  case tshr =>
    intro hr ra rb hra hrb ha he hshape
    exact ⟨tshr_same hr rfl rfl hra hrb ha he hshape, tshr_differ hr rfl rfl hra hrb ha he hshape⟩

end Sys2Proof.Machine
end
